-- ==== Sys2Proof/Word.lean ====
section
/-! DEFINITION. The word and byte of the HOST bus (spec/20_memory.md R90) and the plain readings of a word. -/

namespace Sys2Proof

/-- A byte is 8 bits (R90). -/
abbrev Byte := BitVec 8

/-- A word is 32 bits (R90). -/
abbrev Word := BitVec 32

/-- The bit of a flag inside a register view: bit `i` of a word is 1 iff `b`. -/
def bit (b : Bool) (i : Nat) : Word := if b then BitVec.twoPow 32 i else 0

end Sys2Proof
end

