-- ==== Sys2Proof/Config.lean ====
section
/-! DEFINITION. What an instance of the block fixes: the parameters of spec/00_scope.md R9, and, as opaque
constants without a body, the free values: the configuration functions of R10 before their required properties are
imposed (Machine/Rom.lean imposes them), the open parameters P1 to P3 of spec/93_implementation_defined.md, and the
unspecified values of R72, U2, U3 and U4. -/

namespace Sys2Proof.Config

/-! ## Parameters (R9) -/

/-- Oscillator table length = transform size. -/
abbrev L : Nat := 1024
/-- log2 of `L`. -/
abbrev LOG2L : Nat := 10
/-- Spectrum bins held per spectrum. -/
abbrev HB : Nat := 512
/-- Harmonics in a harmonic table. -/
abbrev N_HARM : Nat := 128
/-- Unison sub-voices per voice. -/
abbrev MAX_UNISON : Nat := 50
/-- Fractional bits of an oscillator phase. -/
abbrev PH_FRAC : Nat := 24
/-- Spectral oscillator entities. -/
abbrev N_OSC : Nat := 16
/-- Note slots. -/
abbrev N_NOTES : Nat := 16
/-- Voice slots per note. -/
abbrev N_VOICES : Nat := 8
/-- Breakpoints per envelope. -/
abbrev MAX_ENV_POINTS : Nat := 40
/-- Stages per filter. -/
abbrev MAX_STAGES : Nat := 5
/-- Envelope (and LFO) slots per note. -/
abbrev ENV_SLOTS : Nat := 27
/-- Filter slots per note. -/
abbrev FLT_SLOTS : Nat := 18
/-- Samples per audio block. -/
abbrev BLOCK : Nat := 256
/-- Sample rate in Hz. -/
abbrev FS : Nat := 44100
/-- Legato fade window in samples. -/
abbrev FADE_LEN : Nat := 220
/-- New-voice fade-in window in samples. -/
abbrev FADEIN_LEN : Nat := 64
/-- Amplitude-interpolation threshold, raw Q8.24. -/
abbrev AMP_THRESH : Nat := 2048
/-- Minimum frequency, raw UQ16.16. -/
abbrev FREQ_MIN : Nat := 6554
/-- Half the sample rate, raw UQ16.16: `FS·2^15` (R192, R283). -/
abbrev FREQ_MAX : Nat := 1445068800
/-- Minimum Q, raw Q8.24. -/
abbrev Q_MIN : Int := 167772
/-- Minimum-dB floor, raw Q8.24. -/
abbrev MIN_DB : Int := -1677721600
/-- 32-bit words of command memory. -/
abbrev CMD_WORDS : Nat := 1024
/-- The Q8.24 raw value of 1.0 (R13). -/
abbrev ONE : Int := 16777216
/-- The modulus of an oscillator phase (R13). -/
abbrev PHMOD : Nat := 17179869184

/-! ## Open parameters (spec/93_implementation_defined.md P1 to P3) -/

/-- One less than the number of regeneration workers; P1, no rule depends on it. -/
opaque workersPred : Nat
/-- The number of regeneration workers, at least 1 (R9 `N_WORKERS`). -/
def nWorkers : Nat := workersPred + 1
/-- Whether the harmonic shift wraps around bins 1..511 (R184); P2. -/
opaque shiftWrap : Bool
/-- Whether the transform declares the single-bin exactness T4 of R172; P3. -/
opaque declaresT4 : Bool
/-- The accuracy T5 of R172 in raw units, if the transform declares one; P3. -/
opaque transformEps : Option Nat

/-! ## Raw configuration functions (R10)

Each is uninterpreted; Machine/Rom.lean cuts it down to the required properties of its rule. -/

/-- Raw first quarter of the sine table (R18). -/
opaque sinRaw : Nat → Word
/-- Raw forward transform: samples, bin, to (cosine, sine) amplitudes (R172). -/
opaque fwdTRaw : List Int → Nat → Word × Word
/-- Raw inverse transform: spectrum, sample index, to sample (R172). -/
opaque invTRaw : List (Int × Int) → Nat → Word
/-- Raw split points of the logarithmic magnitude scales: type, level, prefix (R175). -/
opaque magRaw : Nat → Nat → Nat → Nat
/-- Raw base functions: function, knob, table index (R176). -/
opaque baseFuncRaw : Nat → Nat → Nat → Word
/-- Raw waveshaping curves: type, knob, sample (R181). -/
opaque waveshapeRaw : Nat → Nat → Int → Word
/-- Spectral filter gains: type, two knobs, bin; a non-negative Q8.24 (R182). -/
opaque specFilterRaw : Nat → Nat → Nat → Nat → BitVec 31
/-- Raw spectrum adjustment: type, knob, magnitude (R183). -/
opaque specAdjustRaw : Nat → Nat → Nat → Nat
/-- Raw adaptive-harmonics remap: spectrum, mode, knob, bin (R185). -/
opaque adaptiveRaw : List (Int × Int) → Nat → Nat → Nat → Word × Word
/-- Raw resonance: spectrum, frequency, centre and bandwidth controllers, bin (R195). -/
opaque resonanceRaw : List (Int × Int) → Nat → Int → Int → Nat → Word × Word
/-- Amplitude randomisation gains: type, knob, bin, 31-bit draw; a non-negative Q8.24 (R197). -/
opaque ampRandRaw : Nat → Nat → Nat → Nat → BitVec 31
/-- Raw split points of `exp2` inside octave `n` (R19). -/
opaque exp2Raw : Int → Nat → Nat → Nat
/-- Where `exp2` rises from 0 to 1 below 2^-16 Hz (R19). -/
opaque exp2Tail : Int
/-- Raw split points of `db2lin` below (false) and above (true) 0 dB (R232). -/
opaque db2linRaw : Bool → Nat → Nat → Nat
/-- Raw split points of `lin2db` below (false) and above (true) 1.0 (R232). -/
opaque lin2dbRaw : Bool → Nat → Nat → Nat
/-- Filter coefficients: kind, type, frequency, Q, stages, coefficient number (R282). -/
opaque filterCoefRaw : Nat → Nat → Nat → Int → Nat → Nat → Word

/-! ## Free values -/

/-- What a cell that nothing has written reads as (R72, U1): a free value of the read's number and the address. -/
opaque undefWord : Nat → Nat → Word
/-- The read data of a refused HOST access and of a HOST read of an undef cell (U2, U3, U4): a free value of the
number of the read. -/
opaque busWord : Nat → Word

end Sys2Proof.Config
end

