-- ==== Sys2Proof/Syntax.lean ====
section
/-! DEFINITION. The 28 commands of spec/30_encoding.md R134, one constructor per row of spec/opcode_table.json,
with the operand fields of R132 and R133 as the bits they are. -/

namespace Sys2Proof

/-- A command with its operand fields. `o` is an oscillator, `n` a note slot, `k` an envelope or LFO slot, `f` a
filter slot, `v` a voice, `buf` a buffer identifier; index bytes are the A, B, C bytes of W0. -/
inductive Instr where
  /-- NOP, R164. -/
  | nop
  /-- HALT, R165. -/
  | halt
  /-- OSC.PREPARE, R186. -/
  | oscPrepare (o : Byte)
  /-- OSC.GET, R188. -/
  | oscGet (o n : Byte) (v : BitVec 3) (sel useres : Bool) (freq : Word)
  /-- OSC.REGEN, R204. -/
  | oscRegen (o : Byte)
  /-- OSC.CANCEL, R212. -/
  | oscCancel (o : Byte)
  /-- ENV.RESET, R234. -/
  | envReset (n k : Byte)
  /-- ENV.OUT, R236. -/
  | envOut (n k : Byte)
  /-- ENV.OUTDB, R242. -/
  | envOutdb (n k : Byte)
  /-- ENV.RELEASE, R244. -/
  | envRelease (n k : Byte)
  /-- ENV.FINISH, R245. -/
  | envFinish (n k : Byte)
  /-- LFO.RESET, R256. -/
  | lfoReset (n k : Byte)
  /-- LFO.OUT, R257. -/
  | lfoOut (n k : Byte)
  /-- FLT.SETFREQ, R284. -/
  | fltSetfreq (n f : Byte) (freq : Word)
  /-- FLT.SETFQ, R285. -/
  | fltSetfq (n f : Byte) (freq q : Word)
  /-- FLT.OUT, R286. -/
  | fltOut (n f buf : Byte)
  /-- FLT.CLEANUP, R291. -/
  | fltCleanup (n f : Byte)
  /-- NOTE.INIT, R311. -/
  | noteInit (n : Byte)
  /-- NOTE.OUT, R320. -/
  | noteOut (n : Byte)
  /-- NOTE.RELEASE, R370. -/
  | noteRelease (n : Byte)
  /-- NOTE.KILL, R371. -/
  | noteKill (n : Byte)
  /-- NOTE.LEGATO, R360. -/
  | noteLegato (n : Byte) (pitch velocity : Word)
  /-- NOTE.SETVEL, R372. -/
  | noteSetvel (n : Byte) (value : Word)
  /-- NOTE.SETPITCH, R373. -/
  | noteSetpitch (n : Byte) (value : Word)
  /-- NOTE.SETCUT, R374. -/
  | noteSetcut (n : Byte) (value : Word)
  /-- NOTE.FIN, R375. -/
  | noteFin (n : Byte)
  /-- MIX.ALL, R391. -/
  | mixAll (mask : BitVec 16)
  /-- MIX.CLEAR, R392. -/
  | mixClear
  deriving DecidableEq, Repr

/-- The four words of a command, W0 first (R130). -/
structure Words where
  w0 : Word
  w1 : Word
  w2 : Word
  w3 : Word
  deriving DecidableEq, Repr

end Sys2Proof
end

