-- ==== Sys2Proof/WellFormed.lean ====
section
/-! DEFINITION. Which commands have every index operand inside its range (spec/20_memory.md R104, R105,
spec/60_exceptions.md R421): the others decode, and raise IndexRange when they are executed. -/

namespace Sys2Proof

/-- An oscillator index is at most 15. -/
def oscIndexOk (o : Byte) : Bool := o.toNat < Config.N_OSC
/-- A note index is at most 15. -/
def noteIndexOk (n : Byte) : Bool := n.toNat < Config.N_NOTES
/-- An envelope or LFO slot is at most 26. -/
def slotIndexOk (k : Byte) : Bool := k.toNat < Config.ENV_SLOTS
/-- A filter slot is at most 17. -/
def filterIndexOk (f : Byte) : Bool := f.toNat < Config.FLT_SLOTS
/-- A voice index is at most 7 (every value of the three-bit field is). -/
def voiceIndexOk (v : BitVec 3) : Bool := v.toNat < Config.N_VOICES
/-- A buffer identifier is 0, 1 or 16 + v with v at most 7 (R105). -/
def bufferIdOk (buf : Byte) : Bool := buf.toNat = 0 || buf.toNat = 1 || (16 ≤ buf.toNat && buf.toNat ≤ 23)

/-- Every index operand is inside its range. -/
def Instr.wellFormed : Instr → Bool
  | .nop => true
  | .halt => true
  | .oscPrepare o => oscIndexOk o
  | .oscGet o n v _ _ _ => oscIndexOk o && noteIndexOk n && voiceIndexOk v
  | .oscRegen o => oscIndexOk o
  | .oscCancel o => oscIndexOk o
  | .envReset n k => noteIndexOk n && slotIndexOk k
  | .envOut n k => noteIndexOk n && slotIndexOk k
  | .envOutdb n k => noteIndexOk n && slotIndexOk k
  | .envRelease n k => noteIndexOk n && slotIndexOk k
  | .envFinish n k => noteIndexOk n && slotIndexOk k
  | .lfoReset n k => noteIndexOk n && slotIndexOk k
  | .lfoOut n k => noteIndexOk n && slotIndexOk k
  | .fltSetfreq n f _ => noteIndexOk n && filterIndexOk f
  | .fltSetfq n f _ _ => noteIndexOk n && filterIndexOk f
  | .fltOut n f buf => noteIndexOk n && filterIndexOk f && bufferIdOk buf
  | .fltCleanup n f => noteIndexOk n && filterIndexOk f
  | .noteInit n => noteIndexOk n
  | .noteOut n => noteIndexOk n
  | .noteRelease n => noteIndexOk n
  | .noteKill n => noteIndexOk n
  | .noteLegato n _ _ => noteIndexOk n
  | .noteSetvel n _ => noteIndexOk n
  | .noteSetpitch n _ => noteIndexOk n
  | .noteSetcut n _ => noteIndexOk n
  | .noteFin n => noteIndexOk n
  | .mixAll _ => true
  | .mixClear => true

end Sys2Proof
end

