-- ==== Sys2Proof/Decode.lean ====
section
/-! DEFINITION. Decoding and encoding of commands (spec/30_encoding.md R130 to R138): total on any four words and on
any bytes, rejecting by name; then the encoder, from the same tables. -/

namespace Sys2Proof

/-- Why four words are no command (R135), or why bytes are not four words. -/
inductive DecodeError where
  /-- OP is not in the opcode map (R134): the sequencer raises IllegalCommand. -/
  | badOpcode
  /-- A must-be-zero field of the command's format is not zero (R132): the sequencer raises IllegalCommand. -/
  | mustBeZero
  /-- Fewer than the 16 bytes of a command (R130). -/
  | truncated
  deriving DecidableEq, Repr

/-- The formats of R132. -/
inductive Format where
  | Z | O | G | NS | NF0 | NF1 | NF2 | NFB | N | NP | NPP | M
  deriving DecidableEq, Repr

/-- W0[7:0], the opcode (R131). -/
def Words.op (c : Words) : Byte := c.w0.extractLsb' 0 8
/-- W0[15:8], the first index (R131). -/
def Words.a (c : Words) : Byte := c.w0.extractLsb' 8 8
/-- W0[23:16], the second index (R131). -/
def Words.b (c : Words) : Byte := c.w0.extractLsb' 16 8
/-- W0[31:24], the third index or flags (R131). -/
def Words.c (c : Words) : Byte := c.w0.extractLsb' 24 8

/-- Every field that the format marks 0 is zero (R132, R135). -/
def Format.mbzOk (f : Format) (c : Words) : Bool :=
  match f with
  | .Z => c.a == 0 && c.b == 0 && c.c == 0 && c.w1 == 0 && c.w2 == 0 && c.w3 == 0
  | .O => c.b == 0 && c.c == 0 && c.w1 == 0 && c.w2 == 0 && c.w3 == 0
  | .G => c.c.extractLsb' 5 3 == 0 && c.w2 == 0 && c.w3 == 0
  | .NS => c.c == 0 && c.w1 == 0 && c.w2 == 0 && c.w3 == 0
  | .NF0 => c.c == 0 && c.w1 == 0 && c.w2 == 0 && c.w3 == 0
  | .NF1 => c.c == 0 && c.w2 == 0 && c.w3 == 0
  | .NF2 => c.c == 0 && c.w3 == 0
  | .NFB => c.w1 == 0 && c.w2 == 0 && c.w3 == 0
  | .N => c.b == 0 && c.c == 0 && c.w1 == 0 && c.w2 == 0 && c.w3 == 0
  | .NP => c.b == 0 && c.c == 0 && c.w2 == 0 && c.w3 == 0
  | .NPP => c.b == 0 && c.c == 0 && c.w3 == 0
  | .M => c.a == 0 && c.b == 0 && c.c == 0 && c.w1.extractLsb' 16 16 == 0 && c.w2 == 0 && c.w3 == 0

/-- The opcode map of R134: for each opcode its format and how the operands are read (R132, R133). -/
def opcodeMap (op : Nat) (c : Words) : Option (Format × Instr) :=
  match op with
  | 0x00 => some (.Z, .nop)
  | 0x01 => some (.Z, .halt)
  | 0x10 => some (.O, .oscPrepare c.a)
  | 0x11 => some (.G, .oscGet c.a c.b (c.c.extractLsb' 0 3) (c.c.getLsbD 3) (c.c.getLsbD 4) c.w1)
  | 0x12 => some (.O, .oscRegen c.a)
  | 0x13 => some (.O, .oscCancel c.a)
  | 0x20 => some (.NS, .envReset c.a c.b)
  | 0x21 => some (.NS, .envOut c.a c.b)
  | 0x22 => some (.NS, .envOutdb c.a c.b)
  | 0x23 => some (.NS, .envRelease c.a c.b)
  | 0x24 => some (.NS, .envFinish c.a c.b)
  | 0x28 => some (.NS, .lfoReset c.a c.b)
  | 0x29 => some (.NS, .lfoOut c.a c.b)
  | 0x30 => some (.NF1, .fltSetfreq c.a c.b c.w1)
  | 0x31 => some (.NF2, .fltSetfq c.a c.b c.w1 c.w2)
  | 0x32 => some (.NFB, .fltOut c.a c.b c.c)
  | 0x33 => some (.NF0, .fltCleanup c.a c.b)
  | 0x40 => some (.N, .noteInit c.a)
  | 0x41 => some (.N, .noteOut c.a)
  | 0x42 => some (.N, .noteRelease c.a)
  | 0x43 => some (.N, .noteKill c.a)
  | 0x44 => some (.NPP, .noteLegato c.a c.w1 c.w2)
  | 0x45 => some (.NP, .noteSetvel c.a c.w1)
  | 0x46 => some (.NP, .noteSetpitch c.a c.w1)
  | 0x47 => some (.NP, .noteSetcut c.a c.w1)
  | 0x48 => some (.N, .noteFin c.a)
  | 0x50 => some (.M, .mixAll (c.w1.extractLsb' 0 16))
  | 0x51 => some (.Z, .mixClear)
  | _ => none

/-- Steps (1) and (2) of the decoding procedure R138. Steps (3) and (4) are the command's own (`Instr.wellFormed` and
its rule). -/
def decode (c : Words) : Except DecodeError Instr :=
  match opcodeMap c.op.toNat c with
  | none => .error .badOpcode
  | some (f, i) => if f.mbzOk c then .ok i else .error .mustBeZero

/-- A word from its four bytes, the byte at the lowest address first (R93). -/
def wordOfBytes (b0 b1 b2 b3 : Byte) : Word := b3 ++ b2 ++ b1 ++ b0

/-- Byte `i` of a word, byte 0 at the lowest address (R93). -/
def byteOfWord (w : Word) (i : Nat) : Byte := w.extractLsb' (8 * i) 8

/-- The four bytes of a word in address order (R93). -/
def bytesOfWord (w : Word) : List Byte := [byteOfWord w 0, byteOfWord w 1, byteOfWord w 2, byteOfWord w 3]

/-- Decoding from memory bytes: the first 16 bytes are the four words, the rest is left over. -/
def decodeBytes : List Byte → Except DecodeError (Instr × List Byte)
  | a0 :: a1 :: a2 :: a3 :: b0 :: b1 :: b2 :: b3 :: c0 :: c1 :: c2 :: c3 :: d0 :: d1 :: d2 :: d3 :: rest =>
    match decode ⟨wordOfBytes a0 a1 a2 a3, wordOfBytes b0 b1 b2 b3, wordOfBytes c0 c1 c2 c3, wordOfBytes d0 d1 d2 d3⟩ with
    | .ok i => .ok (i, rest)
    | .error e => .error e
  | _ => .error .truncated

/-- W0 from its four fields (R131). -/
def mkW0 (op a b c : Byte) : Word := c ++ b ++ a ++ op

/-- The C byte of format G: bits [2:0] the voice, bit 3 SEL, bit 4 USERES, bits [7:5] zero (R132). -/
def mkGetC (v : BitVec 3) (sel useres : Bool) : Byte := 0#3 ++ BitVec.ofBool useres ++ BitVec.ofBool sel ++ v

/-- The four words of a command (R131 to R134). -/
def encode : Instr → Words
  | .nop => ⟨mkW0 0x00 0 0 0, 0, 0, 0⟩
  | .halt => ⟨mkW0 0x01 0 0 0, 0, 0, 0⟩
  | .oscPrepare o => ⟨mkW0 0x10 o 0 0, 0, 0, 0⟩
  | .oscGet o n v sel useres freq => ⟨mkW0 0x11 o n (mkGetC v sel useres), freq, 0, 0⟩
  | .oscRegen o => ⟨mkW0 0x12 o 0 0, 0, 0, 0⟩
  | .oscCancel o => ⟨mkW0 0x13 o 0 0, 0, 0, 0⟩
  | .envReset n k => ⟨mkW0 0x20 n k 0, 0, 0, 0⟩
  | .envOut n k => ⟨mkW0 0x21 n k 0, 0, 0, 0⟩
  | .envOutdb n k => ⟨mkW0 0x22 n k 0, 0, 0, 0⟩
  | .envRelease n k => ⟨mkW0 0x23 n k 0, 0, 0, 0⟩
  | .envFinish n k => ⟨mkW0 0x24 n k 0, 0, 0, 0⟩
  | .lfoReset n k => ⟨mkW0 0x28 n k 0, 0, 0, 0⟩
  | .lfoOut n k => ⟨mkW0 0x29 n k 0, 0, 0, 0⟩
  | .fltSetfreq n f freq => ⟨mkW0 0x30 n f 0, freq, 0, 0⟩
  | .fltSetfq n f freq q => ⟨mkW0 0x31 n f 0, freq, q, 0⟩
  | .fltOut n f buf => ⟨mkW0 0x32 n f buf, 0, 0, 0⟩
  | .fltCleanup n f => ⟨mkW0 0x33 n f 0, 0, 0, 0⟩
  | .noteInit n => ⟨mkW0 0x40 n 0 0, 0, 0, 0⟩
  | .noteOut n => ⟨mkW0 0x41 n 0 0, 0, 0, 0⟩
  | .noteRelease n => ⟨mkW0 0x42 n 0 0, 0, 0, 0⟩
  | .noteKill n => ⟨mkW0 0x43 n 0 0, 0, 0, 0⟩
  | .noteLegato n pitch velocity => ⟨mkW0 0x44 n 0 0, pitch, velocity, 0⟩
  | .noteSetvel n value => ⟨mkW0 0x45 n 0 0, value, 0, 0⟩
  | .noteSetpitch n value => ⟨mkW0 0x46 n 0 0, value, 0, 0⟩
  | .noteSetcut n value => ⟨mkW0 0x47 n 0 0, value, 0, 0⟩
  | .noteFin n => ⟨mkW0 0x48 n 0 0, 0, 0, 0⟩
  | .mixAll mask => ⟨mkW0 0x50 0 0 0, 0#16 ++ mask, 0, 0⟩
  | .mixClear => ⟨mkW0 0x51 0 0 0, 0, 0, 0⟩

/-- The 16 bytes of four words in address order (R93, R130). -/
def bytesOfWords (c : Words) : List Byte :=
  bytesOfWord c.w0 ++ bytesOfWord c.w1 ++ bytesOfWord c.w2 ++ bytesOfWord c.w3

/-- The bytes of a command as command memory holds them. -/
def encodeBytes (i : Instr) : List Byte := bytesOfWords (encode i)

/-- The four words of a 128-bit number whose bit 0 is bit 0 of W0; bits from `nbits` on are 0. -/
def wordsOfNat (nbits w : Nat) : Words :=
  let u := w % 2 ^ nbits
  ⟨BitVec.ofNat 32 u, BitVec.ofNat 32 (u / 2 ^ 32), BitVec.ofNat 32 (u / 2 ^ 64), BitVec.ofNat 32 (u / 2 ^ 96)⟩

/-- What the decoder reads from the command whose bits are `w`, numbered as spec/opcode_table.json numbers them. -/
def decodeTableWord (nbits w : Nat) : Option Instr :=
  match decodeBytes (bytesOfWords (wordsOfNat nbits w)) with
  | .ok (i, _) => some i
  | .error _ => none

end Sys2Proof
end

