-- ==== Sys2Proof/Machine/State.lean ====
section
/-! DEFINITION. The state of the block as plain data (spec/10_state.md R30 to R72), its value after reset
(spec/70_reset_and_hazards.md R470 to R472), and the reasons a step can stop.

Cells that reset to undef (HMAG, HPHASE, SPEC, WAVE, DT, VAL, the UNI records, OUTL, OUTR, VOUT, VWAVEC, VWAVEM,
MIXL, MIXR, CMDMEM) are bytes of `State.mem` at their bus addresses; every register with a reset value is a field.
Registers that mirror another piece of state (REGEN_RUN, VCREATED, OSTAT.RGRUN, `irq`) are views, in
Machine/Ops.lean. -/

namespace Sys2Proof.Machine

/-- Why the machine stops with no next state. -/
inductive Fault where
  /-- The sequencer fetched a command-memory word that nothing has written since reset (R72, U1): no command is
  given. Raised by the fetch. Safe: the spec asks a model to fault or refuse such a run. -/
  | undefFetch
  deriving DecidableEq, Repr

/-- Why a command has no meaning in the model. -/
inductive Refusal where
  /-- The command has no meaning yet; no arm of exec answers it. Safe. -/
  | notModelled (mnemonic : String)
  deriving DecidableEq, Repr

/-- Memory: (byte address, byte) pairs, addresses strictly rising; an address that is not listed holds no value. -/
abbrev Mem := List Host.Cell

/-! ## Spectral oscillators (R52, R53, R56) -/

/-- The scalar configuration registers of one oscillator (R52), each at its listed width. -/
structure OscCfg where
  magtype : BitVec 3
  basefunc : BitVec 4
  basepar : BitVec 7
  wstype : BitVec 8
  wspar : BitVec 7
  sftype : BitVec 8
  sfpar1 : BitVec 7
  sfpar2 : BitVec 7
  satype : BitVec 2
  sapar : BitVec 7
  hshift : BitVec 8
  stageorder : BitVec 8
  adapt : BitVec 8
  adaptpar : BitVec 7
  normmode : BitVec 2
  aa : BitVec 1
  randmode : BitVec 2
  randdepth : BitVec 7
  amprandtype : BitVec 2
  amprandpower : BitVec 7
  deriving DecidableEq, Repr, Inhabited

/-- A running regeneration job (R56): the snapshot (scalar registers, the HMAG and HPHASE cells, CFGVER), the
cancellation request (OSTAT.RGCANCEL), SPECDONE and UNITDONE (strictly rising). -/
structure Job where
  snapCfg : OscCfg
  snapTable : Mem
  snapVer : Word
  cancel : Bool
  specDone : Bool
  unitDone : List Nat
  deriving DecidableEq, Repr, Inhabited

/-- One oscillator. OSTAT.RGRUN is `job.isSome`: the hidden state has no meaning when no job runs. -/
structure Osc where
  cfg : OscCfg
  dirty : Bool
  pubsel : Bool
  valid : Bool
  cfgver : Word
  pubver : Word
  job : Option Job
  deriving DecidableEq, Repr, Inhabited

/-! ## Note slots (R57 to R67) -/

/-- NSTAT (R57). -/
structure NStat where
  active : Bool
  finished : Bool
  killed : Bool
  first : Bool
  released : Bool
  deriving DecidableEq, Repr, Inhabited

/-- LEGSTAT.STATE (R57, R59). -/
inductive LegState where
  | normal | fadeIn | fadeOut | catchUp
  deriving DecidableEq, Repr, Inhabited

/-- One envelope (R61) without its DT and VAL tables, which are memory cells. -/
structure Env where
  npts : BitVec 8
  sust : BitVec 8
  eflags : BitVec 4
  ecur : BitVec 8
  et : Word
  released : Bool
  finished : Bool
  frpend : Bool
  eout : Word
  eret : Word
  ev0 : Word
  erelval : Word
  enpts : BitVec 8
  esust : BitVec 8
  deriving DecidableEq, Repr, Inhabited

/-- One LFO (R62). -/
structure Lfo where
  linc : BitVec 24
  lphase0 : BitVec 24
  lshape : BitVec 3
  ldepth : Word
  ldelay : BitVec 16
  lphase : BitVec 24
  ldcnt : BitVec 16
  lout : Word
  deriving DecidableEq, Repr, Inhabited

/-- The four state words of a filter stage (R63): (x1, x2, y1, y2) of a biquad, (low, band, high, notch) of a
state-variable stage. -/
structure FltStage where
  s0 : Word
  s1 : Word
  s2 : Word
  s3 : Word
  deriving DecidableEq, Repr, Inhabited

/-- One filter (R63). -/
structure Flt where
  fkind : BitVec 1
  ftype : BitVec 8
  fstages : BitVec 3
  ffreq : Word
  fq : Word
  fnst : BitVec 3
  fc : Vector Word 5
  fst : Vector FltStage 5
  deriving DecidableEq, Repr, Inhabited

/-- One voice slot (R65) without its sub-voice records and buffers, which are memory cells. VCTRL and VOSC hold only
their listed bits. -/
structure Voice where
  vctrl : Word
  vosc : Word
  detune : Word
  moddetune : Word
  vvolume : Word
  vpanl : Word
  vpanr : Word
  modamp : Word
  modgain : BitVec 16
  unisize : BitVec 6
  uninorm : Word
  vibamp : Word
  vfbase : Word
  vfq : Word
  created : Bool
  finished : Bool
  first : Bool
  vampold : Word
  vampnew : Word
  modampold : Word
  usize : BitVec 6
  topo : BitVec 3
  modext : Bool
  deriving DecidableEq, Repr, Inhabited

/-- One note slot (R57 to R67) without its output buffers, which are memory cells. -/
structure Note where
  nstat : NStat
  log2freq : Word
  velocity : Word
  volume : Word
  panl : Word
  panr : Word
  cutoff : Word
  gfbase : Word
  gfq : Word
  gfen : BitVec 1
  rng : Word
  legstate : LegState
  silent : Bool
  legcount : Word
  legpitch : Word
  legvel : Word
  gampold : Word
  gampnew : Word
  nctrl : BitVec 1
  envs : Vector Env 27
  lfos : Vector Lfo 27
  flts : Vector Flt 18
  voices : Vector Voice 8
  deriving DecidableEq, Repr, Inhabited

/-! ## The whole block -/

/-- STATUS (R45). -/
structure Status where
  busy : Bool
  done : Bool
  fault : Bool
  deriving DecidableEq, Repr, Inhabited

/-- The controller snapshot registers (R50). -/
structure Ctl where
  pitchbend : Word
  modwheel : Word
  portamento : Word
  sustain : BitVec 1
  rescenter : Word
  resbw : Word
  bandwidth : Word
  deriving DecidableEq, Repr, Inhabited

/-- The width of a HOST bus access (R94). -/
inductive Width where
  | w8 | w16 | w32 | w64
  deriving DecidableEq, Repr, Inhabited

/-- One HOST bus access (R96, R97). -/
inductive HostAccess where
  | read (w : Width) (addr : Word)
  | write (w : Width) (addr v : Word)
  deriving DecidableEq, Repr, Inhabited

/-- One entry of the model's agenda: which agent takes the next step of the total order (R110), and what the outside
world does in it. `regen o u` is a worker's step on oscillator `o`, taking sample unit `u` if it takes one (R205,
R207); `reset` is the reset input (R470). -/
inductive Turn where
  | seq
  | host (a : HostAccess)
  | regen (o u : Nat)
  | reset
  deriving DecidableEq, Repr, Inhabited

/-- The state of the block (R30), and five fields of the MODEL's own, not the spec's: `turns` (the interleaving and
the HOST's accesses still to come), `rdata` (the data of the last HOST read), `busReads` and `undefReads` (counters
that index the free values), `undefRead` (an undef cell has been read by a command or work unit, R72). -/
structure State where
  x0 : Word
  x1 : Word
  x2 : Word
  x3 : Word
  res0 : Word
  res1 : Word
  cptr : BitVec 13
  status : Status
  err : BitVec 8
  faultCode : BitVec 8
  faultPtr : BitVec 13
  faultInfo : Word
  irqEn : BitVec 5
  irqPend : BitVec 5
  voiceCap : BitVec 8
  nvoices : BitVec 8
  ctl : Ctl
  regenDone : BitVec 16
  regenCanc : BitVec 16
  oscs : Vector Osc 16
  notes : Vector Note 16
  mem : Mem
  turns : List Turn
  rdata : Word
  busReads : Nat
  undefReads : Nat
  undefRead : Bool
  deriving DecidableEq, Repr, Inhabited

/-! ## Reset values (R70, R470, R472) -/

/-- Oscillator configuration after reset: all 0 but STAGEORDER = 0xE4. -/
def OscCfg.reset : OscCfg :=
  { magtype := 0, basefunc := 0, basepar := 0, wstype := 0, wspar := 0, sftype := 0, sfpar1 := 0, sfpar2 := 0,
    satype := 0, sapar := 0, hshift := 0, stageorder := 0xE4, adapt := 0, adaptpar := 0, normmode := 0, aa := 0,
    randmode := 0, randdepth := 0, amprandtype := 0, amprandpower := 0 }

/-- An oscillator after reset: OSTAT = 0x1. -/
def Osc.reset : Osc :=
  { cfg := .reset, dirty := true, pubsel := false, valid := false, cfgver := 0, pubver := 0, job := none }

/-- An envelope after reset. -/
def Env.reset : Env :=
  { npts := 0, sust := 0, eflags := 0, ecur := 0, et := 0, released := false, finished := false, frpend := false,
    eout := 0, eret := 0, ev0 := 0, erelval := 0, enpts := 0, esust := 0 }

/-- An LFO after reset. -/
def Lfo.reset : Lfo :=
  { linc := 0, lphase0 := 0, lshape := 0, ldepth := 0, ldelay := 0, lphase := 0, ldcnt := 0, lout := 0 }

/-- A filter stage with all four words 0. -/
def FltStage.zero : FltStage := ⟨0, 0, 0, 0⟩

/-- A filter after reset. -/
def Flt.reset : Flt :=
  { fkind := 0, ftype := 0, fstages := 0, ffreq := 0, fq := 0, fnst := 0, fc := Vector.replicate 5 0,
    fst := Vector.replicate 5 .zero }

/-- A voice slot after reset. -/
def Voice.reset : Voice :=
  { vctrl := 0, vosc := 0, detune := 0, moddetune := 0, vvolume := 0, vpanl := 0, vpanr := 0, modamp := 0,
    modgain := 0, unisize := 0, uninorm := 0, vibamp := 0, vfbase := 0, vfq := 0, created := false,
    finished := false, first := false, vampold := 0, vampnew := 0, modampold := 0, usize := 0, topo := 0,
    modext := false }

/-- A note slot after reset. -/
def Note.reset : Note :=
  { nstat := ⟨false, false, false, false, false⟩, log2freq := 0, velocity := 0, volume := 0, panl := 0, panr := 0,
    cutoff := 0, gfbase := 0, gfq := 0, gfen := 0, rng := 0, legstate := .normal, silent := false, legcount := 0,
    legpitch := 0, legvel := 0, gampold := 0, gampnew := 0, nctrl := 0, envs := Vector.replicate 27 .reset,
    lfos := Vector.replicate 27 .reset, flts := Vector.replicate 18 .reset, voices := Vector.replicate 8 .reset }

/-- The controller registers after reset: CTL_MODWHEEL and CTL_BANDWIDTH are ONE (R50). -/
def Ctl.reset : Ctl :=
  { pitchbend := 0, modwheel := 0x01000000, portamento := 0, sustain := 0, rescenter := 0, resbw := 0,
    bandwidth := 0x01000000 }

/-- The block right after reset, with nothing on the agenda. -/
def State.reset : State :=
  { x0 := 0, x1 := 0, x2 := 0, x3 := 0, res0 := 0, res1 := 0, cptr := 0, status := ⟨false, false, false⟩, err := 0,
    faultCode := 0, faultPtr := 0, faultInfo := 0, irqEn := 0, irqPend := 0, voiceCap := 128, nvoices := 0,
    ctl := .reset, regenDone := 0, regenCanc := 0, oscs := Vector.replicate 16 .reset,
    notes := Vector.replicate 16 .reset, mem := [], turns := [], rdata := 0, busReads := 0, undefReads := 0,
    undefRead := false }

end Sys2Proof.Machine
end

