-- ==== Sys2Proof/Machine/Flags.lean ====
section
/-! DEFINITION. Flag computation and the arithmetic that sets flags: results that carry "a `sat32` changed its
argument" (spec/00_scope.md R14), the fixed-point primitives of R12 and R15, the sticky ERR flags with their interrupt
(spec/10_state.md R46, spec/60_exceptions.md R431) and the other interrupt sources (R430, R432). -/

namespace Sys2Proof.Machine

/-! ## Results with a saturation flag -/

/-- A result, and whether some `sat32` on the way changed its argument (R14). -/
structure Sat (α : Type) where
  val : α
  sat : Bool
  deriving DecidableEq, Repr

/-- A result with no saturation. -/
def Sat.ok {α : Type} (a : α) : Sat α := ⟨a, false⟩

/-- Go on with the result; the flag is sticky. -/
def Sat.bind {α β : Type} (x : Sat α) (f : α → Sat β) : Sat β :=
  let y := f x.val
  ⟨y.val, x.sat || y.sat⟩

/-- Apply a function that cannot saturate. -/
def Sat.map {α β : Type} (f : α → β) (x : Sat α) : Sat β := ⟨f x.val, x.sat⟩

/-- Elementwise results of a list. -/
def mapSat {α β : Type} (f : α → Sat β) (xs : List α) : Sat (List β) :=
  let ys := xs.map f
  ⟨ys.map (·.val), ys.any (·.sat)⟩

/-! ## Fixed-point primitives (R12, R15) -/

/-- `fdiv(a, b)` for b > 0: the floor of the exact quotient. -/
def fdiv (a b : Int) : Int := a / b

/-- `clamp(x, lo, hi)` = min(max(x, lo), hi). -/
def clamp (x lo hi : Int) : Int := min (max x lo) hi

/-- A bit-by-bit root: `r` is the part of the root found so far, bits from `b` down are still open. -/
def isqrtFrom (n : Nat) : Nat → Nat → Nat
  | 0, r => r
  | b + 1, r => if (r + 2 ^ b) * (r + 2 ^ b) ≤ n then isqrtFrom n b (r + 2 ^ b) else isqrtFrom n b r

/-- `isqrt(n)`: the largest r with r·r ≤ n. -/
def isqrt (n : Nat) : Nat := isqrtFrom n (n.log2 / 2 + 1) 0

/-- Whether x lies outside the 32-bit signed range. -/
def outOfRange32 (x : Int) : Bool := x < -2147483648 || 2147483647 < x

/-- `sat32(x)` (R14). -/
def sat32 (x : Int) : Sat Int := ⟨clamp x (-2147483648) 2147483647, outOfRange32 x⟩

/-- `qmul(a, b)`: round half up, one rounding. -/
def qmul (a b : Int) : Sat Int := sat32 (fdiv (a * b + 8388608) 16777216)

/-- `qdiv(a, b)` for b ≠ 0. -/
def qdiv (a b : Int) : Sat Int :=
  if 0 < b then sat32 (fdiv (a * 16777216) b) else sat32 (fdiv (-a * 16777216) (-b))

/-- `lerp(a, b, t)` (R15), by its formula: a plus the `qmul` of b - a and t, narrowed; the flag rises if either `sat32`
changes its argument (R14). Where b - a leaves the 32-bit range the formula breaks R15's law lerp(a, b, ONE) = b, and the
flag R236's "ERR.SAT never"; there the model keeps the formula and R14 (log entry 6, DEDUCED). -/
def lerp (a b t : Int) : Sat Int := (qmul (b - a) t).bind fun p => sat32 (a + p)

/-- `ramp(a, b, i, n)`. -/
def ramp (a b : Int) (i n : Nat) : Int := a + fdiv ((b - a) * i) n

/-- The 32-bit word of an integer (results are in range wherever a rule stores them). -/
def toWord (x : Int) : Word := BitVec.ofInt 32 x

/-! ## Error flags (R46) and interrupts (R430) -/

/-- The bits of ERR (R46). -/
inductive ErrBit where
  | alloc | cfg | clamp | sat | busyAcc | busErr | noTable | regenRej
  deriving DecidableEq, Repr

/-- The bit position of an error flag. -/
def ErrBit.pos : ErrBit → Nat
  | .alloc => 0
  | .cfg => 1
  | .clamp => 2
  | .sat => 3
  | .busyAcc => 4
  | .busErr => 5
  | .noTable => 6
  | .regenRej => 7

/-- The interrupt sources (R430). -/
inductive IrqBit where
  | done | fault | err | regenDone | regenCanc
  deriving DecidableEq, Repr

/-- The bit position of an interrupt source. -/
def IrqBit.pos : IrqBit → Nat
  | .done => 0
  | .fault => 1
  | .err => 2
  | .regenDone => 3
  | .regenCanc => 4

/-- ERR.e as a Boolean. -/
def State.errBit (s : State) (e : ErrBit) : Bool := s.err.getLsbD e.pos

/-- IRQ_PEND.i as a Boolean. -/
def State.irqBit (s : State) (i : IrqBit) : Bool := s.irqPend.getLsbD i.pos

/-- IRQ_PEND.i <- 1, whether or not the source is enabled (R430). -/
def State.pend (s : State) (i : IrqBit) : State := { s with irqPend := s.irqPend ||| BitVec.twoPow 5 i.pos }

/-- If `b`, ERR.e <- 1, and IRQ_PEND.ERR <- 1 if the bit was 0 (R46, R431). -/
def State.setErrIf (s : State) (b : Bool) (e : ErrBit) : State :=
  { s with
    err := if b then s.err ||| BitVec.twoPow 8 e.pos else s.err
    irqPend := if b && !s.err.getLsbD e.pos then s.irqPend ||| BitVec.twoPow 5 IrqBit.err.pos else s.irqPend }

/-- ERR.e <- 1 (R46, R431). -/
def State.setErr (s : State) (e : ErrBit) : State := s.setErrIf true e

/-- ERR.SAT <- 1 if a `sat32` of the step changed its argument (R14). -/
def State.noteSat (s : State) (b : Bool) : State := s.setErrIf b .sat

/-- The output line: 1 iff an enabled source is pending (R432). -/
def State.irq (s : State) : Bool := s.irqPend &&& s.irqEn != 0

end Sys2Proof.Machine
end

