-- ==== Sys2Proof/Machine/Ops.lean ====
section
/-! DEFINITION. The named operations over memory and registers: bytes, words and blocks of memory (spec/20_memory.md
R90, R93), the bus addresses of the cells (R92), reading cells that may be undef (spec/10_state.md R72), indexed access
to oscillators, notes, envelopes, LFOs, filters and voices, the views of mirrored registers, taking a fault and
acknowledging it (spec/60_exceptions.md R424, R426), and the advance of CPTR (spec/40_system.md R162). -/

namespace Sys2Proof.Machine

/-! ## Memory -/

/-- The byte at an address, if something has written it. -/
def Mem.byte? : Mem → Nat → Option Byte
  | [], _ => none
  | (k, b) :: m, a => if k = a then some b else Mem.byte? m a

/-- The cells of consecutive bytes from an address on. -/
def Mem.cells : Nat → List Byte → Mem
  | _, [] => []
  | a, b :: bs => (a, b) :: Mem.cells (a + 1) bs

/-- Write consecutive bytes from address `a` on: everything below and above keeps its place. -/
def Mem.splice (m : Mem) (a : Nat) (bs : List Byte) : Mem :=
  m.filter (fun c => c.1 < a) ++ Mem.cells a bs ++ m.filter (fun c => a + bs.length ≤ c.1)

/-- Forget `n` bytes from address `a` on: they hold no value afterwards. -/
def Mem.erase (m : Mem) (a n : Nat) : Mem := m.filter (fun c => c.1 < a || a + n ≤ c.1)

/-- The cells of `n` bytes from address `a` on, as they stand. -/
def Mem.window (m : Mem) (a n : Nat) : Mem := m.filter (fun c => a ≤ c.1 && c.1 < a + n)

/-- The canonical form: addresses strictly rising. (No entry can equal what an unlisted address reads as, for that is
no value.) -/
def Mem.wf (m : Mem) : Bool := decide (m.Pairwise fun c d => c.1 < d.1)

/-- The word at an address, if all four bytes have been written; little-endian (R93). -/
def Mem.word? (m : Mem) (a : Nat) : Option Word :=
  match m.byte? a, m.byte? (a + 1), m.byte? (a + 2), m.byte? (a + 3) with
  | some b0, some b1, some b2, some b3 => some (wordOfBytes b0 b1 b2 b3)
  | _, _, _, _ => none

/-- The bytes of words in address order. -/
def bytesOf (ws : List Word) : List Byte := ws.flatMap bytesOfWord

/-! ## Addresses (R92) -/

/-- Base of an oscillator's configuration region. -/
def oscBase (o : Nat) : Nat := 0x00010000 + o * 0x1000
/-- HMAG[0] of an oscillator (R52). -/
def hmagAddr (o : Nat) : Nat := oscBase o
/-- HPHASE[0] of an oscillator (R52). -/
def hphaseAddr (o : Nat) : Nat := oscBase o + 0x200
/-- A spectrum bank (R54). -/
def specAddr (o : Nat) (b : Bool) : Nat := 0x00100000 + o * 0x2000 + b.toNat * 0x1000
/-- A waveform bank (R55). -/
def waveAddr (o : Nat) (b : Bool) : Nat := 0x00200000 + o * 0x2000 + b.toNat * 0x1000
/-- NB(n), the base of a note slot (R57). -/
def noteBase (n : Nat) : Nat := 0x01000000 + n * 0x00100000
/-- Base of an envelope (R61). -/
def envBase (n k : Nat) : Nat := noteBase n + 0x1000 + k * 0x200
/-- DT[i] of an envelope (R61). -/
def dtAddr (n k i : Nat) : Nat := envBase n k + 4 * i
/-- VAL[i] of an envelope (R61). -/
def valAddr (n k i : Nat) : Nat := envBase n k + 0x100 + 4 * i
/-- OUTL of a note (R64). -/
def outlAddr (n : Nat) : Nat := noteBase n + 0x8000
/-- OUTR of a note (R64). -/
def outrAddr (n : Nat) : Nat := noteBase n + 0x8400
/-- VB(n, v), the base of a voice slot (R65). -/
def voiceBase (n v : Nat) : Nat := noteBase n + 0x10000 + v * 0x8000
/-- A sub-voice record (R66). -/
def uniAddr (n v k : Nat) : Nat := voiceBase n v + 0x1000 + k * 0x40
/-- VOUT of a voice (R67). -/
def voutAddr (n v : Nat) : Nat := voiceBase n v + 0x2000
/-- The waveform buffer of a voice: VWAVEC for the carrier, VWAVEM for the modulator (R67). -/
def vwaveAddr (n v : Nat) (modulator : Bool) : Nat := voiceBase n v + (if modulator then 0x4000 else 0x3000)
/-- MIXL (R68). -/
def mixlAddr : Nat := 0x02000000
/-- MIXR (R68). -/
def mixrAddr : Nat := 0x02000400
/-- CMDMEM (R69). -/
def cmdAddr : Nat := 0x00001000

/-- The fields of a sub-voice record (R66). -/
inductive UniField where
  | rbase | vibpos | vibstep | pos | invert | ratio | phhi | phlo | phmhi | phmlo | fmihi | fmilo
  deriving DecidableEq, Repr

/-- The offset of a sub-voice field (R66). -/
def UniField.offset : UniField → Nat
  | .rbase => 0x00
  | .vibpos => 0x04
  | .vibstep => 0x08
  | .pos => 0x0C
  | .invert => 0x10
  | .ratio => 0x14
  | .phhi => 0x18
  | .phlo => 0x1C
  | .phmhi => 0x20
  | .phmlo => 0x24
  | .fmihi => 0x28
  | .fmilo => 0x2C

/-! ## Cells of the state -/

/-- The word of a cell of a memory; an undef cell has a free value that depends on the number of undef reads so far and
on the address (R72, U1). -/
def cellOf (m : Mem) (reads a : Nat) : Word := (m.word? a).getD (Config.undefWord reads a)

/-- Whether all of `n` consecutive words from an address on hold a value. -/
def definedIn (m : Mem) (a n : Nat) : Bool :=
  let w := m.window a (4 * n)
  (List.range n).all fun i => (w.word? (a + 4 * i)).isSome

/-- The word at an address. -/
def State.cell (s : State) (a : Nat) : Word := cellOf s.mem s.undefReads a

/-- `n` consecutive words from an address on. -/
def State.cells (s : State) (a n : Nat) : List Word :=
  let w := s.mem.window a (4 * n)
  (List.range n).map fun i => cellOf w s.undefReads (a + 4 * i)

/-- Record that a command or work unit read `n` consecutive words from an address on: if one of them holds no value the
run leaves the admitted behaviours (R72), and later undef reads are fresh. -/
def State.touch (s : State) (a n : Nat) : State :=
  let undef := !definedIn s.mem a n
  { s with undefRead := s.undefRead || undef, undefReads := s.undefReads + undef.toNat }

/-- Store one word. -/
def State.setCell (s : State) (a : Nat) (w : Word) : State := { s with mem := s.mem.splice a (bytesOfWord w) }

/-- Store consecutive words. -/
def State.setCells (s : State) (a : Nat) (ws : List Word) : State := { s with mem := s.mem.splice a (bytesOf ws) }

/-- `n` consecutive cells become undef. -/
def State.eraseCells (s : State) (a n : Nat) : State := { s with mem := s.mem.erase a (4 * n) }

/-- `n` consecutive Q8.24 cells as signed integers. -/
def State.signedCells (s : State) (a n : Nat) : List Int := (s.cells a n).map (·.toInt)

/-- Store consecutive Q8.24 cells. -/
def State.setSignedCells (s : State) (a : Nat) (xs : List Int) : State := s.setCells a (xs.map toWord)

/-- A block of zeros. -/
def zeros (n : Nat) : List Int := List.replicate n 0

/-! ## Indexed registers -/

/-- Oscillator `o`. -/
def State.osc (s : State) (o : Nat) : Osc := s.oscs[o]?.getD default
/-- Note slot `n`. -/
def State.note (s : State) (n : Nat) : Note := s.notes[n]?.getD default
/-- Replace oscillator `o`. -/
def State.setOsc (s : State) (o : Nat) (x : Osc) : State := { s with oscs := s.oscs.setIfInBounds o x }
/-- Replace note slot `n`. -/
def State.setNote (s : State) (n : Nat) (x : Note) : State := { s with notes := s.notes.setIfInBounds n x }
/-- Change note slot `n`. -/
def State.modNote (s : State) (n : Nat) (f : Note → Note) : State := s.setNote n (f (s.note n))

/-- Envelope `k` of a note. -/
def Note.env (x : Note) (k : Nat) : Env := x.envs[k]?.getD default
/-- LFO `k` of a note. -/
def Note.lfo (x : Note) (k : Nat) : Lfo := x.lfos[k]?.getD default
/-- Filter `f` of a note. -/
def Note.flt (x : Note) (f : Nat) : Flt := x.flts[f]?.getD default
/-- Voice `v` of a note. -/
def Note.voice (x : Note) (v : Nat) : Voice := x.voices[v]?.getD default

/-- Replace envelope `k` of note `n`. -/
def State.setEnv (s : State) (n k : Nat) (e : Env) : State :=
  s.modNote n fun x => { x with envs := x.envs.setIfInBounds k e }
/-- Replace LFO `k` of note `n`. -/
def State.setLfo (s : State) (n k : Nat) (l : Lfo) : State :=
  s.modNote n fun x => { x with lfos := x.lfos.setIfInBounds k l }
/-- Replace filter `f` of note `n`. -/
def State.setFlt (s : State) (n f : Nat) (x : Flt) : State :=
  s.modNote n fun y => { y with flts := y.flts.setIfInBounds f x }
/-- Replace voice `v` of note `n`. -/
def State.setVoice (s : State) (n v : Nat) (x : Voice) : State :=
  s.modNote n fun y => { y with voices := y.voices.setIfInBounds v x }

/-- The number of created voices of a note. -/
def Note.createdCount (x : Note) : Nat := x.voices.toList.countP (·.created)

/-- A phase of a sub-voice from its integer and fractional cells (R66). -/
def State.phase (s : State) (n v k : Nat) (hi lo : UniField) : Nat :=
  (s.cell (uniAddr n v k + hi.offset)).toNat % 1024 * 16777216 +
    (s.cell (uniAddr n v k + lo.offset)).toNat % 16777216

/-- Store a phase `p` below PHMOD: `p >> 24` and `p[23:0]` (R66). -/
def State.setPhase (s : State) (n v k : Nat) (hi lo : UniField) (p : Nat) : State :=
  (s.setCell (uniAddr n v k + hi.offset) (BitVec.ofNat 32 (p / 16777216))).setCell
    (uniAddr n v k + lo.offset) (BitVec.ofNat 32 (p % 16777216))

/-! ## Views of mirrored registers -/

/-- A word with bit `i` set iff `f i`, for i below `n`. -/
def bitsWord (n : Nat) (f : Nat → Bool) : Word := (List.range n).foldl (fun w i => w ||| bit (f i) i) 0

/-- OSTAT (R53). -/
def Osc.ostat (x : Osc) : Word :=
  bit x.dirty 0 ||| bit x.pubsel 1 ||| bit x.valid 2 ||| bit x.job.isSome 3 ||| bit (x.job.any (·.cancel)) 4

/-- REGEN_RUN (R51): bit o mirrors OSTAT.RGRUN of oscillator o. -/
def State.regenRun (s : State) : Word := bitsWord 16 fun o => (s.osc o).job.isSome

/-- STATUS (R45). -/
def Status.word (x : Status) : Word := bit x.busy 0 ||| bit x.done 1 ||| bit x.fault 2

/-- NSTAT (R57). -/
def NStat.word (x : NStat) : Word :=
  bit x.active 0 ||| bit x.finished 1 ||| bit x.killed 2 ||| bit x.first 3 ||| bit x.released 4

/-- The code of a legato state (R57). -/
def LegState.code : LegState → Word
  | .normal => 0
  | .fadeIn => 1
  | .fadeOut => 2
  | .catchUp => 3

/-- LEGSTAT (R57): STATE in [1:0], SILENT in [2]. -/
def Note.legstat (x : Note) : Word := x.legstate.code ||| bit x.silent 2

/-- VCREATED (R57): bit v is VSTAT.CREATED of voice v. -/
def Note.vcreated (x : Note) : Word := bitsWord 8 fun v => (x.voice v).created

/-- ESTAT (R61). -/
def Env.estat (x : Env) : Word := bit x.released 0 ||| bit x.finished 1 ||| bit x.frpend 2

/-- VSTAT (R65). -/
def Voice.vstat (x : Voice) : Word := bit x.created 0 ||| bit x.finished 1 ||| bit x.first 2

/-- TOPOEFF (R65): the effective topology in [2:0], MODEXT in [3]. -/
def Voice.topoeff (x : Voice) : Word := x.topo.zeroExtend 32 ||| bit x.modext 3

/-! ## Sequencer -/

/-- The fault causes of R421. -/
inductive FaultKind where
  | illegalCommand | indexRange | noteInactive | slotBusy | cmdPtr
  deriving DecidableEq, Repr

/-- The fault codes of R421. -/
def FaultKind.code : FaultKind → BitVec 8
  | .illegalCommand => 1
  | .indexRange => 2
  | .noteInactive => 3
  | .slotBusy => 4
  | .cmdPtr => 5

/-- Fault entry (R424): the code, the pointer and the info are saved, BUSY <- 0, FAULT <- 1, IRQ_PEND.FAULT <- 1,
and nothing else changes; CPTR stays at the faulting command. DONE is 0 afterwards, as R424's comment and R45 have it; it
was 0 before but for a bad CMD_START after a completed list, where fault entry clears it (log entry 5, DEDUCED). -/
def State.raise (s : State) (k : FaultKind) (ptr : BitVec 13) (info : Word) : State :=
  { s with
    faultCode := k.code
    faultPtr := ptr
    faultInfo := info
    status := { busy := false, done := false, fault := true }
    irqPend := s.irqPend ||| BitVec.twoPow 5 IrqBit.fault.pos }

/-- Fault entry by the command at CPTR: FAULT_PTR is CPTR and FAULT_INFO is W0, which latch X0 holds (R421, R424). -/
def State.raiseCmd (s : State) (k : FaultKind) : State := s.raise k s.cptr s.x0

/-- Acknowledge (R426), the block's return from a fault: STATUS.FAULT <- 0 and nothing else. -/
def State.faultAck (s : State) : State := { s with status := { s.status with fault := false } }

/-- `pc <- pc + 16` (R162). -/
def State.advance (s : State) : State := { s with cptr := s.cptr + 16 }

/-- The fetch loads the operand latches (R131). -/
def State.latch (s : State) (c : Words) : State := { s with x0 := c.w0, x1 := c.w1, x2 := c.w2, x3 := c.w3 }

/-- RES0 <- a. -/
def State.setRes0 (s : State) (a : Word) : State := { s with res0 := a }
/-- RES1 <- b. -/
def State.setRes1 (s : State) (b : Word) : State := { s with res1 := b }
/-- RES0 <- a and RES1 <- b. -/
def State.setRes (s : State) (a b : Word) : State := { s with res0 := a, res1 := b }

/-- `RNG <- RNG·1103515245 + 12345` modulo 2^32 (R58). -/
def rngNext (r : Word) : Word := r * 1103515245 + 12345
/-- The value of the draw that left the generator at `r`: RNG[30:0] (R58). -/
def rngR31 (r : Word) : Nat := r.toNat % 2147483648
/-- `draw_index()` of that draw: r31 >> 21 (R58). -/
def rngIndex (r : Word) : Nat := rngR31 r / 2097152
/-- The generator states after each of `n` draws, oldest first. -/
def rngDraws : Nat → Word → List Word
  | 0, _ => []
  | n + 1, r => rngNext r :: rngDraws n (rngNext r)
/-- The generator state after `n` draws. -/
def rngAfter : Nat → Word → Word
  | 0, r => r
  | n + 1, r => rngAfter n (rngNext r)

end Sys2Proof.Machine
end

