-- ==== Sys2Proof/Machine/Operands.lean ====
section
/-! DEFINITION. The operand forms of spec/30_encoding.md R132 and R133, the buffer identifiers of spec/20_memory.md
R105, and steps (3) to (5) of the decoding procedure R138: an index out of range raises IndexRange before the command
changes any state, a failed precondition raises its own fault, and a command that completes advances CPTR. -/

namespace Sys2Proof.Machine

/-- What a command answers. -/
abbrev Result := Host.Outcome State Fault Refusal

/-- An index operand as the unsigned integer it is (R133). -/
def index {w : Nat} (x : BitVec w) : Nat := x.toNat
/-- A Q8.24 operand: the whole word, signed (R133). -/
def signedOperand (w : Word) : Int := w.toInt
/-- A UQ16.16 operand: the whole word, unsigned (R133). -/
def freqOperand (w : Word) : Nat := w.toNat

/-- The address of the BLOCK-sample buffer of note `n` that an identifier names: 0 = OUTL, 1 = OUTR, 16 + v = VOUT
of voice v (R105). -/
def bufferAddr (n : Nat) (buf : Byte) : Nat :=
  if buf.toNat = 0 then outlAddr n else if buf.toNat = 1 then outrAddr n else voutAddr n (buf.toNat - 16)

/-- Run a command whose indices were checked: IndexRange if one fails (R104, R423), otherwise the command's effect and
the advance of CPTR (R162). -/
def ranged (ok : Bool) (effect : State → State) (s : State) : Result :=
  if ok then .next (effect s).advance else .next (s.raiseCmd .indexRange)

/-- The same with a precondition on the state, checked after the indices (R138 step 4, R423). -/
def guarded (ok : Bool) (pre : Bool) (k : FaultKind) (effect : State → State) (s : State) : Result :=
  if ok then (if pre then .next (effect s).advance else .next (s.raiseCmd k)) else .next (s.raiseCmd .indexRange)

end Sys2Proof.Machine
end

