-- ==== Sys2Proof/Machine/System.lean ====
section
/-! DEFINITION. The system commands and the list start (spec/40_system.md R160 to R166): NOP, HALT, CMD_START. -/

namespace Sys2Proof.Machine

/-- NOP (R164). -/
def execNop (s : State) : Result := ranged true (fun t => t) s

/-- The end of a list (R165). -/
def halt (s : State) : State := { s with status := { s.status with busy := false, done := true } }.pend .done

/-- HALT (R165): the pointer stays. -/
def execHalt (s : State) : Result := .next (halt s)

/-- Whether a CMD_START value is aligned and inside command memory (R160). -/
def startOk (w : Word) : Bool := w.extractLsb' 0 4 == 0 && w.extractLsb' 12 20 == 0

/-- The list start: a HOST write of `w` to CMD_START while BUSY = 0 (R160). -/
def cmdStart (w : Word) (s : State) : State :=
  if s.status.fault then s.setErr .busErr
  else if startOk w then
    { s with cptr := w.extractLsb' 0 13, status := { s.status with done := false, busy := true } }
  else s.raise .cmdPtr (w.extractLsb' 0 13) w

end Sys2Proof.Machine
end

