-- ==== Sys2Proof/Machine/Rom.lean ====
section
/-! DEFINITION. The configuration functions of spec/00_scope.md R10: each is the free function of Config.lean cut down,
by construction, to the required properties of its rule and to nothing more, so that every function with those
properties is one of them. -/

namespace Sys2Proof.Machine

/-- A spectrum: bins 0..511, each a pair (cosine amplitude, sine amplitude) (spec/41_oscillator.md R171). -/
abbrev Spectrum := List (Int × Int)

/-- Bin k of a spectrum. -/
def Spectrum.bin (S : Spectrum) (k : Nat) : Int × Int := S.getD k (0, 0)

/-- The all-zero spectrum. -/
def zeroSpectrum : Spectrum := List.replicate Config.HB (0, 0)

/-- A free monotone function on 0 .. 2^bits − 1 that starts at `lo` and stays at most `hi`: `raw` chooses, level by
level, the value in the middle. -/
def bisect (raw : Nat → Nat → Nat) : Nat → Nat → Nat → Nat → Nat
  | 0, lo, _, _ => lo
  | b + 1, lo, hi, x =>
    let mid := lo + min (raw b (x / 2 ^ (b + 1))) (hi - lo)
    if x / 2 ^ b % 2 = 0 then bisect raw b lo mid x else bisect raw b mid hi x

/-- The first quarter of the sine table: 0 at 0, ONE at 256, free in between within ±ONE (R18). -/
def sinQuarter (j : Nat) : Int :=
  if j = 0 then 0 else if j = 256 then Config.ONE
  else clamp (Config.sinRaw j).toInt (-Config.ONE) Config.ONE

/-- `cfg.sinRom` (R18), with its symmetries. -/
def sinRom (i : Nat) : Int :=
  let h := i % 512
  let v := sinQuarter (if h ≤ 256 then h else 512 - h)
  if i % 1024 < 512 then v else -v

/-- `cosRom(i)` = sinRom(mod(i + L/4, L)) (R18). -/
def cosRom (i : Nat) : Int := sinRom ((i + 256) % 1024)

/-- `cfg.exp2` (R19): exact at the whole octaves −16..15, monotone, in 0 .. 2^32 − 1. -/
def exp2 (x : Int) : Nat :=
  let n := fdiv x Config.ONE
  if n < -16 then (if x < Config.exp2Tail then 0 else 1)
  else if n < 15 then
    bisect (Config.exp2Raw n) 24 (2 ^ (n + 16).toNat) (2 ^ (n + 17).toNat) (x - n * Config.ONE).toNat
  else bisect (Config.exp2Raw 15) 31 2147483648 4294967295 (x - 15 * Config.ONE).toNat

/-- `cfg.db2lin` (R232): 0 up to MIN_DB, ONE at 0, monotone, at most 2^31 − 1. -/
def db2lin (x : Int) : Int :=
  if x ≤ Config.MIN_DB then 0
  else if x < 0 then bisect (Config.db2linRaw false) 31 0 16777216 (x - Config.MIN_DB).toNat
  else bisect (Config.db2linRaw true) 31 16777216 2147483647 x.toNat

/-- `cfg.lin2db` (R232): MIN_DB up to 0, 0 at ONE, monotone, at least MIN_DB. -/
def lin2db (v : Int) : Int :=
  if v ≤ 0 then Config.MIN_DB
  else if v < Config.ONE then Config.MIN_DB + bisect (Config.lin2dbRaw false) 24 0 1677721600 v.toNat
  else bisect (Config.lin2dbRaw true) 31 0 2147483647 (v - Config.ONE).toNat

/-- |magMap(t, c)| at distance d ≥ 1 from the neutral code: between 1 and ONE, non-decreasing in d (R175). One function
for both sides: a magnitude that is non-decreasing in |c - 64| depends on |c - 64| alone (log entry 23, DEDUCED). -/
def magAbs (t d : Nat) : Nat :=
  bisect (Config.magRaw t) 6 (1 + min (Config.magRaw t 6 0) 16777215) 16777216 (d - 1)

/-- `cfg.magMap` (R175): exactly linear for type 0, sign and order fixed for the others. -/
def magMap (t c : Nat) : Int :=
  if t = 0 then ((c : Int) - 64) * 262144
  else if c = 64 then 0
  else if 64 < c then magAbs t (c - 64) else -(magAbs t (64 - c) : Int)

/-- `cfg.baseFunc` (R176): at most ONE in absolute value. -/
def baseFunc (f p n : Nat) : Int := clamp (Config.baseFuncRaw f p n).toInt (-Config.ONE) Config.ONE

/-- `cfg.waveshape` (R181): in range, 0 at 0. -/
def waveshape (t p : Nat) (x : Int) : Int := if x = 0 then 0 else (Config.waveshapeRaw t p x).toInt

/-- `cfg.specFilterGain` (R182): between 0 and 2^31 − 1. -/
def specFilterGain (t p1 p2 k : Nat) : Int := (Config.specFilterRaw t p1 p2 k).toNat

/-- `cfg.specAdjust` (R183): non-negative, 0 at 0. -/
def specAdjust (t p m : Nat) : Int := if m = 0 then 0 else (Config.specAdjustRaw t p m : Int)

/-- `cfg.adaptive` (R185): every output cell in Q8.24 range, and nothing else required: of the all-zero spectrum too it may
make a non-zero one, although R186 says that with every harmonic disabled the spectrum is zero (log entry 26, DEDUCED). -/
def adaptive (S : Spectrum) (a p : Nat) : Spectrum :=
  (List.range Config.HB).map fun k => ((Config.adaptiveRaw S a p k).1.toInt, (Config.adaptiveRaw S a p k).2.toInt)

/-- `cfg.resonance` (R195): every output cell in Q8.24 range, and nothing else required: of the all-zero spectrum too it may
make a non-zero one, although R202 (c) says zeros (log entry 26, DEDUCED). -/
def resonance (S : Spectrum) (f : Nat) (c b : Int) : Spectrum :=
  (List.range Config.HB).map fun k =>
    ((Config.resonanceRaw S f c b k).1.toInt, (Config.resonanceRaw S f c b k).2.toInt)

/-- `cfg.ampRand` (R197): between 0 and 2^31 − 1. -/
def ampRand (t p k r : Nat) : Int := (Config.ampRandRaw t p k r).toNat

/-- `cfg.filterCoef` (R282): five Q8.24 values, of which a state-variable filter uses three and the others are 0. -/
def filterCoef (kind type f : Nat) (q : Int) (stages j : Nat) : Int :=
  if kind = 1 ∧ 3 ≤ j then 0 else (Config.filterCoefRaw kind type f q stages j).toInt

/-- The bins of a spectrum that are not (0, 0). -/
def Spectrum.support (S : Spectrum) : List Nat := (List.range Config.HB).filter fun k => S.bin k != (0, 0)

/-- Sample n of a spectrum whose only non-zero bin is k, as T4 of R172 states it. -/
def singleBinSample (S : Spectrum) (k n : Nat) : Int :=
  clamp (fdiv ((S.bin k).1 * cosRom (k * n % 1024) + (S.bin k).2 * sinRom (k * n % 1024) + 8388608) 16777216)
    (-2147483648) 2147483647

/-- `cfg.invT`, sample n (R172): the all-zero spectrum gives zeros (T2); where the configuration declares T4, a
single-bin spectrum gives its sample exactly. -/
def invTSample (S : Spectrum) (n : Nat) : Int :=
  match S.support with
  | [] => 0
  | [k] => if Config.declaresT4 then singleBinSample S k n else (Config.invTRaw S n).toInt
  | _ => (Config.invTRaw S n).toInt

/-- `cfg.invT`: spectrum to L samples (R172). -/
def invT (S : Spectrum) : List Int := (List.range Config.L).map (invTSample S)

/-- `cfg.fwdT`: L samples to spectrum (R172); zeros give zeros (T2), bin 0 is (0, 0) (T3). -/
def fwdT (x : List Int) : Spectrum :=
  if x.all (· == 0) then zeroSpectrum
  else (List.range Config.HB).map fun k =>
    if k = 0 then (0, 0) else ((Config.fwdTRaw x k).1.toInt, (Config.fwdTRaw x k).2.toInt)

end Sys2Proof.Machine
end

