-- ==== Sys2Proof/Machine/Filter.lean ====
section
/-! DEFINITION. The IIR filter cascade (spec/43_filter.md R280 to R292): FLT.SETFREQ, FLT.SETFQ, FLT.OUT,
FLT.CLEANUP, and the procedures SetCoef, FilterBlock and Cleanup that note commands share. -/

namespace Sys2Proof.Machine

/-- Filter `f` of note `n`. -/
def State.flt (s : State) (n f : Nat) : Flt := (s.note n).flt f

/-! ## Configuration -/

/-- `nst(F)` (R281). -/
def Flt.stageCount (x : Flt) : Nat := if x.fstages.toNat = 0 then 1 else min x.fstages.toNat 5

/-- Whether `nst` replaced FSTAGES, which sets ERR.CFG (R281). -/
def Flt.stagesBad (x : Flt) : Bool := x.fstages.toNat = 0 || 5 < x.fstages.toNat

/-- A frequency clamped to the safe range of a filter (R283). -/
def filterFreq (freq : Nat) : Nat := min (max freq Config.FREQ_MIN) Config.FREQ_MAX

/-- A Q clamped to the safe range of a filter (R283). -/
def filterQ (q : Int) : Int := max q Config.Q_MIN

/-- The registers SetCoef leaves (R283). -/
def Flt.coefficients (x : Flt) (freq : Nat) (q : Int) : Flt :=
  { x with
    fnst := BitVec.ofNat 3 x.stageCount
    ffreq := BitVec.ofNat 32 (filterFreq freq)
    fq := toWord (filterQ q)
    fc := Vector.ofFn fun j =>
      toWord (filterCoef x.fkind.toNat x.ftype.toNat (filterFreq freq) (filterQ q) x.stageCount j.val) }

/-- `SetCoef(F, freq, q)` (R283). It latches FNST and validates FSTAGES with ERR.CFG inside NOTE.OUT too, as R283 and R320
have it, against R281's list of three latching commands and R428's last sentence (log entry 27, DEDUCED). -/
def setCoef (n f freq : Nat) (q : Int) (s : State) : State :=
  let x := s.flt n f
  ((s.setErrIf (filterFreq freq != freq || filterQ q != q) .clamp).setErrIf x.stagesBad .cfg).setFlt n f
    (x.coefficients freq q)

/-- FLT.SETFREQ's effect: SetCoef with the Q of the last setter. -/
def fltSetfreq (n f freq : Nat) (s : State) : State := setCoef n f freq (s.flt n f).fq.toInt s

/-- FLT.SETFREQ n, f, freq (R284). -/
def execFltSetfreq (n f : Byte) (freq : Word) (s : State) : Result :=
  ranged (noteIndexOk n && filterIndexOk f) (fltSetfreq (index n) (index f) (freqOperand freq)) s

/-- FLT.SETFQ n, f, freq, q (R285). -/
def execFltSetfq (n f : Byte) (freq q : Word) (s : State) : Result :=
  ranged (noteIndexOk n && filterIndexOk f) (setCoef (index n) (index f) (freqOperand freq) (signedOperand q)) s

/-- The registers Cleanup leaves (R291): all five stages are cleared. -/
def Flt.clear (x : Flt) : Flt :=
  { x with fst := Vector.replicate 5 .zero, fnst := BitVec.ofNat 3 x.stageCount }

/-- `Cleanup(F)` (R291). -/
def cleanup (n f : Nat) (s : State) : State :=
  (s.setErrIf (s.flt n f).stagesBad .cfg).setFlt n f (s.flt n f).clear

/-- FLT.CLEANUP n, f (R291). -/
def execFltCleanup (n f : Byte) (s : State) : Result :=
  ranged (noteIndexOk n && filterIndexOk f) (cleanup (index n) (index f)) s

/-! ## Stages -/

/-- Coefficient j of a filter. -/
def Flt.coef (x : Flt) (j : Nat) : Int := (x.fc[j]?.getD 0).toInt

/-- A biquad stage, direct form I (R287): its output and its new state (x1, x2, y1, y2). -/
def biquadStage (x : Flt) (g : FltStage) (u : Int) : Sat (Int × FltStage) :=
  (sat32 (fdiv (x.coef 0 * u + x.coef 1 * g.s0.toInt + x.coef 2 * g.s1.toInt - x.coef 3 * g.s2.toInt
    - x.coef 4 * g.s3.toInt + 8388608) 16777216)).map fun y => (y, ⟨toWord u, g.s0, toWord y, g.s2⟩)

/-- The output tap of a state-variable stage: FTYPE[1:0] (R289). -/
def svfTap (ftype : Nat) (low band high notch : Int) : Int :=
  if ftype % 4 = 0 then low else if ftype % 4 = 1 then high else if ftype % 4 = 2 then band else notch

/-- A state-variable stage (R289): its output and its new state (low, band, high, notch). -/
def svfStage (x : Flt) (g : FltStage) (u : Int) : Sat (Int × FltStage) :=
  (qmul (x.coef 0) g.s1.toInt).bind fun a => (sat32 (g.s0.toInt + a)).bind fun low =>
    (qmul (x.coef 2) u).bind fun b => (qmul (x.coef 1) g.s1.toInt).bind fun c =>
      (sat32 (b - low - c)).bind fun high => (qmul (x.coef 0) high).bind fun d =>
        (sat32 (g.s1.toInt + d)).bind fun band => (sat32 (high + low)).map fun notch =>
          (svfTap x.ftype.toNat low band high notch, ⟨toWord low, toWord band, toWord high, toWord notch⟩)

/-- `Stage(F, g, x)` by FKIND (R286). -/
def filterStage (x : Flt) (g : FltStage) (u : Int) : Sat (Int × FltStage) :=
  if x.fkind = 0 then biquadStage x g u else svfStage x g u

/-- The stages of a cascade, each fed by the one before (R286). -/
def filterCascade (x : Flt) : List FltStage → Int → Sat (Int × List FltStage)
  | [], u => .ok (u, [])
  | g :: gs, u => (filterStage x g u).bind fun a => (filterCascade x gs a.1).map fun b => (b.1, a.2 :: b.2)

/-- The samples of a buffer in ascending order (R286). -/
def filterSamples (x : Flt) : List FltStage → List Int → Sat (List Int × List FltStage)
  | gs, [] => .ok ([], gs)
  | gs, u :: us => (filterCascade x gs u).bind fun a => (filterSamples x a.2 us).map fun b => (a.1 :: b.1, b.2)

/-- The number of stages in use. -/
def Flt.active (x : Flt) : Nat := min x.fnst.toNat 5

/-- The active stages of a filter, replaced. -/
def Flt.withStages (x : Flt) (gs : List FltStage) : Flt :=
  { x with fst := Vector.ofFn fun j => (gs ++ x.fst.toList.drop gs.length).getD j.val .zero }

/-- A buffer that a unit filtered, and the state it leaves. -/
structure Filtered where
  buf : List Int
  st : State

/-- `FilterBlock(F, B)` (R286): a filter that was never configured leaves everything as it is. -/
def filterBlock (n f : Nat) (b : List Int) (s : State) : Filtered :=
  let x := s.flt n f
  if x.active = 0 then ⟨b, s⟩
  else
    let r := filterSamples x (x.fst.toList.take x.active) b
    ⟨r.val.1, (s.noteSat r.sat).setFlt n f (x.withStages r.val.2)⟩

/-- FLT.OUT's effect on the buffer at `a` (R286), which may be OUTL or OUTR as R105, R286 and R482 have it, although R64
says that NOTE.OUT only writes them (log entry 25, DEDUCED). -/
def fltOut (n f a : Nat) (s : State) : State :=
  if (s.flt n f).active = 0 then s
  else
    let r := filterBlock n f (s.signedCells a 256) (s.touch a 256)
    r.st.setSignedCells a r.buf

/-- FLT.OUT n, f, buf (R286). -/
def execFltOut (n f buf : Byte) (s : State) : Result :=
  ranged (noteIndexOk n && filterIndexOk f && bufferIdOk buf)
    (fltOut (index n) (index f) (bufferAddr (index n) buf)) s

end Sys2Proof.Machine
end

