-- ==== Sys2Proof/Machine/Envelope.lean ====
section
/-! DEFINITION. The envelope generator (spec/42_envelope_lfo.md R230 to R246): ENV.RESET, ENV.OUT, ENV.OUTDB,
ENV.RELEASE, ENV.FINISH, and the procedures EnvReset, EnvStep, EnvOutDb and EnvRelease that note commands share. -/

namespace Sys2Proof.Machine

/-! ## Tables and flags -/

/-- DT[i] of an envelope (R61). -/
def State.dt (s : State) (n k i : Nat) : Nat := (s.cell (dtAddr n k i)).toNat
/-- VAL[i] of an envelope (R61). -/
def State.val (s : State) (n k i : Nat) : Int := (s.cell (valAddr n k i)).toInt
/-- Envelope `k` of note `n`. -/
def State.env (s : State) (n k : Nat) : Env := (s.note n).env k

/-- EFLAGS.FORCEDREL (R61). -/
def Env.forcedRel (e : Env) : Bool := e.eflags.getLsbD 0
/-- EFLAGS.DB (R61). -/
def Env.db (e : Env) : Bool := e.eflags.getLsbD 1
/-- EFLAGS.REPEAT (R61). -/
def Env.repeats (e : Env) : Bool := e.eflags.getLsbD 2
/-- EFLAGS.EARLYFIN (R61). -/
def Env.earlyFin (e : Env) : Bool := e.eflags.getLsbD 3

/-- `NONE`: no sustain point. -/
def noSustain : BitVec 8 := 0xFF

/-! ## ENV.RESET -/

/-- NPTS clamped to 1..40 (R234). -/
def clampPoints (npts : BitVec 8) : Nat := if 40 < npts.toNat then 40 else if npts.toNat = 0 then 1 else npts.toNat

/-- The sustain index after validation against the breakpoint count (R234). -/
def validSustain (sust : BitVec 8) (np : Nat) : BitVec 8 := if sust.toNat + 1 < np then sust else noSustain

/-- Whether the sustain index is out of range, which sets ERR.CFG (R234). -/
def sustainBad (sust : BitVec 8) (np : Nat) : Bool := sust != noSustain && np ≤ sust.toNat

/-- The registers of an envelope after construction; `v0` is VAL[0] (R234). -/
def Env.construct (e : Env) (v0 : Word) : Env :=
  { e with
    enpts := BitVec.ofNat 8 (clampPoints e.npts)
    esust := validSustain e.sust (clampPoints e.npts)
    ecur := 1
    et := 0
    released := false
    frpend := e.forcedRel
    finished := clampPoints e.npts = 1
    ev0 := v0
    eout := v0
    erelval := v0
    eret := 0 }

/-- `EnvReset(n, k)` (R234). -/
def envReset (n k : Nat) (s : State) : State :=
  let e := s.env n k
  (((s.touch (valAddr n k 0) 1).setErrIf (40 < e.npts.toNat || e.npts.toNat = 0) .clamp).setErrIf
    (sustainBad e.sust (clampPoints e.npts)) .cfg).setEnv n k (e.construct (s.cell (valAddr n k 0)))

/-- ENV.RESET n, k (R234). -/
def execEnvReset (n k : Byte) (s : State) : Result :=
  ranged (noteIndexOk n && slotIndexOk k) (envReset (index n) (index k)) s

/-! ## One call (R235 to R240) -/

/-- The five cases of R235, tested in this order. -/
inductive EnvCase where
  | unconfigured | done | sustaining | forced | segment
  deriving DecidableEq, Repr

/-- Which case of R235 a call takes. -/
def Env.callCase (e : Env) : EnvCase :=
  if e.enpts = 0 then .unconfigured
  else if e.finished then .done
  else if e.esust ≠ noSustain ∧ e.ecur.toNat = e.esust.toNat + 1 ∧ e.released = false then .sustaining
  else if e.released ∧ e.frpend then .forced
  else .segment

/-- The release segment of a forced release (R238). -/
def Env.releaseSegment (e : Env) : Nat := if e.esust = noSustain then e.enpts.toNat - 1 else e.esust.toNat + 1

/-- `Advance(E, c)` (R240); `v` is VAL[c]. -/
def Env.completeSegment (e : Env) (c : Nat) (v : Word) : Env :=
  if e.enpts.toNat - 1 ≤ c then { e with finished := true, et := 0 }
  else if e.repeats ∧ e.esust ≠ noSustain ∧ c = e.esust.toNat ∧ e.released = false then
    { e with ev0 := v, ecur := 1, et := 0 }
  else { e with ecur := BitVec.ofNat 8 (c + 1), et := 0 }

/-- ET <- ET + DT[c], and the completion of the segment when ET reaches ONE (R239). -/
def Env.traverse (e : Env) (c dt : Nat) (v : Word) : Env :=
  if 16777216 ≤ e.et.toNat + dt then e.completeSegment c v else { e with et := BitVec.ofNat 32 (e.et.toNat + dt) }

/-- The completion of a forced release (R238). -/
def Env.traverseForced (e : Env) (dt : Nat) : Env :=
  let c := e.releaseSegment
  if 16777216 ≤ e.et.toNat + dt then
    { e with ecur := BitVec.ofNat 8 (c + 1), et := 0, frpend := false
             finished := e.finished || e.enpts.toNat ≤ c + 1 || e.esust = noSustain }
  else { e with et := BitVec.ofNat 32 (e.et.toNat + dt) }

/-- The value on the way from `a` to `b`: `b` at once for an immediate segment (R238, R239, R243). -/
def segmentOut (a b : Int) (et : Word) (dt : Nat) : Sat Int := if 16777216 ≤ dt then .ok b else lerp a b et.toNat

/-- Whether every value from the sustain point on is the minimum-dB floor (R237). -/
def restIsFloor (s : State) (n k : Nat) (e : Env) : Bool :=
  (List.range e.enpts.toNat).all fun i => i < e.esust.toNat || s.val n k i == Config.MIN_DB

/-- Whether a sustaining call finishes the envelope early (R237). -/
def finishesEarly (s : State) (n k : Nat) (e : Env) : Bool := e.earlyFin && e.db && restIsFloor s n k e

/-- The start value of segment c (R239). -/
def segmentStart (s : State) (n k : Nat) (e : Env) (c : Nat) : Int :=
  if c = 1 then e.ev0.toInt else s.val n k (c - 1)

/-- What a call does: its value, the registers it leaves, and whether a `sat32` changed its argument (R14). -/
structure EnvCall where
  out : Int
  env : Env
  sat : Bool

/-- `EnvStep(E)` (R235); an unconfigured instance returns 0 and changes nothing, every other case sets EOUT. -/
def envStep (s : State) (n k : Nat) : EnvCall :=
  let e := s.env n k
  match e.callCase with
  | .unconfigured => ⟨0, e, false⟩
  | .done =>
    let out := s.val n k (e.enpts.toNat - 1)
    ⟨out, { e with eout := toWord out }, false⟩
  | .sustaining =>
    let out := s.val n k e.esust.toNat
    ⟨out, { e with finished := finishesEarly s n k e, eout := toWord out }, false⟩
  | .forced =>
    let c := e.releaseSegment
    let out := segmentOut e.erelval.toInt (s.val n k c) e.et (s.dt n k c)
    ⟨out.val, { e.traverseForced (s.dt n k c) with eout := toWord out.val }, out.sat⟩
  | .segment =>
    let c := e.ecur.toNat
    let out := segmentOut (segmentStart s n k e c) (s.val n k c) e.et (s.dt n k c)
    ⟨out.val, { e.traverse c (s.dt n k c) (s.cell (valAddr n k c)) with eout := toWord out.val }, out.sat⟩

/-- Whether the first-segment case of R243 applies. -/
def Env.dbFirstSegment (e : Env) : Bool := e.db && e.callCase = .segment && e.ecur = 1

/-- The first segment of a dB envelope: linear in amplitude, EOUT in dB (R243). -/
def envFirstDb (s : State) (n k : Nat) : EnvCall :=
  let e := s.env n k
  let out := segmentOut (db2lin e.ev0.toInt) (db2lin (s.val n k 1)) e.et (s.dt n k 1)
  ⟨out.val, { e.traverse 1 (s.dt n k 1) (s.cell (valAddr n k 1)) with eout := toWord (lin2db out.val) }, out.sat⟩

/-- `EnvOutDb(E)` (R242): as EnvStep for a linear envelope; an unconfigured dB instance returns 0. -/
def envOutDb (s : State) (n k : Nat) : EnvCall :=
  let e := s.env n k
  let r := envStep s n k
  if !e.db || e.callCase = .unconfigured then r
  else if e.dbFirstSegment then envFirstDb s n k
  else { r with out := db2lin r.out }

/-- The table cells a call reads: (address, number of words). -/
def envReads (n k : Nat) (e : Env) : List (Nat × Nat) :=
  match e.callCase with
  | .unconfigured => []
  | .done => [(valAddr n k (e.enpts.toNat - 1), 1)]
  | .sustaining =>
    [(valAddr n k e.esust.toNat, if e.earlyFin && e.db then e.enpts.toNat - e.esust.toNat else 1)]
  | .forced => [(dtAddr n k e.releaseSegment, 1), (valAddr n k e.releaseSegment, 1)]
  | .segment =>
    [(dtAddr n k e.ecur.toNat, 1), (valAddr n k e.ecur.toNat, 1)] ++
      (if e.ecur.toNat = 1 then [] else [(valAddr n k (e.ecur.toNat - 1), 1)])

/-- Record several reads. -/
def State.touchAll (s : State) (rs : List (Nat × Nat)) : State := rs.foldl (fun t r => t.touch r.1 r.2) s

/-- A value that a unit returns, and the state it leaves. -/
structure Sampled where
  out : Int
  st : State

/-- Perform a call: the registers and ERET are written, and ERR.SAT if a `sat32` of the call changed its argument (R14).
R236 and R242 list no flag; one rises only where two interpolated values are 2^31 or more apart (log entry 6, DEDUCED). -/
def performCall (n k : Nat) (r : EnvCall) (s : State) : Sampled :=
  ⟨r.out, ((s.noteSat r.sat).touchAll (envReads n k (s.env n k))).setEnv n k { r.env with eret := toWord r.out }⟩

/-- `EnvStep(n, k)` with its writes. -/
def runEnvStep (n k : Nat) (s : State) : Sampled := performCall n k (envStep s n k) s
/-- `EnvOutDb(n, k)` with its writes. -/
def runEnvOutDb (n k : Nat) (s : State) : Sampled := performCall n k (envOutDb s n k) s

/-- RES1 of an envelope call: FINISHED after the call, 1 for an unconfigured instance (R236, R242). -/
def finishedResult (e : Env) : Word := if e.finished || e.enpts = 0 then 1 else 0

/-- The result registers of an envelope command. -/
def envResult (n k : Nat) (r : Sampled) : State := r.st.setRes (toWord r.out) (finishedResult (r.st.env n k))

/-- ENV.OUT n, k (R236). -/
def execEnvOut (n k : Byte) (s : State) : Result :=
  ranged (noteIndexOk n && slotIndexOk k) (fun t => envResult (index n) (index k) (runEnvStep (index n) (index k) t)) s

/-- ENV.OUTDB n, k (R242). -/
def execEnvOutdb (n k : Byte) (s : State) : Result :=
  ranged (noteIndexOk n && slotIndexOk k) (fun t => envResult (index n) (index k) (runEnvOutDb (index n) (index k) t)) s

/-! ## Release and finish -/

/-- `EnvRelease(E)` (R244), by its pseudocode: ERELVAL and ET are written for a finished envelope too, of which R244's
corner case says that nothing but RELEASED changes (log entry 24, DEDUCED). -/
def Env.release (e : Env) : Env :=
  if e.enpts = 0 ∨ e.released then e
  else { e with released := true, erelval := e.eout, et := if e.frpend then 0 else e.et }

/-- The finish of R245. -/
def Env.finish (e : Env) : Env := if e.enpts = 0 then e else { e with finished := true }

/-- ENV.RELEASE's effect. -/
def envRelease (n k : Nat) (s : State) : State := s.setEnv n k (s.env n k).release

/-- ENV.RELEASE n, k (R244). -/
def execEnvRelease (n k : Byte) (s : State) : Result :=
  ranged (noteIndexOk n && slotIndexOk k) (envRelease (index n) (index k)) s

/-- ENV.FINISH's effect. -/
def envFinish (n k : Nat) (s : State) : State := s.setEnv n k (s.env n k).finish

/-- ENV.FINISH n, k (R245). -/
def execEnvFinish (n k : Byte) (s : State) : Result :=
  ranged (noteIndexOk n && slotIndexOk k) (envFinish (index n) (index k)) s

end Sys2Proof.Machine
end

