-- ==== Sys2Proof/Machine/Lfo.lean ====
section
/-! DEFINITION. The LFO generator (spec/42_envelope_lfo.md R250 to R257): LFO.RESET, LFO.OUT, and the procedures
LfoReset and LfoStep that note commands share. -/

namespace Sys2Proof.Machine

/-- LFO `k` of note `n`. -/
def State.lfo (s : State) (n k : Nat) : Lfo := (s.note n).lfo k

/-- `lfoShape(sh, p)` (R251), p below 2^24. -/
def lfoShape (sh p : Nat) : Int :=
  if sh = 0 then sinRom (p / 16384)
  else if sh = 1 then
    (if p < 4194304 then 4 * (p : Int)
      else if p < 12582912 then 2 * Config.ONE - 4 * p
      else 4 * (p : Int) - 4 * Config.ONE)
  else if sh = 2 then (if p < 8388608 then Config.ONE else -Config.ONE)
  else if sh = 3 then 2 * (p : Int) - Config.ONE
  else Config.ONE - 2 * p

/-- LSHAPE after validation: a code above 4 is sine (R256, R257). -/
def Lfo.shape (l : Lfo) : Nat := if 4 < l.lshape.toNat then 0 else l.lshape.toNat

/-- The registers LFO.RESET leaves (R256). -/
def Lfo.restart (l : Lfo) : Lfo := { l with lphase := l.lphase0, ldcnt := l.ldelay, lout := 0 }

/-- `LfoReset(n, k)` (R256). -/
def lfoReset (n k : Nat) (s : State) : State :=
  (s.setErrIf (4 < (s.lfo n k).lshape.toNat) .cfg).setLfo n k (s.lfo n k).restart

/-- LFO.RESET n, k (R256). -/
def execLfoReset (n k : Byte) (s : State) : Result :=
  ranged (noteIndexOk n && slotIndexOk k) (lfoReset (index n) (index k)) s

/-- The value of an LFO call (R257). -/
def Lfo.output (l : Lfo) : Sat Int :=
  if l.ldcnt = 0 then qmul (lfoShape l.shape l.lphase.toNat) l.ldepth.toInt else .ok 0

/-- The registers an LFO call leaves (R257). -/
def Lfo.next (l : Lfo) : Lfo :=
  if l.ldcnt = 0 then { l with lphase := l.lphase + l.linc, lout := toWord l.output.val }
  else { l with ldcnt := l.ldcnt - 1, lout := 0 }

/-- `LfoStep(n, k)` with its writes (R257). -/
def runLfoStep (n k : Nat) (s : State) : Sampled :=
  ⟨(s.lfo n k).output.val, (s.noteSat (s.lfo n k).output.sat).setLfo n k (s.lfo n k).next⟩

/-- LFO.OUT's effect. -/
def lfoOut (n k : Nat) (s : State) : State := (runLfoStep n k s).st.setRes0 (toWord (runLfoStep n k s).out)

/-- LFO.OUT n, k (R257). -/
def execLfoOut (n k : Byte) (s : State) : Result :=
  ranged (noteIndexOk n && slotIndexOk k) (lfoOut (index n) (index k)) s

end Sys2Proof.Machine
end

