-- ==== Sys2Proof/Machine/Voice.lean ====
section
/-! DEFINITION. One block of one voice (spec/44_voice_note.md R330 to R352): modulation sources, frequency, unison
ratios, increments, amplitudes, the five topologies, the unison mix, fade-in, voice filter, amplitude, fade-out and
deposit. -/

namespace Sys2Proof.Machine

/-! ## Voice registers (R65) -/

/-- VCTRL.EN. -/
def Voice.enabled (x : Voice) : Bool := x.vctrl.getLsbD 0
/-- VCTRL.DEST. -/
def Voice.dest (x : Voice) : Bool := x.vctrl.getLsbD 1
/-- VCTRL.FILTEN. -/
def Voice.filterOn (x : Voice) : Bool := x.vctrl.getLsbD 2
/-- VCTRL.TOPO. -/
def Voice.ctrlTopo (x : Voice) : Nat := (x.vctrl.extractLsb' 4 3).toNat
/-- VCTRL.MODEXT. -/
def Voice.ctrlModext (x : Voice) : Bool := x.vctrl.getLsbD 7
/-- VCTRL.MODVOICE. -/
def Voice.modvoice (x : Voice) : Nat := (x.vctrl.extractLsb' 8 3).toNat
/-- VOSC.COSC. -/
def Voice.carrier (x : Voice) : Nat := (x.vosc.extractLsb' 0 4).toNat
/-- VOSC.MOSC. -/
def Voice.modulator (x : Voice) : Nat := (x.vosc.extractLsb' 8 4).toNat
/-- VOSC.USERES. -/
def Voice.useres (x : Voice) : Bool := x.vosc.getLsbD 16

/-- Voice `v` of note `n`. -/
def State.voice (s : State) (n v : Nat) : Voice := (s.note n).voice v
/-- Change voice `v` of note `n`. -/
def State.modVoice (s : State) (n v : Nat) (f : Voice → Voice) : State := s.setVoice n v (f (s.voice n v))

/-- A cell of a sub-voice record as a signed value (R66). -/
def State.uni (s : State) (n v k : Nat) (f : UniField) : Int := (s.cell (uniAddr n v k + f.offset)).toInt

/-- Record the read of one field of the first `cnt` sub-voice records. -/
def State.touchUni (s : State) (n v cnt : Nat) (f : UniField) : State :=
  s.touchAll ((List.range cnt).map fun k => (uniAddr n v k + f.offset, 1))

/-- Record the read of a two-cell field of the first `cnt` sub-voice records. -/
def State.touchPhases (s : State) (n v cnt : Nat) (hi lo : UniField) : State :=
  (s.touchUni n v cnt hi).touchUni n v cnt lo

/-- Store one field of the sub-voice records, record 0 first. -/
def State.setUni (s : State) (n v : Nat) (f : UniField) (ws : List Word) : State :=
  (List.range ws.length).foldl (fun t k => t.setCell (uniAddr n v k + f.offset) (ws.getD k 0)) s

/-- Store one phase of the sub-voice records, record 0 first. -/
def State.setPhases (s : State) (n v : Nat) (hi lo : UniField) (ps : List Nat) : State :=
  (List.range ps.length).foldl (fun t k => t.setPhase n v k hi lo (ps.getD k 0)) s

/-! ## Modulation sources (R330) -/

/-- The outputs of the six instances from slot `base` on (amplitude envelope and LFO, frequency envelope and LFO,
filter envelope and LFO), and the state after the six calls. -/
structure Sources where
  a : Int
  al : Int
  f : Int
  fl : Int
  c : Int
  cl : Int
  st : State

/-- The six calls in the order of R330. -/
def runSources (n base : Nat) (s : State) : Sources :=
  let r0 := runEnvOutDb n base s
  let r1 := runLfoStep n base r0.st
  let r2 := runEnvStep n (base + 1) r1.st
  let r3 := runLfoStep n (base + 1) r2.st
  let r4 := runEnvStep n (base + 2) r3.st
  let r5 := runLfoStep n (base + 2) r4.st
  ⟨r0.out, r1.out, r2.out, r3.out, r4.out, r5.out, r5.st⟩

/-! ## Frequencies, ratios, increments, amplitudes -/

/-- The note-global pitch offset (R331). -/
def globalPitch (gfe gfl : Int) (modwheel : Word) : Sat Int :=
  (qmul gfl modwheel.toInt).bind fun m => sat32 (gfe + m)

/-- The voice pitch (R332). -/
def voicePitch (x : Note) (y : Voice) (ctl : Ctl) (gpitch vfe vfl : Int) : Sat Int :=
  sat32 (x.log2freq.toInt + y.detune.toInt + ctl.pitchbend.toInt + ctl.portamento.toInt + gpitch + vfe + vfl)

/-- A frequency with the floor of R332. -/
def floorFreq (f : Nat) : Nat := max f Config.FREQ_MIN

/-- The new vibrato position and step (R334); the step is an integer that may leave the 32-bit range. -/
def vibratoMove (pos step : Int) : Int × Int :=
  if pos + step ≤ -Config.ONE then (-Config.ONE, -step)
  else if Config.ONE ≤ pos + step then (Config.ONE, -step)
  else (pos + step, step)

/-- The smoothed vibrato (R334). -/
def vibratoCurve (pos : Int) : Int := fdiv (3 * (pos - fdiv (pos * pos * pos) (3 * 281474976710656))) 2

/-- RATIO[k] of a unison of more than one sub-voice (R334). -/
def unisonRatio (rbase pos vibamp bandwidth : Int) : Sat Int :=
  (qmul (vibratoCurve pos) vibamp).bind fun m => (sat32 (rbase - Config.ONE + m)).bind fun d =>
    (qmul d bandwidth).bind fun e => sat32 (Config.ONE + e)

/-- What R334 computes for the sub-voices: ratios, and the new vibrato positions and steps (empty for size 1). -/
structure Ratios where
  ratio : List Int
  pos : List Int
  step : List Int

/-- The ratios of a block (R334). A step is narrowed as it is stored, as every narrowing is (R14 with decision D2): the
bounce of -2^31 stores 2^31 - 1 (log entry 9, DEDUCED). -/
def blockRatios (s : State) (n v : Nat) : Sat Ratios :=
  let y := s.voice n v
  if y.usize = 1 then .ok ⟨[Config.ONE], [], []⟩
  else
    let moves := (List.range y.usize.toNat).map fun k => vibratoMove (s.uni n v k .vibpos) (s.uni n v k .vibstep)
    (mapSat (fun m => sat32 m.2) moves).bind fun steps =>
      (mapSat (fun k => unisonRatio (s.uni n v k .rbase) (moves.getD k (0, 0)).1 y.vibamp.toInt s.ctl.bandwidth.toInt)
        (List.range y.usize.toNat)).map fun rs => ⟨rs, moves.map (·.1), steps⟩

/-- Store the ratios and vibrato state of a block, recording the reads. -/
def storeRatios (n v : Nat) (r : Ratios) (s : State) : State :=
  let cnt := r.pos.length
  ((((((s.touchUni n v cnt .vibpos).touchUni n v cnt .vibstep).touchUni n v cnt .rbase).setUni n v .vibpos
    (r.pos.map toWord)).setUni n v .vibstep (r.step.map toWord)).setUni n v .ratio (r.ratio.map toWord))

/-- The phase increment per sample for a frequency and a ratio (R335). -/
def increment (f : Nat) (ratio : Int) : Nat :=
  (fdiv (fdiv ((f : Int) * max ratio 0) 16777216 * 262144) Config.FS).toNat

/-- The block gain of R336 from a level, an amplitude envelope and an amplitude LFO. -/
def blockGain (level a al : Int) : Sat Int :=
  (qmul level a).bind fun g => (sat32 (Config.ONE + al)).bind fun t => qmul g (max 0 t)

/-! ## Oscillators and topologies (R337 to R345) -/

/-- `interp(W, p)` (R337), p below PHMOD. -/
def interp (w : List Int) (p : Nat) : Int :=
  let a := w.getD (p / 16777216) 0
  let b := w.getD ((p / 16777216 + 1) % 1024) 0
  a + fdiv ((b - a) * (p % 16777216 : Nat)) 16777216

/-- A phase moved by an integer, modulo PHMOD. -/
def phaseAdd (p : Nat) (d : Int) : Nat := (((p : Int) + d) % Config.PHMOD).toNat

/-- What a sub-voice reads that is constant across the block. -/
structure SubCfg where
  topo : Nat
  ext : Bool
  wave : List Int
  wavem : List Int
  inc : Nat
  incm : Nat
  modgain : Int

/-- The three phases of a sub-voice (R66). -/
structure SubPhase where
  ph : Nat
  phm : Nat
  fmi : Nat

/-- The modulator signal (R340): the other voice's output, or the voice's own modulator oscillator. -/
def modSignal (c : SubCfg) (p : SubPhase) (m : Int) : Int := if c.ext then m else interp c.wavem p.phm

/-- The scaled modulator of topologies Phase and Frequency (R344, R345). -/
def scaledMod (m ma : Int) : Sat Int := (sat32 ma).bind fun g => qmul m g

/-- FMI[k] after a sample of topology Frequency (R345). -/
def fmIntegrate (c : SubCfg) (fmi : Nat) (sm : Int) : Nat := phaseAdd fmi (fdiv (sm * c.modgain) 256)

/-- The sample c_k(i) and FMI[k] after it (R341 to R345); `m` is the modulator signal, `ma` the level. A topology code
above 4, which NOTE.INIT never stores, is None. -/
def subOutput (c : SubCfg) (p : SubPhase) (m ma : Int) : Sat (Int × Nat) :=
  let o := interp c.wave p.ph
  let mac := clamp ma 0 Config.ONE
  if c.topo = 1 then (lerp o m mac).map fun y => (y, p.fmi)
  else if c.topo = 2 then
    (qmul m mac).bind fun a => (sat32 (Config.ONE - mac + a)).bind fun b => (qmul o b).map fun y => (y, p.fmi)
  else if c.topo = 3 then
    (scaledMod m ma).map fun sm => (interp c.wave (phaseAdd p.ph (sm * c.modgain)), p.fmi)
  else if c.topo = 4 then
    (scaledMod m ma).map fun sm =>
      (interp c.wave (phaseAdd p.ph (fmIntegrate c p.fmi sm)), fmIntegrate c p.fmi sm)
  else .ok (o, p.fmi)

/-- Whether the voice's own modulator oscillator runs (R340). -/
def SubCfg.ownMod (c : SubCfg) : Bool := c.topo != 0 && !c.ext

/-- The phases after a sample (R340, R341): the carrier always advances, the own modulator if it runs. -/
def SubPhase.next (c : SubCfg) (p : SubPhase) (fmi : Nat) : SubPhase :=
  { ph := (p.ph + c.inc) % Config.PHMOD
    phm := if c.ownMod then (p.phm + c.incm) % Config.PHMOD else p.phm
    fmi := fmi }

/-- A block of a sub-voice, one entry (other voice's output, level) per sample, in ascending order. -/
def subBlock (c : SubCfg) : SubPhase → List (Int × Int) → Sat (List Int × SubPhase)
  | p, [] => .ok ([], p)
  | p, e :: es =>
    (subOutput c p (modSignal c p e.1) e.2).bind fun y => (subBlock c (p.next c y.2) es).map fun r =>
      (y.1 :: r.1, r.2)

/-- The left or right weight of a sub-voice at a stereo position, with its sign (R347). -/
def panWeight (right : Bool) (pos : Int) (invert : Bool) : Int :=
  let w := clamp (2 * (if right then pos else Config.ONE - pos)) 0 Config.ONE
  if invert then -w else w

/-- One sample of the unison mix (R347): `cs` are the sub-voices' samples, `ws` their signed weights. -/
def unisonSample (uninorm : Int) (ws cs : List Int) : Sat Int :=
  sat32 (fdiv ((List.zipWith (· * ·) cs ws).sum * uninorm + 140737488355328) 281474976710656)

/-- One channel of the unison mix (R347). -/
def unisonMix (uninorm : Int) (ws : List Int) (blocks : List (List Int)) : Sat (List Int) :=
  mapSat (fun i => unisonSample uninorm ws (blocks.map fun b => b.getD i 0)) (List.range 256)

/-! ## Buffers -/

/-- A stereo pair of buffers, and the state of the block so far. -/
structure Stereo where
  l : List Int
  r : List Int
  st : State

/-- Multiply sample i by g(i). -/
def scaleBy (g : Nat → Int) (b : List Int) : Sat (List Int) :=
  mapSat (fun i => qmul (b.getD i 0) (g i)) (List.range b.length)

/-- Multiply both channels by a gain. -/
def Stereo.scale (g : Nat → Int) (x : Stereo) : Stereo :=
  let a := scaleBy g x.l
  let b := scaleBy g x.r
  ⟨a.val, b.val, x.st.noteSat (a.sat || b.sat)⟩

/-- The half-cosine fade-in gain (R348); ONE from FADEIN_LEN on, where the rule leaves the sample unchanged. -/
def fadeInGain (i : Nat) : Int := fdiv (Config.ONE - cosRom (i * 1024 / 128)) 2

/-- Fade-in of the first 64 samples (R348). -/
def fadeInBuf (b : List Int) : Sat (List Int) := (scaleBy fadeInGain (b.take 64)).map (· ++ b.drop 64)

/-- Fade-in of both channels. -/
def Stereo.fadeIn (x : Stereo) : Stereo :=
  let a := fadeInBuf x.l
  let b := fadeInBuf x.r
  ⟨a.val, b.val, x.st.noteSat (a.sat || b.sat)⟩

/-- The gain of AmpApply at sample i (R349). -/
def ampGain (old new : Int) (i : Nat) : Int := if 2048 < (new - old).natAbs then ramp old new i 256 else new

/-- The gain of the final fade-out at sample i (R350, R353). -/
def fadeOutGain (i : Nat) : Int := fdiv (Config.ONE * (256 - (i : Int))) 256

/-- SetCoef and FilterBlock on a left and a right filter instance with the same frequency and Q (R346, R351); SetCoef
latches FNST and sets ERR.CFG in NOTE.OUT too (log entry 27, DEDUCED). -/
def Stereo.filter (n f freq : Nat) (q : Int) (x : Stereo) : Stereo :=
  let s := setCoef n (f + 1) freq q (setCoef n f freq q x.st)
  let a := filterBlock n f x.l s
  let b := filterBlock n (f + 1) x.r a.st
  ⟨a.buf, b.buf, b.st⟩

/-! ## Phase B of NOTE.OUT -/

/-- The sub-voices' blocks and the phases they end with (R340 to R345). -/
def subBlocks (s : State) (n v fv fmv : Nat) (ratios : List Int) : Sat (List (List Int × SubPhase)) :=
  let y := s.voice n v
  let wave := s.signedCells (vwaveAddr n v false) 1024
  let wavem := if y.topo = 0 ∨ y.modext then [] else s.signedCells (vwaveAddr n v true) 1024
  let other := if y.topo = 0 ∨ !y.modext then [] else s.signedCells (voutAddr n y.modvoice) 256
  let drive := (List.range 256).map fun i => (other.getD i 0, ramp y.modampold.toInt y.modamp.toInt i 256)
  mapSat (fun k =>
    subBlock
      { topo := y.topo.toNat, ext := y.modext, wave := wave, wavem := wavem, inc := increment fv (ratios.getD k 0),
        incm := increment fmv (ratios.getD k 0), modgain := y.modgain.toNat }
      ⟨s.phase n v k .phhi .phlo, s.phase n v k .phmhi .phmlo, s.phase n v k .fmihi .fmilo⟩ drive)
    (List.range y.usize.toNat)

/-- Record what the oscillators and the mix of a voice read. -/
def touchOscillators (n v : Nat) (s : State) : State :=
  let y := s.voice n v
  let cnt := y.usize.toNat
  let s1 := (((s.touch (vwaveAddr n v false) 1024).touchPhases n v cnt .phhi .phlo).touchUni n v cnt .pos).touchUni n v
    cnt .invert
  let s2 := if y.topo = 0 then s1
    else if y.modext then s1.touch (voutAddr n y.modvoice) 256
    else (s1.touch (vwaveAddr n v true) 1024).touchPhases n v cnt .phmhi .phmlo
  if y.topo = 4 then s2.touchPhases n v cnt .fmihi .fmilo else s2

/-- Store the phases after a block: PH always, PHM and FMI where the topology moves them. -/
def storePhases (n v : Nat) (ps : List SubPhase) (s : State) : State :=
  let y := s.voice n v
  let s1 := s.setPhases n v .phhi .phlo (ps.map (·.ph))
  let s2 := if y.topo = 0 ∨ y.modext then s1 else s1.setPhases n v .phmhi .phmlo (ps.map (·.phm))
  if y.topo = 4 then s2.setPhases n v .fmihi .fmilo (ps.map (·.fmi)) else s2

/-- Oscillators, topology and unison mix (R340 to R347). -/
def voiceOscillators (n v fv fmv : Nat) (ratios : List Int) (s : State) : Stereo :=
  let y := s.voice n v
  let bs := subBlocks s n v fv fmv ratios
  let weights := fun right => (List.range y.usize.toNat).map fun k =>
    panWeight right (s.uni n v k .pos) ((s.cell (uniAddr n v k + UniField.invert.offset)).getLsbD 0)
  let l := unisonMix y.uninorm.toInt (weights false) (bs.val.map (·.1))
  let r := unisonMix y.uninorm.toInt (weights true) (bs.val.map (·.1))
  ⟨l.val, r.val, storePhases n v (bs.val.map (·.2)) ((touchOscillators n v s).noteSat (bs.sat || l.sat || r.sat))⟩

/-- The voice's block amplitude (R336). -/
def voiceAmp (n v : Nat) (a al : Int) (s : State) : State :=
  let y := s.voice n v
  let g := blockGain y.vvolume.toInt a al
  (s.noteSat g.sat).setVoice n v
    { y with vampold := if y.first then toWord g.val else y.vampnew, vampnew := toWord g.val }

/-- The pitch, frequencies, ratios and amplitude of a voice's block (R332 to R336), then its oscillators. -/
def voiceSignal (n v : Nat) (gpitch : Int) (m : Sources) : Stereo :=
  let s := m.st
  let vp := voicePitch (s.note n) (s.voice n v) s.ctl gpitch m.f m.fl
  let mp := sat32 (vp.val + (s.voice n v).moddetune.toInt)
  let fv := floorFreq (exp2 vp.val)
  let fmv := floorFreq (exp2 mp.val)
  let rs := blockRatios s n v
  let s1 := (s.setErrIf (fv != exp2 vp.val || fmv != exp2 mp.val) .clamp).noteSat (vp.sat || mp.sat || rs.sat)
  voiceOscillators n v fv fmv rs.val.ratio (voiceAmp n v m.a m.al (storeRatios n v rs.val s1))

/-- Fade-in on the voice's first block (R348). -/
def voiceFadeIn (n v : Nat) (x : Stereo) : Stereo := if (x.st.voice n v).first then x.fadeIn else x

/-- The voice's amplitude (R349). -/
def voiceAmpApply (n v : Nat) (x : Stereo) : Stereo :=
  let y := x.st.voice n v
  x.scale (ampGain y.vampold.toInt y.vampnew.toInt)

/-- The voice's filter, where enabled (R346); its frequency is the one of R333. -/
def voiceFilter (n v : Nat) (vce vcl : Int) (x : Stereo) : Stereo :=
  let y := x.st.voice n v
  if y.filterOn then
    let p := sat32 (y.vfbase.toInt + vce + vcl)
    Stereo.filter n (2 + 2 * v) (exp2 p.val) y.vfq.toInt { x with st := x.st.noteSat p.sat }
  else x

/-- Fade-out and finish of a voice whose amplitude envelope is finished (R350). -/
def voiceFadeOut (n v : Nat) (x : Stereo) : Stereo :=
  if (x.st.env n (3 + 3 * v)).finished then
    let y := x.scale fadeOutGain
    { y with st := y.st.modVoice n v fun w => { w with finished := true } }
  else x

/-- The note's exact accumulators, at scale 2^48, and the state of the block so far. -/
structure Sums where
  l : List Int
  r : List Int
  st : State

/-- Add a channel, weighted, to an accumulator. -/
def addWeighted (acc b : List Int) (w : Int) : List Int := List.zipWith (fun a x => a + x * w) acc b

/-- Deposit (R352): into the note's sums, or into the voice output buffer. -/
def deposit (n v : Nat) (acc : Sums) (x : Stereo) : Sums :=
  let y := x.st.voice n v
  if y.dest then
    let o := mapSat sat32 (List.zipWith (· + ·) x.l x.r)
    ⟨acc.l, acc.r, (x.st.noteSat o.sat).setSignedCells (voutAddr n v) o.val⟩
  else
    ⟨addWeighted acc.l x.l y.vpanl.toInt, addWeighted acc.r x.r y.vpanr.toInt,
      x.st.setSignedCells (voutAddr n v) (zeros 256)⟩

/-- The end of a voice's block: FIRST <- 0, MODAMPOLD <- MODAMP (R320). -/
def Voice.endBlock (y : Voice) : Voice := { y with first := false, modampold := y.modamp }

/-- Phase B of NOTE.OUT for a created voice that is not finished (R320): the voice filter comes before the amplitude, as
decision D49 orders the chain, against the order in which R320, R346 and R357 write it (log entry 22, DEDUCED). -/
def liveVoice (n v : Nat) (gpitch : Int) (acc : Sums) : Sums :=
  let m := runSources n (3 + 3 * v) acc.st
  let x := voiceFadeOut n v (voiceAmpApply n v (voiceFilter n v m.c m.cl (voiceFadeIn n v (voiceSignal n v gpitch m))))
  let d := deposit n v acc x
  { d with st := d.st.modVoice n v Voice.endBlock }

/-- Phase B of NOTE.OUT for voice v (R320): a voice that is not created is skipped, a finished one delivers zeros. A
finished voice's envelopes and LFOs do not advance, as R320 has it, against the count of R330 (log entry 21,
DEDUCED). -/
def voiceBlock (n : Nat) (gpitch : Int) (acc : Sums) (v : Nat) : Sums :=
  let y := acc.st.voice n v
  if !y.created then acc
  else if y.finished then { acc with st := acc.st.setSignedCells (voutAddr n v) (zeros 256) }
  else liveVoice n v gpitch acc

end Sys2Proof.Machine
end

