-- ==== Sys2Proof/Machine/Bus.lean ====
section
/-! DEFINITION. The HOST bus (spec/20_memory.md R90 to R101): the register map of spec/10_state.md R40 to R69 with
each register's access right, and the read and write of one access with its refusals. -/

namespace Sys2Proof.Machine

/-- The access rights of spec/10_state.md. -/
inductive Access where
  | rw | ro | wo | w1c
  deriving DecidableEq, Repr

/-- A mapped word: its access right, what a read returns (`none`: an undef cell or a shadow bank, an unspecified
value), and what an accepted write does. -/
structure Reg where
  access : Access
  read : State → Option Word
  write : Word → State → State

/-- A read-only register. -/
def roReg (get : State → Word) : Reg := ⟨.ro, fun s => some (get s), fun _ s => s⟩
/-- A read-write register. -/
def rwReg (get : State → Word) (set : Word → State → State) : Reg := ⟨.rw, fun s => some (get s), set⟩
/-- A write-1-to-clear register. -/
def w1cReg (get : State → Word) (set : Word → State → State) : Reg := ⟨.w1c, fun s => some (get s), set⟩
/-- A write-only register: reads return 0 (R99). -/
def woReg (act : Word → State → State) : Reg := ⟨.wo, fun _ => some 0, act⟩
/-- A read-only memory cell. -/
def roCell (a : Nat) : Reg := ⟨.ro, fun s => s.mem.word? a, fun _ s => s⟩
/-- A read-write memory cell that stores the bits of `mask`. -/
def rwCell (a : Nat) (mask : Word) : Reg := ⟨.rw, fun s => s.mem.word? a, fun w s => s.setCell a (w &&& mask)⟩

/-- A register view widened to a word; unlisted bits read 0. -/
def wide {w : Nat} (x : BitVec w) : Word := x.zeroExtend 32
/-- The listed low bits of a written word. -/
def low (w : Nat) (v : Word) : BitVec w := v.extractLsb' 0 w

/-! ## GLB (R40 to R51) -/

/-- A controller register (R50). -/
def ctlReg (get : Ctl → Word) (set : Word → Ctl → Ctl) : Reg :=
  rwReg (fun s => get s.ctl) fun w s => { s with ctl := set w s.ctl }

/-- The registers of region GLB. -/
def glbReg (off : Nat) : Option Reg :=
  match off with
  | 0x000 => some (roReg fun _ => 0x5A530002)
  | 0x004 => some (roReg fun _ => 0x00000001)
  | 0x008 => some (roReg fun _ => 0x0810100A)
  | 0x00C => some (roReg fun _ => 0x05288032)
  | 0x010 => some (roReg fun _ => 44100)
  | 0x014 => some (roReg fun _ => 256)
  | 0x018 => some (roReg fun _ => 220)
  | 0x01C => some (roReg fun _ => 64)
  | 0x020 => some (roReg fun _ => 0x00000800)
  | 0x024 => some (roReg fun _ => 0x0000199A)
  | 0x028 => some (roReg fun _ => 0x00028F5C)
  | 0x02C => some (roReg fun _ => 0x9C000000)
  | 0x040 => some (woReg cmdStart)
  | 0x044 => some (roReg fun s => wide s.cptr)
  | 0x048 => some (roReg fun s => s.status.word)
  | 0x04C => some (w1cReg (fun s => wide s.err) fun w s => { s with err := s.err &&& ~~~(low 8 w) })
  | 0x050 => some (roReg fun s => wide s.faultCode)
  | 0x054 => some (roReg fun s => wide s.faultPtr)
  | 0x058 => some (roReg fun s => s.faultInfo)
  | 0x05C => some (woReg fun _ s => s.faultAck)
  | 0x060 => some (rwReg (fun s => wide s.irqEn) fun w s => { s with irqEn := low 5 w })
  | 0x064 => some (w1cReg (fun s => wide s.irqPend) fun w s => { s with irqPend := s.irqPend &&& ~~~(low 5 w) })
  | 0x068 => some (roReg fun s => s.res0)
  | 0x06C => some (roReg fun s => s.res1)
  | 0x070 => some (rwReg (fun s => wide s.voiceCap) fun w s => { s with voiceCap := low 8 w })
  | 0x074 => some (roReg fun s => wide s.nvoices)
  | 0x078 => some (roReg fun s => s.regenRun)
  | 0x07C => some (w1cReg (fun s => wide s.regenDone) fun w s => { s with regenDone := s.regenDone &&& ~~~(low 16 w) })
  | 0x080 => some (ctlReg (·.pitchbend) fun w c => { c with pitchbend := w })
  | 0x084 => some (ctlReg (·.modwheel) fun w c => { c with modwheel := w })
  | 0x088 => some (ctlReg (·.portamento) fun w c => { c with portamento := w })
  | 0x08C => some (ctlReg (fun c => wide c.sustain) fun w c => { c with sustain := low 1 w })
  | 0x090 => some (ctlReg (·.rescenter) fun w c => { c with rescenter := w })
  | 0x094 => some (ctlReg (·.resbw) fun w c => { c with resbw := w })
  | 0x098 => some (ctlReg (·.bandwidth) fun w c => { c with bandwidth := w })
  | 0x0A0 => some (w1cReg (fun s => wide s.regenCanc) fun w s => { s with regenCanc := s.regenCanc &&& ~~~(low 16 w) })
  | _ => none

/-! ## OSCCFG (R52, R53) -/

/-- The version bump of an accepted configuration write (R53). -/
def bumpVersion (o : Nat) (s : State) : State :=
  s.setOsc o { s.osc o with cfgver := (s.osc o).cfgver + 1, dirty := true }

/-- A scalar configuration register (R52). -/
def cfgReg (o : Nat) (get : OscCfg → Word) (set : Word → OscCfg → OscCfg) : Reg :=
  rwReg (fun s => get (s.osc o).cfg) fun w s =>
    bumpVersion o (s.setOsc o { s.osc o with cfg := set w (s.osc o).cfg })

/-- A harmonic table cell: seven bits (R52). -/
def tableReg (o a : Nat) : Reg :=
  { rwCell a 0x7F with write := fun w s => bumpVersion o (s.setCell a (w &&& 0x7F)) }

/-- The scalar and status registers of an oscillator. -/
def oscScalar (o off : Nat) : Option Reg :=
  match off with
  | 0x400 => some (cfgReg o (fun c => wide c.magtype) fun w c => { c with magtype := low 3 w })
  | 0x404 => some (cfgReg o (fun c => wide c.basefunc) fun w c => { c with basefunc := low 4 w })
  | 0x408 => some (cfgReg o (fun c => wide c.basepar) fun w c => { c with basepar := low 7 w })
  | 0x40C => some (cfgReg o (fun c => wide c.wstype) fun w c => { c with wstype := low 8 w })
  | 0x410 => some (cfgReg o (fun c => wide c.wspar) fun w c => { c with wspar := low 7 w })
  | 0x414 => some (cfgReg o (fun c => wide c.sftype) fun w c => { c with sftype := low 8 w })
  | 0x418 => some (cfgReg o (fun c => wide c.sfpar1) fun w c => { c with sfpar1 := low 7 w })
  | 0x41C => some (cfgReg o (fun c => wide c.sfpar2) fun w c => { c with sfpar2 := low 7 w })
  | 0x420 => some (cfgReg o (fun c => wide c.satype) fun w c => { c with satype := low 2 w })
  | 0x424 => some (cfgReg o (fun c => wide c.sapar) fun w c => { c with sapar := low 7 w })
  | 0x428 => some (cfgReg o (fun c => wide c.hshift) fun w c => { c with hshift := low 8 w })
  | 0x42C => some (cfgReg o (fun c => wide c.stageorder) fun w c => { c with stageorder := low 8 w })
  | 0x430 => some (cfgReg o (fun c => wide c.adapt) fun w c => { c with adapt := low 8 w })
  | 0x434 => some (cfgReg o (fun c => wide c.adaptpar) fun w c => { c with adaptpar := low 7 w })
  | 0x438 => some (cfgReg o (fun c => wide c.normmode) fun w c => { c with normmode := low 2 w })
  | 0x43C => some (cfgReg o (fun c => wide c.aa) fun w c => { c with aa := low 1 w })
  | 0x440 => some (cfgReg o (fun c => wide c.randmode) fun w c => { c with randmode := low 2 w })
  | 0x444 => some (cfgReg o (fun c => wide c.randdepth) fun w c => { c with randdepth := low 7 w })
  | 0x448 => some (cfgReg o (fun c => wide c.amprandtype) fun w c => { c with amprandtype := low 2 w })
  | 0x44C => some (cfgReg o (fun c => wide c.amprandpower) fun w c => { c with amprandpower := low 7 w })
  | 0x480 => some (roReg fun s => (s.osc o).ostat)
  | 0x484 => some (roReg fun s => (s.osc o).cfgver)
  | 0x488 => some (roReg fun s => (s.osc o).pubver)
  | _ => none

/-- The registers of region OSCCFG of oscillator `o`. -/
def oscReg (o off : Nat) : Option Reg :=
  if off < 0x400 then some (tableReg o (oscBase o + off)) else oscScalar o off

/-- A cell of a spectrum or waveform bank (R54, R55): the shadow bank reads as an unspecified value (R56, U4). -/
def bankReg (o : Nat) (b : Bool) (a : Nat) : Reg :=
  { roCell a with read := fun s => if (s.osc o).pubsel = b then s.mem.word? a else none }

/-! ## NOTE, ENV, LFO, FLT (R57 to R63) -/

/-- A read-only note register. -/
def noteRo (n : Nat) (get : Note → Word) : Reg := roReg fun s => get (s.note n)
/-- A read-write note register. -/
def noteRw (n : Nat) (get : Note → Word) (set : Word → Note → Note) : Reg :=
  rwReg (fun s => get (s.note n)) fun w s => s.modNote n (set w)

/-- The registers of region NOTE of note `n` (R57). -/
def noteReg (n off : Nat) : Option Reg :=
  match off with
  | 0x000 => some (noteRo n fun x => x.nstat.word)
  | 0x004 => some (noteRw n (·.log2freq) fun w x => { x with log2freq := w })
  | 0x008 => some (noteRw n (·.velocity) fun w x => { x with velocity := w })
  | 0x00C => some (noteRw n (·.volume) fun w x => { x with volume := w })
  | 0x010 => some (noteRw n (·.panl) fun w x => { x with panl := w })
  | 0x014 => some (noteRw n (·.panr) fun w x => { x with panr := w })
  | 0x018 => some (noteRw n (·.cutoff) fun w x => { x with cutoff := w })
  | 0x01C => some (noteRw n (·.gfbase) fun w x => { x with gfbase := w })
  | 0x020 => some (noteRw n (·.gfq) fun w x => { x with gfq := w })
  | 0x024 => some (noteRw n (fun x => wide x.gfen) fun w x => { x with gfen := low 1 w })
  | 0x028 => some (noteRw n (·.rng) fun w x => { x with rng := w })
  | 0x02C => some (noteRo n Note.legstat)
  | 0x030 => some (noteRo n (·.legcount))
  | 0x034 => some (noteRo n (·.legpitch))
  | 0x038 => some (noteRo n (·.legvel))
  | 0x03C => some (noteRo n (·.gampold))
  | 0x040 => some (noteRo n (·.gampnew))
  | 0x044 => some (noteRo n Note.vcreated)
  | 0x048 => some (noteRw n (fun x => wide x.nctrl) fun w x => { x with nctrl := low 1 w })
  | _ => none

/-- A read-only envelope register. -/
def envRo (n k : Nat) (get : Env → Word) : Reg := roReg fun s => get (s.env n k)
/-- A read-write envelope register. -/
def envRw (n k : Nat) (get : Env → Word) (set : Word → Env → Env) : Reg :=
  rwReg (fun s => get (s.env n k)) fun w s => s.setEnv n k (set w (s.env n k))

/-- The scalar registers of an envelope (R61). -/
def envScalar (n k off : Nat) : Option Reg :=
  match off with
  | 0x1A0 => some (envRw n k (fun x => wide x.npts) fun w x => { x with npts := low 8 w })
  | 0x1A4 => some (envRw n k (fun x => wide x.sust) fun w x => { x with sust := low 8 w })
  | 0x1A8 => some (envRw n k (fun x => wide x.eflags) fun w x => { x with eflags := low 4 w })
  | 0x1B0 => some (envRo n k fun x => wide x.ecur)
  | 0x1B4 => some (envRo n k (·.et))
  | 0x1B8 => some (envRo n k Env.estat)
  | 0x1BC => some (envRo n k (·.eout))
  | 0x1C0 => some (envRo n k (·.eret))
  | 0x1C4 => some (envRo n k (·.ev0))
  | 0x1C8 => some (envRo n k (·.erelval))
  | 0x1CC => some (envRo n k fun x => wide x.enpts)
  | 0x1D0 => some (envRo n k fun x => wide x.esust)
  | _ => none

/-- The registers of region ENV of an envelope: the DT and VAL tables, then the scalars (R61). -/
def envReg (n k off : Nat) : Option Reg :=
  if off < 0xA0 ∨ 0x100 ≤ off ∧ off < 0x1A0 then some (rwCell (envBase n k + off) 0xFFFFFFFF) else envScalar n k off

/-- A read-only LFO register. -/
def lfoRo (n k : Nat) (get : Lfo → Word) : Reg := roReg fun s => get (s.lfo n k)
/-- A read-write LFO register. -/
def lfoRw (n k : Nat) (get : Lfo → Word) (set : Word → Lfo → Lfo) : Reg :=
  rwReg (fun s => get (s.lfo n k)) fun w s => s.setLfo n k (set w (s.lfo n k))

/-- The registers of region LFO of an LFO (R62). -/
def lfoReg (n k off : Nat) : Option Reg :=
  match off with
  | 0x000 => some (lfoRw n k (fun x => wide x.linc) fun w x => { x with linc := low 24 w })
  | 0x004 => some (lfoRw n k (fun x => wide x.lphase0) fun w x => { x with lphase0 := low 24 w })
  | 0x008 => some (lfoRw n k (fun x => wide x.lshape) fun w x => { x with lshape := low 3 w })
  | 0x00C => some (lfoRw n k (·.ldepth) fun w x => { x with ldepth := w })
  | 0x010 => some (lfoRw n k (fun x => wide x.ldelay) fun w x => { x with ldelay := low 16 w })
  | 0x014 => some (lfoRo n k fun x => wide x.lphase)
  | 0x018 => some (lfoRo n k fun x => wide x.ldcnt)
  | 0x01C => some (lfoRo n k (·.lout))
  | _ => none

/-- A read-only filter register. -/
def fltRo (n f : Nat) (get : Flt → Word) : Reg := roReg fun s => get (s.flt n f)
/-- A read-write filter register. -/
def fltRw (n f : Nat) (get : Flt → Word) (set : Word → Flt → Flt) : Reg :=
  rwReg (fun s => get (s.flt n f)) fun w s => s.setFlt n f (set w (s.flt n f))

/-- State word `j` of a filter stage (R63). -/
def FltStage.word (g : FltStage) (j : Nat) : Word := if j = 0 then g.s0 else if j = 1 then g.s1 else if j = 2 then g.s2 else g.s3

/-- The scalar registers of a filter (R63). -/
def fltScalar (n f off : Nat) : Option Reg :=
  match off with
  | 0x000 => some (fltRw n f (fun x => wide x.fkind) fun w x => { x with fkind := low 1 w })
  | 0x004 => some (fltRw n f (fun x => wide x.ftype) fun w x => { x with ftype := low 8 w })
  | 0x008 => some (fltRw n f (fun x => wide x.fstages) fun w x => { x with fstages := low 3 w })
  | 0x00C => some (fltRo n f (·.ffreq))
  | 0x010 => some (fltRo n f (·.fq))
  | 0x014 => some (fltRo n f fun x => wide x.fnst)
  | _ => none

/-- The registers of region FLT of a filter: scalars, coefficients, stage states (R63). -/
def fltReg (n f off : Nat) : Option Reg :=
  if off < 0x20 then fltScalar n f off
  else if off < 0x34 then some (fltRo n f fun x => x.fc[(off - 0x20) / 4]?.getD 0)
  else if off < 0x40 then none
  else if off < 0x90 then
    some (fltRo n f fun x => (x.fst[(off - 0x40) / 16]?.getD .zero).word ((off - 0x40) / 4 % 4))
  else none

/-! ## VOICE and UNI (R65 to R67) -/

/-- A read-only voice register. -/
def voiceRo (n v : Nat) (get : Voice → Word) : Reg := roReg fun s => get (s.voice n v)
/-- A read-write voice register. -/
def voiceRw (n v : Nat) (get : Voice → Word) (set : Word → Voice → Voice) : Reg :=
  rwReg (fun s => get (s.voice n v)) fun w s => s.modVoice n v (set w)

/-- The registers of region VOICE of a voice (R65); VCTRL and VOSC store their listed bits. -/
def voiceReg (n v off : Nat) : Option Reg :=
  match off with
  | 0x000 => some (voiceRw n v (·.vctrl) fun w x => { x with vctrl := w &&& 0x7F7 })
  | 0x004 => some (voiceRw n v (·.vosc) fun w x => { x with vosc := w &&& 0x10F0F })
  | 0x008 => some (voiceRw n v (·.detune) fun w x => { x with detune := w })
  | 0x00C => some (voiceRw n v (·.moddetune) fun w x => { x with moddetune := w })
  | 0x010 => some (voiceRw n v (·.vvolume) fun w x => { x with vvolume := w })
  | 0x014 => some (voiceRw n v (·.vpanl) fun w x => { x with vpanl := w })
  | 0x018 => some (voiceRw n v (·.vpanr) fun w x => { x with vpanr := w })
  | 0x01C => some (voiceRw n v (·.modamp) fun w x => { x with modamp := w })
  | 0x020 => some (voiceRw n v (fun x => wide x.modgain) fun w x => { x with modgain := low 16 w })
  | 0x024 => some (voiceRw n v (fun x => wide x.unisize) fun w x => { x with unisize := low 6 w })
  | 0x028 => some (voiceRw n v (·.uninorm) fun w x => { x with uninorm := w })
  | 0x02C => some (voiceRw n v (·.vibamp) fun w x => { x with vibamp := w })
  | 0x030 => some (voiceRw n v (·.vfbase) fun w x => { x with vfbase := w })
  | 0x034 => some (voiceRw n v (·.vfq) fun w x => { x with vfq := w })
  | 0x040 => some (voiceRo n v Voice.vstat)
  | 0x044 => some (voiceRo n v (·.vampold))
  | 0x048 => some (voiceRo n v (·.vampnew))
  | 0x04C => some (voiceRo n v (·.modampold))
  | 0x050 => some (voiceRo n v fun x => wide x.usize)
  | 0x054 => some (voiceRo n v Voice.topoeff)
  | _ => none

/-- The fields of a sub-voice record at address `a` (R66): five are writable. -/
def uniReg (a off : Nat) : Option Reg :=
  if off < 0x10 then some (rwCell a 0xFFFFFFFF)
  else if off = 0x10 then some (rwCell a 1)
  else if off < 0x30 then some (roCell a)
  else none

/-- The cells of voice slot `v` of note `n` at offset `off`, address `a` (R65 to R67). -/
def voiceRegion (n v off a : Nat) : Option Reg :=
  if off < 0x1000 then voiceReg n v off
  else if off < 0x1C80 then uniReg a ((off - 0x1000) % 0x40)
  else if 0x2000 ≤ off ∧ off < 0x2400 then some (roCell a)
  else if 0x3000 ≤ off ∧ off < 0x5000 then some (roCell a)
  else none

/-- The cells of note slot `n` at offset `off`, address `a` (R92). -/
def noteRegion (n off a : Nat) : Option Reg :=
  if off < 0x1000 then noteReg n off
  else if off < 0x4600 then envReg n ((off - 0x1000) / 0x200) ((off - 0x1000) % 0x200)
  else if 0x5000 ≤ off ∧ off < 0x56C0 then lfoReg n ((off - 0x5000) / 0x40) ((off - 0x5000) % 0x40)
  else if 0x6000 ≤ off ∧ off < 0x7200 then fltReg n ((off - 0x6000) / 0x100) ((off - 0x6000) % 0x100)
  else if 0x8000 ≤ off ∧ off < 0x8800 then some (roCell a)
  else if 0x10000 ≤ off ∧ off < 0x50000 then
    voiceRegion n ((off - 0x10000) / 0x8000) ((off - 0x10000) % 0x8000) a
  else none

/-! ## The region table (R92) -/

/-- The mapped word at an aligned address, if there is one. -/
def locate (a : Nat) : Option Reg :=
  if a < 0x100 then glbReg a
  else if 0x1000 ≤ a ∧ a < 0x2000 then some (rwCell a 0xFFFFFFFF)
  else if 0x10000 ≤ a ∧ a < 0x20000 then oscReg ((a - 0x10000) / 0x1000) (a % 0x1000)
  else if 0x100000 ≤ a ∧ a < 0x120000 then
    some (bankReg ((a - 0x100000) / 0x2000) (decide (a / 0x1000 % 2 = 1)) a)
  else if 0x200000 ≤ a ∧ a < 0x220000 then
    some (bankReg ((a - 0x200000) / 0x2000) (decide (a / 0x1000 % 2 = 1)) a)
  else if 0x1000000 ≤ a ∧ a < 0x2000000 then noteRegion ((a - 0x1000000) / 0x100000) (a % 0x100000) a
  else if 0x2000000 ≤ a ∧ a < 0x2000800 then some (roCell a)
  else none

/-! ## One access (R94 to R101) -/

/-- The registers HOST may read while BUSY = 1 (R100). -/
def busyReadable (a : Nat) : Bool :=
  a < 0x30 || a = 0x44 || a = 0x48 || a = 0x4C || a = 0x50 || a = 0x54 || a = 0x58 || a = 0x60 || a = 0x64 ||
    a = 0x74 || a = 0x78 || a = 0x7C || a = 0xA0

/-- The registers HOST may write while BUSY = 1 (R100). -/
def busyWritable (a : Nat) : Bool := a = 0x4C || a = 0x5C || a = 0x60 || a = 0x64 || a = 0x7C || a = 0xA0

/-- Read data, as HOST sees it. -/
def State.give (s : State) (w : Word) : State := { s with rdata := w }

/-- Unspecified read data (R72, R94, R98, R100; U2 to U4): a free value, fresh for each such read. -/
def State.giveUnspecified (s : State) : State := { s with rdata := Config.busWord s.busReads, busReads := s.busReads + 1 }

/-- Why an access is refused, if it is, before the cell's own access right is looked at: wrong width (R94),
misaligned (R95), busy (R100), unmapped (R98), in this order (R96, R97). R96 and R97 order 32-bit accesses only: that a
wrong width is refused by R94 before R100 is asked, so that it sets BUSERR alone also while BUSY = 1, is the model's
choice (log entry 19, DESIGN CHOICE). -/
def refusal (w : Width) (a : Nat) (allowed : Bool) (s : State) : Option ErrBit :=
  if w ≠ .w32 then some .busErr
  else if a % 4 ≠ 0 then some .busErr
  else if s.status.busy && !allowed then some .busyAcc
  else if (locate a).isNone then some .busErr
  else none

/-- `MemRead` (R96). -/
def hostRead (w : Width) (a : Nat) (s : State) : State :=
  match refusal w a (busyReadable a) s, locate a with
  | some e, _ => (s.setErr e).giveUnspecified
  | none, none => s
  | none, some g =>
    match g.read s with
    | some v => s.give v
    | none => s.giveUnspecified

/-- `MemWrite` (R97, R99). -/
def hostWrite (w : Width) (a : Nat) (v : Word) (s : State) : State :=
  match refusal w a (busyWritable a) s, locate a with
  | some e, _ => s.setErr e
  | none, none => s
  | none, some g => if g.access = .ro then s.setErr .busErr else g.write v s

/-- One HOST access. -/
def hostStep (x : HostAccess) (s : State) : State :=
  match x with
  | .read w a => hostRead w a.toNat s
  | .write w a v => hostWrite w a.toNat v s

end Sys2Proof.Machine
end

