-- ==== Sys2Proof/Machine/Mix.lean ====
section
/-! DEFINITION. The master mix (spec/45_mix.md R390 to R393): MIX.ALL and MIX.CLEAR. -/

namespace Sys2Proof.Machine

/-- The notes a mask selects (R391). -/
def selectedNotes (mask : BitVec 16) : List Nat := (List.range 16).filter fun n => mask.getLsbD n

/-- The mix of the selected buffers: exact sums, saturated once (R390, R391). -/
def mixBuffers (bs : List (List Int)) : Sat (List Int) :=
  mapSat (fun i => sat32 (bs.map fun b => b.getD i 0).sum) (List.range 256)

/-- Record what MIX.ALL reads. -/
def touchNotes (ns : List Nat) (s : State) : State :=
  ns.foldl (fun t n => (t.touch (outlAddr n) 256).touch (outrAddr n) 256) s

/-- MIX.ALL's effect (R391). -/
def mixAll (mask : BitVec 16) (s : State) : State :=
  let ns := selectedNotes mask
  let l := mixBuffers (ns.map fun n => s.signedCells (outlAddr n) 256)
  let r := mixBuffers (ns.map fun n => s.signedCells (outrAddr n) 256)
  (((touchNotes ns s).noteSat (l.sat || r.sat)).setSignedCells mixlAddr l.val).setSignedCells mixrAddr r.val

/-- MIX.ALL mask (R391). -/
def execMixAll (mask : BitVec 16) (s : State) : Result := ranged true (mixAll mask) s

/-- MIX.CLEAR's effect (R392). -/
def mixClear (s : State) : State := (s.setSignedCells mixlAddr (zeros 256)).setSignedCells mixrAddr (zeros 256)

/-- MIX.CLEAR (R392). -/
def execMixClear (s : State) : Result := ranged true mixClear s

end Sys2Proof.Machine
end

