-- ==== Sys2Proof/Machine/Oscillator.lean ====
section
/-! DEFINITION. The spectral oscillator (spec/41_oscillator.md): the prepare pipeline R173 to R199, SyncPrepare R187,
OSC.PREPARE R186, OSC.GET R188 to R202. -/

namespace Sys2Proof.Machine

/-! ## Spectra -/

/-- Both results of a pair. -/
def pairSat (a b : Sat Int) : Sat (Int × Int) := a.bind fun x => b.map fun y => (x, y)

/-- `mag(k)` of a bin (R171). -/
def mag (c : Int × Int) : Nat := isqrt (c.1 * c.1 + c.2 * c.2).toNat

/-- Change bins 1..511 and keep bin 0. -/
def mapBins (S : Spectrum) (f : Nat → Int × Int → Sat (Int × Int)) : Sat Spectrum :=
  mapSat (fun k => if k = 0 then .ok (S.bin 0) else f k (S.bin k)) (List.range Config.HB)

/-- Bin 0 <- (0, 0), and every bin above `keep` <- (0, 0). -/
def cutAbove (S : Spectrum) (keep : Nat) : Spectrum :=
  (List.range Config.HB).map fun k => if 1 ≤ k ∧ k ≤ keep then S.bin k else (0, 0)

/-- Bin 0 <- (0, 0). -/
def zeroDC (S : Spectrum) : Spectrum := cutAbove S 511

/-- Multiply bin k by a real gain. -/
def scaleBin (c : Int × Int) (g : Int) : Sat (Int × Int) := pairSat (qmul c.1 g) (qmul c.2 g)

/-- Divide bin k by a magnitude, to Q8.24 with target 1.0 (R198). -/
def divBin (c : Int × Int) (d : Nat) : Sat (Int × Int) :=
  pairSat (sat32 (fdiv (c.1 * Config.ONE) d)) (sat32 (fdiv (c.2 * Config.ONE) d))

/-- Rotate a bin by `a` table steps, with saturation (R193). -/
def rotateBin (c : Int × Int) (a : Nat) : Sat (Int × Int) :=
  pairSat (sat32 (fdiv (c.1 * cosRom a + c.2 * sinRom a + 8388608) 16777216))
    (sat32 (fdiv (c.2 * cosRom a - c.1 * sinRom a + 8388608) 16777216))

/-- The numbers of the bins that carry content: 1..511. -/
def binNumbers : List Nat := (List.range 511).map (· + 1)

/-- `Normalise(S, SUM)` (R198). -/
def normaliseSum (S : Spectrum) : Sat Spectrum :=
  let d := (binNumbers.map fun k => mag (S.bin k)).sum
  if d = 0 then .ok S else mapBins S fun _ c => divBin c d

/-- `Normalise(S, RMS)` (R198). -/
def normaliseRms (S : Spectrum) : Sat Spectrum :=
  let p := (binNumbers.map fun k => (S.bin k).1 * (S.bin k).1 + (S.bin k).2 * (S.bin k).2).sum
  let r := isqrt p.toNat
  if r = 0 then .ok S else mapBins S fun _ c => divBin c r

/-! ## The prepare pipeline (R173 to R199) -/

/-- MAGTYPE after validation (R173). -/
def OscCfg.magtypeEff (c : OscCfg) : Nat := if 4 < c.magtype.toNat then 0 else c.magtype.toNat
/-- SATYPE after validation (R173). -/
def OscCfg.satypeEff (c : OscCfg) : Nat := if c.satype.toNat = 3 then 0 else c.satype.toNat
/-- NORMMODE after validation (R173). -/
def OscCfg.normmodeEff (c : OscCfg) : Nat := if c.normmode.toNat = 3 then 0 else c.normmode.toNat
/-- RANDMODE after validation (R173). -/
def OscCfg.randmodeEff (c : OscCfg) : Nat := if c.randmode.toNat = 3 then 0 else c.randmode.toNat
/-- AMPRANDTYPE after validation (R173). -/
def OscCfg.amprandtypeEff (c : OscCfg) : Nat := if c.amprandtype.toNat = 3 then 0 else c.amprandtype.toNat

/-- The stage ids of STAGEORDER, position 0 first (R180). -/
def OscCfg.stageIds (c : OscCfg) : List Nat :=
  [c.stageorder.toNat % 4, c.stageorder.toNat / 4 % 4, c.stageorder.toNat / 16 % 4, c.stageorder.toNat / 64 % 4]

/-- The order applied: the default 0, 1, 2, 3 unless the four ids are a permutation (R180). -/
def OscCfg.stageOrder (c : OscCfg) : List Nat := if c.stageIds.Nodup then c.stageIds else [0, 1, 2, 3]

/-- Whether the prepare pipeline replaces a selector or the stage order, which sets ERR.CFG (R173, R180). -/
def OscCfg.prepareBad (c : OscCfg) : Bool :=
  4 < c.magtype.toNat || c.satype.toNat = 3 || c.normmode.toNat = 3 || c.randmode.toNat = 3 ||
    c.amprandtype.toNat = 3 || !decide c.stageIds.Nodup

/-- Whether OSC.GET replaces a selector it reads, which sets ERR.CFG (R173, R188). -/
def OscCfg.getBad (c : OscCfg) : Bool :=
  c.normmode.toNat = 3 || c.randmode.toNat = 3 || c.amprandtype.toNat = 3

/-- The seven-bit codes of a harmonic table column (R52). -/
def codes (ws : List Word) : List Nat := ws.map fun w => w.toNat % 128

/-- The phase offset `A_i` in table-index units (R174). -/
def phaseOffset (code : Nat) : Nat := ((((code : Int) - 64) * 8) % 1024).toNat

/-- Bin k of the composite spectrum for the sine base (R178). -/
def sineBin (magtype : Nat) (hmag hphase : List Nat) (k : Nat) : Sat (Int × Int) :=
  let m := hmag.getD (k - 1) 64
  let a := phaseOffset (hphase.getD (k - 1) 64)
  if k = 0 ∨ Config.N_HARM < k ∨ m = 64 then .ok (0, 0)
  else pairSat (qmul (magMap magtype m) (sinRom a)) (qmul (magMap magtype m) (cosRom a))

/-- What harmonic h adds to composite bin h·j from base bin j (R179). -/
def harmonicTerm (magtype : Nat) (hmag hphase : List Nat) (base : Spectrum) (h j : Nat) : Sat (Int × Int) :=
  let ang := j * phaseOffset (hphase.getD (h - 1) 64) % 1024
  let b := base.bin j
  let m := magMap magtype (hmag.getD (h - 1) 64)
  pairSat (qmul m (fdiv (b.1 * cosRom ang + b.2 * sinRom ang + 8388608) 16777216))
    (qmul m (fdiv (b.2 * cosRom ang - b.1 * sinRom ang + 8388608) 16777216))

/-- Bin k of the composite spectrum for a general base: the sum over the enabled harmonics h that divide k, with
base bin k / h, saturated once (R179). -/
def generalBin (magtype : Nat) (hmag hphase : List Nat) (base : Spectrum) (k : Nat) : Sat (Int × Int) :=
  let hs := ((List.range Config.N_HARM).map (· + 1)).filter fun h => k % h = 0 && hmag.getD (h - 1) 64 != 64
  if k = 0 then .ok (0, 0)
  else (mapSat (fun h => harmonicTerm magtype hmag hphase base h (k / h)) hs).bind fun ts =>
    pairSat (sat32 (ts.map (·.1)).sum) (sat32 (ts.map (·.2)).sum)

/-- The composite spectrum (R177 to R179). -/
def composite (c : OscCfg) (hmag hphase : List Nat) : Sat Spectrum :=
  if c.basefunc.toNat = 0 then mapSat (sineBin c.magtypeEff hmag hphase) (List.range Config.HB)
  else
    let base := fwdT ((List.range Config.L).map (baseFunc c.basefunc.toNat c.basepar.toNat))
    mapSat (generalBin c.magtypeEff hmag hphase base) (List.range Config.HB)

/-- Waveshaping stage (R181). -/
def waveshapeStage (c : OscCfg) (S : Spectrum) : Spectrum :=
  if c.wstype.toNat = 0 then S else fwdT ((invT S).map (waveshape c.wstype.toNat c.wspar.toNat))

/-- Spectral filter stage (R182). -/
def specFilterStage (c : OscCfg) (S : Spectrum) : Sat Spectrum :=
  if c.sftype.toNat = 0 then .ok S
  else mapBins S fun k b => scaleBin b (specFilterGain c.sftype.toNat c.sfpar1.toNat c.sfpar2.toNat k)

/-- Spectrum-adjust stage (R183). -/
def specAdjustStage (c : OscCfg) (S : Spectrum) : Sat Spectrum :=
  if c.satypeEff = 0 then .ok S
  else mapBins S fun _ b =>
    if mag b = 0 then .ok b
    else
      let nm := specAdjust c.satypeEff c.sapar.toNat (mag b)
      pairSat (sat32 (fdiv (b.1 * nm) (mag b))) (sat32 (fdiv (b.2 * nm) (mag b)))

/-- Bin k of the shifted spectrum (R184). -/
def shiftedBin (S : Spectrum) (h : Int) (k : Nat) : Int × Int :=
  let src := (k : Int) - h
  if k = 0 then (0, 0)
  else if 1 ≤ src ∧ src ≤ 511 then S.bin src.toNat
  else if Config.shiftWrap then S.bin (1 + (src - 1) % 511).toNat
  else (0, 0)

/-- Harmonic-shift stage (R184). -/
def shiftStage (c : OscCfg) (S : Spectrum) : Spectrum :=
  if c.hshift.toInt = 0 then S else (List.range Config.HB).map (shiftedBin S c.hshift.toInt)

/-- The stage with an id (R180). -/
def stage (c : OscCfg) (id : Nat) (S : Spectrum) : Sat Spectrum :=
  if id = 0 then .ok (waveshapeStage c S)
  else if id = 1 then specFilterStage c S
  else if id = 2 then specAdjustStage c S
  else .ok (shiftStage c S)

/-- The four stages in the configured order (R180). -/
def stages (c : OscCfg) (S : Spectrum) : Sat Spectrum :=
  c.stageOrder.foldl (fun acc id => acc.bind (stage c id)) (.ok S)

/-- Adaptive-harmonics remap (R185). -/
def adaptiveStage (c : OscCfg) (S : Spectrum) : Spectrum :=
  if c.adapt.toNat = 0 then S else zeroDC (adaptive S c.adapt.toNat c.adaptpar.toNat)

/-- Steps (1) to (6) of PrepareFn (R199). -/
def prepareSpectrum (c : OscCfg) (hmag hphase : List Nat) : Sat Spectrum :=
  (composite c hmag hphase).bind fun S0 => (stages c S0).bind fun S1 =>
    (if c.normmodeEff = 0 then normaliseSum (adaptiveStage c S1) else normaliseRms (adaptiveStage c S1)).map zeroDC

/-- The cells of a spectrum bank: C at +8k, S at +8k+4 (R54). -/
def spectrumWords (S : Spectrum) : List Word := S.flatMap fun c => [toWord c.1, toWord c.2]

/-- A spectrum from the words of a bank (R54). -/
def spectrumOfWords (ws : List Word) : Spectrum :=
  (List.range Config.HB).map fun k => ((ws.getD (2 * k) 0).toInt, (ws.getD (2 * k + 1) 0).toInt)

/-! ## SyncPrepare and OSC.PREPARE -/

/-- Fill a bank with a spectrum and its waveform. -/
def writeBank (o : Nat) (b : Bool) (S : Spectrum) (s : State) : State :=
  (s.setCells (specAddr o b) (spectrumWords S)).setSignedCells (waveAddr o b) (invT S)

/-- `SyncPrepare(o)` (R187): PrepareFn of the current configuration into the shadow bank, then publication. -/
def syncPrepare (o : Nat) (s : State) : State :=
  let x := s.osc o
  let S := prepareSpectrum x.cfg (codes (s.cells (hmagAddr o) 128)) (codes (s.cells (hphaseAddr o) 128))
  (writeBank o (!x.pubsel) S.val
    (((s.touch (hmagAddr o) 256).setErrIf x.cfg.prepareBad .cfg).noteSat S.sat)).setOsc o
      { x with pubsel := !x.pubsel, valid := true, pubver := x.cfgver, dirty := false }

/-- OSC.PREPARE's effect (R186). -/
def oscPrepare (o : Nat) (s : State) : State :=
  if !(s.osc o).dirty then s.setRes0 0
  else if (s.osc o).job.isSome then s.setRes0 2
  else (syncPrepare o s).setRes0 1

/-- OSC.PREPARE o (R186). -/
def execOscPrepare (o : Byte) (s : State) : Result := ranged (oscIndexOk o) (oscPrepare (index o)) s

/-! ## OSC.GET -/

/-- The number of kept bins at a clamped frequency (R192). -/
def keepBins (f : Nat) : Nat := min 511 (Config.FREQ_MAX / f)

/-- Per-harmonic phase randomisation: one draw for each of the bins 1..keep, in ascending order (R193). -/
def randomisePhase (depth keep : Nat) (rng : Word) (S : Spectrum) : Sat Spectrum :=
  let draws := rngDraws keep rng
  mapBins S fun k c =>
    if k ≤ keep then rotateBin c (rngIndex (draws.getD (k - 1) 0) * depth / 128) else .ok c

/-- Per-harmonic amplitude randomisation (R194): type 1 draws once per bin, type 2 once in all. -/
def randomiseAmp (type power keep : Nat) (rng : Word) (S : Spectrum) : Sat Spectrum :=
  let draws := rngDraws (if type = 1 then keep else 1) rng
  mapBins S fun k c =>
    if k ≤ keep then
      scaleBin c (ampRand type power k (rngR31 (draws.getD (if type = 1 then k - 1 else 0) 0)))
    else .ok c

/-- The spectrum OSC.GET transforms when anti-aliasing is enabled (R188 step 3). -/
def getSpectrum (c : OscCfg) (ctl : Ctl) (useres : Bool) (f : Nat) (rng : Word) (S : Spectrum) : Sat Spectrum :=
  let keep := keepBins f
  let s0 := cutAbove S keep
  let s1 := if useres then cutAbove (resonance s0 f ctl.rescenter.toInt ctl.resbw.toInt) keep else s0
  let s2 := if c.randmodeEff = 2 then randomisePhase c.randdepth.toNat keep rng s1 else .ok s1
  let rng2 := if c.randmodeEff = 2 then rngAfter keep rng else rng
  s2.bind fun t2 =>
    (if c.amprandtypeEff = 0 then .ok t2
      else randomiseAmp c.amprandtypeEff c.amprandpower.toNat keep rng2 t2).bind fun t3 =>
        if c.normmodeEff = 2 then normaliseRms t3 else .ok t3

/-- How many draws the randomisations of R193 and R194 take. -/
def getDraws (c : OscCfg) (keep : Nat) : Nat :=
  (if c.randmodeEff = 2 then keep else 0) +
    (if c.amprandtypeEff = 0 then 0 else if c.amprandtypeEff = 1 then keep else 1)

/-- The start offset of R196, from the generator state after its draw. -/
def startOffset (c : OscCfg) (rng : Word) : Nat :=
  if c.randmodeEff = 1 then rngIndex (rngNext rng) * c.randdepth.toNat / 128 else 0

/-- What OSC.GET leaves: the state without RES0 and RES1, the start offset and KEEP. -/
structure GetOut where
  st : State
  off : Nat
  keep : Nat

/-- Table selection (R189): prepare when dirty and no job runs. -/
def tableSelect (o : Nat) (s : State) : State :=
  if (s.osc o).dirty && (s.osc o).job.isNone then syncPrepare o s else s

/-- RNG[n] <- r. -/
def State.setRng (s : State) (n : Nat) (r : Word) : State := s.modNote n fun x => { x with rng := r }

/-- Delivery with anti-aliasing disabled: a copy of the published waveform (R190). -/
def getCopy (o n v : Nat) (sel : Bool) (s : State) : State :=
  let a := waveAddr o (s.osc o).pubsel
  (s.touch a 1024).setCells (vwaveAddr n v sel) (s.cells a 1024)

/-- Delivery with anti-aliasing enabled (R188 step 3, R192 to R201). -/
def getAntiAliased (o n v : Nat) (sel useres : Bool) (f : Nat) (s : State) : State :=
  let c := (s.osc o).cfg
  let a := specAddr o (s.osc o).pubsel
  let rng := (s.note n).rng
  let S := getSpectrum c s.ctl useres f rng (spectrumOfWords (s.cells a 1024))
  (((s.touch a 1024).noteSat S.sat).setSignedCells (vwaveAddr n v sel) (invT S.val)).setRng n
    (rngAfter (getDraws c (keepBins f)) rng)

/-- Steps 2 to 4 of OSC.GET, once a table is published (R188, R190, R191, R196). -/
def getFromTable (o n v : Nat) (sel useres : Bool) (freq : Nat) (s : State) : GetOut :=
  let c := (s.osc o).cfg
  let f := max freq Config.FREQ_MIN
  let s1 := (s.setErrIf c.getBad .cfg).setErrIf (freq < Config.FREQ_MIN) .clamp
  let s2 := if c.aa = 0 then getCopy o n v sel s1 else getAntiAliased o n v sel useres f s1
  let rng := (s2.note n).rng
  { st := if c.randmodeEff = 1 then s2.setRng n (rngNext rng) else s2
    off := startOffset c rng
    keep := if c.aa = 0 then 511 else keepBins f }

/-- `OscGet(o, n, v, sel, useres, freq)` (R188, R189). -/
def oscGet (o n v : Nat) (sel useres : Bool) (freq : Nat) (s : State) : GetOut :=
  let s1 := tableSelect o s
  if (s1.osc o).valid then getFromTable o n v sel useres freq s1
  else ⟨(s1.setSignedCells (vwaveAddr n v sel) (zeros 1024)).setErr .noTable, 0, 0⟩

/-- OSC.GET's effect (R188). -/
def oscGetCmd (o n v : Nat) (sel useres : Bool) (freq : Nat) (s : State) : State :=
  let r := oscGet o n v sel useres freq s
  r.st.setRes (BitVec.ofNat 32 r.off) (BitVec.ofNat 32 r.keep)

/-- OSC.GET o, n, v, sel, useres, freq (R188). -/
def execOscGet (o n : Byte) (v : BitVec 3) (sel useres : Bool) (freq : Word) (s : State) : Result :=
  ranged (oscIndexOk o && noteIndexOk n && voiceIndexOk v)
    (oscGetCmd (index o) (index n) (index v) sel useres (freqOperand freq)) s

end Sys2Proof.Machine
end

