-- ==== Sys2Proof/Machine/Note.lean ====
section
/-! DEFINITION. The note commands (spec/44_voice_note.md): NOTE.INIT R311 to R318, NOTE.OUT R320 to R357 with the
legato machine R361 to R367, NOTE.LEGATO R360, and the control commands R370 to R375. -/

namespace Sys2Proof.Machine

/-- NSTAT.ACTIVE of note `n`. -/
def State.active (s : State) (n : Nat) : Bool := (s.note n).nstat.active

/-! ## NOTE.INIT -/

/-- The note registers after construction (R312). -/
def Note.construct (x : Note) : Note :=
  { x with
    nstat := ⟨true, false, false, true, false⟩
    legstate := .normal
    silent := x.nctrl.getLsbD 0
    legcount := 0
    legpitch := x.log2freq
    legvel := x.velocity
    gampold := 0
    gampnew := 0 }

/-- EnvReset and LfoReset of three consecutive slots, in the order of R311 and R312. -/
def resetSlots (n base : Nat) (s : State) : State :=
  (List.range 3).foldl (fun t k => lfoReset n (base + k) (envReset n (base + k) t)) s

/-- Note-level initialisation (R312). -/
def noteConstruct (n : Nat) (s : State) : State :=
  cleanup n 1 (cleanup n 0 (resetSlots n 0 (s.modNote n Note.construct)))

/-- The topology of voice `v` after validation (R314): 0 unless the code and the external modulator are admissible. -/
def validTopology (x : Note) (v : Nat) (y : Voice) : Nat :=
  if 4 < y.ctrlTopo then 0
  else if y.ctrlTopo ≠ 0 ∧ y.ctrlModext ∧
      (v ≤ y.modvoice ∨ (x.voice y.modvoice).created = false ∨ (x.voice y.modvoice).dest = false) then 0
  else y.ctrlTopo

/-- The unison size after validation (R315). -/
def validUnison (u : BitVec 6) : BitVec 6 := if u = 0 then 1 else if 50 < u.toNat then 50 else u

/-- A voice is taken from the budget (R313). -/
def takeVoice (n v : Nat) (s : State) : State :=
  { s with nvoices := s.nvoices + 1 }.modVoice n v fun y => { y with created := true, first := true, finished := false }

/-- Topology and unison validation, latched into TOPOEFF and USIZE (R314, R315). -/
def latchVoice (n v : Nat) (s : State) : State :=
  let y := s.voice n v
  let t := validTopology (s.note n) v y
  (s.setErrIf (t != y.ctrlTopo || validUnison y.unisize != y.unisize) .cfg).setVoice n v
    { y with topo := BitVec.ofNat 3 t, modext := y.ctrlModext, usize := validUnison y.unisize }

/-- The sub-voices' start indices (R316): the carrier offset, then one draw each. -/
def startIndices (off cnt : Nat) (rng : Word) : List Nat :=
  (off % 1024) :: (rngDraws (cnt - 1) rng).map fun r => (off + rngIndex r) % 1024

/-- Carrier waveform and phases (R316). -/
def initCarrier (n v : Nat) (s : State) : State :=
  let x := s.note n
  let y := s.voice n v
  let p := sat32 (x.log2freq.toInt + y.detune.toInt)
  let g := oscGet y.carrier n v false y.useres (exp2 p.val) (s.noteSat p.sat)
  let rng := (g.st.note n).rng
  ((g.st.setRng n (rngAfter (y.usize.toNat - 1) rng)).setPhases n v .phhi .phlo
    ((startIndices g.off y.usize.toNat rng).map (· * 16777216))).setPhases n v .fmihi .fmilo
      (List.replicate y.usize.toNat 0)

/-- Modulator waveform and phases, where the voice has its own modulator oscillator (R317). -/
def initModulator (n v : Nat) (s : State) : State :=
  let x := s.note n
  let y := s.voice n v
  if y.topo = 0 ∨ y.modext then s
  else
    let p := sat32 (x.log2freq.toInt + y.detune.toInt + y.moddetune.toInt)
    let g := oscGet y.modulator n v true false (exp2 p.val) (s.noteSat p.sat)
    g.st.setPhases n v .phmhi .phmlo ((List.range y.usize.toNat).map fun k =>
      (g.off + g.st.phase n v k .phhi .phlo / 16777216) % 1024 * 16777216)

/-- The first ratios of a voice (R311): RBASE is read only for a unison of more than one. -/
def initRatios (n v : Nat) (s : State) : State :=
  let y := s.voice n v
  if y.usize = 1 then s.setUni n v .ratio [0x01000000]
  else
    (s.touchUni n v y.usize.toNat .rbase).setUni n v .ratio
      ((List.range y.usize.toNat).map fun k => s.cell (uniAddr n v k + UniField.rbase.offset))

/-- The amplitudes a created voice starts from (R311). -/
def Voice.startAmps (y : Voice) : Voice := { y with vampold := 0, vampnew := 0, modampold := y.modamp }

/-- What NOTE.INIT does to a voice it creates, in the order of R311. -/
def constructVoice (n v : Nat) (s : State) : State :=
  let s1 := resetSlots n (3 + 3 * v) (latchVoice n v (takeVoice n v s))
  let s2 := cleanup n (3 + 2 * v) (cleanup n (2 + 2 * v) s1)
  initRatios n v ((initModulator n v (initCarrier n v s2)).modVoice n v Voice.startAmps)

/-- The loop of R311: the state, and the voices created and dropped so far. -/
structure InitAcc where
  st : State
  created : Nat
  dropped : Nat

/-- VSTAT <- 0 (R311). -/
def Voice.vacate (y : Voice) : Voice := { y with created := false, finished := false, first := false }

/-- Whether the budget is exhausted (R313). -/
def State.budgetFull (s : State) : Bool := min s.voiceCap.toNat 128 ≤ s.nvoices.toNat

/-- Voice v in the loop of R311. A disabled or dropped voice keeps its filters as they are, as R311 and R313 have it
and R477 and R319 agree; R292's "every filter instance of the note" is read as those of the voices created, beside the
global pair (log entry 20, DEDUCED). -/
def initVoice (n : Nat) (acc : InitAcc) (v : Nat) : InitAcc :=
  let s := acc.st.modVoice n v Voice.vacate
  if !(s.voice n v).enabled then { acc with st := s }
  else if s.budgetFull then ⟨s.setErr .alloc, acc.created, acc.dropped + 1⟩
  else ⟨constructVoice n v s, acc.created + 1, acc.dropped⟩

/-- The loop of R311 over the voices in ascending order. -/
def initVoices (n : Nat) (s : State) : InitAcc := (List.range 8).foldl (initVoice n) ⟨noteConstruct n s, 0, 0⟩

/-- NOTE.INIT's effect (R311). -/
def noteInit (n : Nat) (s : State) : State :=
  let r := initVoices n s
  r.st.setRes (BitVec.ofNat 32 r.created) (BitVec.ofNat 32 r.dropped)

/-- NOTE.INIT n (R311). -/
def execNoteInit (n : Byte) (s : State) : Result :=
  guarded (noteIndexOk n) (!s.active (index n)) .slotBusy (noteInit (index n)) s

/-! ## The legato machine (R361 to R367) -/

/-- LEGSTAT.STATE, LEGSTAT.SILENT and LEGCOUNT, and whether the re-trigger of R363 has happened. -/
structure Legato where
  state : LegState
  silent : Bool
  count : Word
  fired : Bool

/-- The gain of a sample (R362). -/
def Legato.gain (x : Legato) : Int :=
  match x.state with
  | .normal => if x.silent then 0 else Config.ONE
  | .fadeIn => fdiv (Config.ONE * (220 - (x.count.toNat : Int))) 220
  | .fadeOut => fdiv (Config.ONE * x.count.toNat) 220
  | .catchUp => 0

/-- The machine after a sample (R362 to R365). -/
def Legato.next (x : Legato) : Legato :=
  match x.state with
  | .normal => x
  | .fadeIn => if x.count - 1 = 0 then { x with state := .normal, count := 0 } else { x with count := x.count - 1 }
  | .fadeOut =>
    if x.count - 1 = 0 then ⟨.catchUp, true, 220, true⟩ else { x with count := x.count - 1 }
  | .catchUp => if x.count - 1 = 0 then { x with state := .normal, count := 0 } else { x with count := x.count - 1 }

/-- The gains of `cnt` samples, in ascending order. -/
def Legato.gains : Nat → Legato → List Int
  | 0, _ => []
  | cnt + 1, x => x.gain :: Legato.gains cnt x.next

/-- The machine after `cnt` samples. -/
def Legato.after : Nat → Legato → Legato
  | 0, x => x
  | cnt + 1, x => Legato.after cnt x.next

/-- The machine of a note. -/
def Note.legato (x : Note) : Legato := ⟨x.legstate, x.silent, x.legcount, false⟩

/-- A note with its machine moved on; a re-trigger takes the pending pitch and velocity (R363). -/
def Note.withLegato (x : Note) (g : Legato) : Note :=
  { x with
    legstate := g.state
    silent := g.silent
    legcount := g.count
    log2freq := if g.fired then x.legpitch else x.log2freq
    velocity := if g.fired then x.legvel else x.velocity }

/-- NOTE.LEGATO's case analysis (R360); `vel` is the clamped velocity. -/
def Note.legatoEvent (x : Note) (pitch vel : Word) : Note :=
  match x.legstate with
  | .normal =>
    if x.silent then
      { x with log2freq := pitch, velocity := vel, legpitch := pitch, legvel := vel, silent := false,
               legstate := .fadeIn, legcount := 220 }
    else { x with legpitch := pitch, legvel := vel, legstate := .fadeOut, legcount := 220 }
  | .fadeOut => { x with legpitch := pitch, legvel := vel }
  | .catchUp => { x with log2freq := pitch, velocity := vel, legpitch := pitch, legvel := vel }
  | .fadeIn => { x with log2freq := pitch, velocity := vel, legpitch := pitch, legvel := vel }

/-- A velocity clamped to 0..ONE (R360, R372). -/
def clampVelocity (v : Word) : Word := toWord (clamp v.toInt 0 Config.ONE)

/-- NOTE.LEGATO's effect (R360). -/
def noteLegato (n : Nat) (pitch velocity : Word) (s : State) : State :=
  (s.setErrIf (clampVelocity velocity != velocity) .clamp).modNote n fun x => x.legatoEvent pitch (clampVelocity velocity)

/-- NOTE.LEGATO n, pitch, velocity (R360). -/
def execNoteLegato (n : Byte) (pitch velocity : Word) (s : State) : Result :=
  guarded (noteIndexOk n) (s.active (index n)) .noteInactive (noteLegato (index n) pitch velocity) s

/-! ## NOTE.OUT -/

/-- Store both channels of the note's output. -/
def State.setOut (s : State) (n : Nat) (l r : List Int) : State :=
  (s.setSignedCells (outlAddr n) l).setSignedCells (outrAddr n) r

/-- NOTE.OUT on an inactive slot (R321). -/
def noteSilence (n : Nat) (s : State) : State := (s.setOut n (zeros 256) (zeros 256)).setRes 0 0

/-- GAMPOLD and GAMPNEW (R336). -/
def noteAmp (n : Nat) (ga gal : Int) (s : State) : State :=
  let x := s.note n
  let b := qmul x.volume.toInt x.velocity.toInt
  let g := b.bind fun l => blockGain l ga gal
  (s.noteSat g.sat).setNote n
    { x with gampold := if x.nstat.first then toWord g.val else x.gampnew, gampnew := toWord g.val }

/-- What phase A hands on: the pitch offset, the global filter's frequency, and the state. -/
structure PhaseA where
  gpitch : Int
  gff : Nat
  st : State

/-- Phase A of NOTE.OUT (R320, R330, R331, R333, R336). -/
def phaseA (n : Nat) (s : State) : PhaseA :=
  let m := runSources n 0 s
  let x := m.st.note n
  let gp := globalPitch m.f m.fl m.st.ctl.modwheel
  let gf := sat32 (x.gfbase.toInt + x.cutoff.toInt + m.c + m.cl)
  ⟨gp.val, exp2 gf.val, noteAmp n m.a m.al (m.st.noteSat (gp.sat || gf.sat))⟩

/-- Phase B of NOTE.OUT: the voices in ascending order (R320). -/
def phaseB (n : Nat) (gpitch : Int) (s : State) : Sums :=
  (List.range 8).foldl (voiceBlock n gpitch) ⟨zeros 256, zeros 256, s⟩

/-- NL or NR from an accumulator (R320 phase C). -/
def noteSum (acc : List Int) : Sat (List Int) := mapSat (fun a => sat32 (fdiv (a + 8388608) 16777216)) acc

/-- The note's channels from the accumulators. -/
def noteChannels (b : Sums) : Stereo :=
  let l := noteSum b.l
  let r := noteSum b.r
  ⟨l.val, r.val, b.st.noteSat (l.sat || r.sat)⟩

/-- The global filter, where enabled (R351). -/
def globalFilter (n gff : Nat) (x : Stereo) : Stereo :=
  if (x.st.note n).gfen = 1 then Stereo.filter n 0 gff (x.st.note n).gfq.toInt x else x

/-- The note's amplitude (R351, R349). -/
def noteAmpApply (n : Nat) (x : Stereo) : Stereo :=
  x.scale (ampGain (x.st.note n).gampold.toInt (x.st.note n).gampnew.toInt)

/-- Panning (R351). -/
def notePan (n : Nat) (x : Stereo) : Stereo :=
  let y := x.st.note n
  let l := scaleBy (fun _ => y.panl.toInt) x.l
  let r := scaleBy (fun _ => y.panr.toInt) x.r
  ⟨l.val, r.val, x.st.noteSat (l.sat || r.sat)⟩

/-- The legato machine over the note's output (R362). -/
def noteLegatoApply (n : Nat) (x : Stereo) : Stereo :=
  let g := (x.st.note n).legato
  let y := x.scale fun i => (Legato.gains 256 g).getD i 0
  { y with st := y.st.modNote n fun z => z.withLegato (Legato.after 256 g) }

/-- Whether the note ends with this block (R353). -/
def Note.finishes (x : Note) : Bool :=
  (x.env 0).finished || x.nstat.killed || !(x.voices.toList.any fun y => y.created && !y.finished)

/-- Every voice of a finishing note is released (R353). -/
def Note.finish (x : Note) : Note :=
  { x with
    voices := x.voices.map fun y => { y with created := false }
    nstat := { x.nstat with active := false, finished := true } }

/-- The end of a finishing note: its voices go back to the budget (R353). -/
def finishNote (n : Nat) (x : Stereo) : State :=
  let y := x.scale fadeOutGain
  let z := y.st.setOut n y.l y.r
  { z with nvoices := z.nvoices - BitVec.ofNat 8 (z.note n).createdCount }.modNote n Note.finish

/-- Whether some voice above `v` still reads v's output (R354). -/
def Note.modulates (x : Note) (v : Nat) : Bool :=
  (List.range 8).any fun w =>
    v < w && (x.voice w).created && (x.voice w).topo != 0 && (x.voice w).modext && (x.voice w).modvoice == v

/-- Release of voice v of a note that goes on (R354). -/
def releaseVoice (n : Nat) (s : State) (v : Nat) : State :=
  let y := s.voice n v
  if y.created && y.finished && !(s.note n).modulates v then
    { s with nvoices := s.nvoices - 1 }.setVoice n v { y with created := false }
  else s

/-- Release of single voices, from 7 down to 0 (R354). -/
def releaseVoices (n : Nat) (s : State) : State := [7, 6, 5, 4, 3, 2, 1, 0].foldl (releaseVoice n) s

/-- Note finish and voice release; RES0 is whether the note goes on, RES1 the voices still created (R353, R354). -/
def noteEnd (n : Nat) (x : Stereo) : State :=
  if (x.st.note n).finishes then
    let s := finishNote n x
    s.setRes 0 (BitVec.ofNat 32 (s.note n).createdCount)
  else
    let s := releaseVoices n (x.st.setOut n x.l x.r)
    s.setRes 1 (BitVec.ofNat 32 (s.note n).createdCount)

/-- NSTAT.FIRST <- 0. -/
def Note.rendered (x : Note) : Note := { x with nstat := { x.nstat with first := false } }

/-- One block of an active note (R320). -/
def noteRender (n : Nat) (s : State) : State :=
  let a := phaseA n s
  let b := noteChannels (phaseB n a.gpitch a.st)
  (noteEnd n (noteLegatoApply n (notePan n (noteAmpApply n (globalFilter n a.gff b))))).modNote n Note.rendered

/-- NOTE.OUT's effect (R320, R321). -/
def noteOut (n : Nat) (s : State) : State := if s.active n then noteRender n s else noteSilence n s

/-- NOTE.OUT n (R320). -/
def execNoteOut (n : Byte) (s : State) : Result := ranged (noteIndexOk n) (noteOut (index n)) s

/-! ## Note control (R370 to R375) -/

/-- Every envelope released (R370). -/
def Note.release (x : Note) : Note :=
  { x with envs := x.envs.map Env.release, nstat := { x.nstat with released := true } }

/-- NOTE.RELEASE n (R370). -/
def execNoteRelease (n : Byte) (s : State) : Result :=
  guarded (noteIndexOk n) (s.active (index n)) .noteInactive (fun t => t.modNote (index n) Note.release) s

/-- Every configured envelope finished, the note marked (R371). -/
def Note.kill (x : Note) : Note :=
  { x with envs := x.envs.map Env.finish, nstat := { x.nstat with killed := true } }

/-- NOTE.KILL n (R371). -/
def execNoteKill (n : Byte) (s : State) : Result :=
  guarded (noteIndexOk n) (s.active (index n)) .noteInactive (fun t => t.modNote (index n) Note.kill) s

/-- NOTE.SETVEL's effect (R372). -/
def noteSetvel (n : Nat) (value : Word) (s : State) : State :=
  (s.setErrIf (clampVelocity value != value) .clamp).modNote n fun x => { x with velocity := clampVelocity value }

/-- NOTE.SETVEL n, value (R372). -/
def execNoteSetvel (n : Byte) (value : Word) (s : State) : Result :=
  ranged (noteIndexOk n) (noteSetvel (index n) value) s

/-- NOTE.SETPITCH's effect (R373). -/
def noteSetpitch (n : Nat) (value : Word) (s : State) : State := s.modNote n fun x => { x with log2freq := value }

/-- NOTE.SETPITCH n, value (R373). -/
def execNoteSetpitch (n : Byte) (value : Word) (s : State) : Result :=
  ranged (noteIndexOk n) (noteSetpitch (index n) value) s

/-- NOTE.SETCUT's effect (R374). -/
def noteSetcut (n : Nat) (value : Word) (s : State) : State := s.modNote n fun x => { x with cutoff := value }

/-- NOTE.SETCUT n, value (R374). -/
def execNoteSetcut (n : Byte) (value : Word) (s : State) : Result :=
  ranged (noteIndexOk n) (noteSetcut (index n) value) s

/-- NOTE.FIN's effect (R375). -/
def noteFin (n : Nat) (s : State) : State := s.setRes (if s.active n then 0 else 1) (s.note n).nstat.word

/-- NOTE.FIN n (R375). -/
def execNoteFin (n : Byte) (s : State) : Result := ranged (noteIndexOk n) (noteFin (index n)) s

end Sys2Proof.Machine
end

