-- ==== Sys2Proof/Machine/Regen.lean ====
section
/-! DEFINITION. Background regeneration (spec/41_oscillator.md R204 to R212): OSC.REGEN, OSC.CANCEL and the steps of
the REGEN agent. -/

namespace Sys2Proof.Machine

/-- The snapshot and start of a job (R204): OSC.REGEN reads all HMAG and HPHASE cells, so undef ones among them mark the
run (R72, R476); they are copied as they stand (log entry 11). -/
def startJob (o : Nat) (s : State) : State :=
  let x := s.osc o
  let j : Job :=
    { snapCfg := x.cfg, snapTable := s.mem.window (hmagAddr o) 1024, snapVer := x.cfgver, cancel := false,
      specDone := false, unitDone := [] }
  (s.touch (hmagAddr o) 256).setOsc o { x with job := some j }

/-- OSC.REGEN's effect (R204). -/
def oscRegen (o : Nat) (s : State) : State :=
  if (s.osc o).job.isSome then (s.setErr .regenRej).setRes0 0 else (startJob o s).setRes0 1

/-- OSC.REGEN o (R204). -/
def execOscRegen (o : Byte) (s : State) : Result := ranged (oscIndexOk o) (oscRegen (index o)) s

/-- OSC.CANCEL's effect (R212). -/
def oscCancel (o : Nat) (s : State) : State :=
  match (s.osc o).job with
  | none => s.setRes0 0
  | some j => (s.setOsc o { s.osc o with job := some { j with cancel := true } }).setRes0 1

/-- OSC.CANCEL o (R212). -/
def execOscCancel (o : Byte) (s : State) : Result := ranged (oscIndexOk o) (oscCancel (index o)) s

/-! ## Steps of a worker (R205) -/

/-- Put a sample index into UNITDONE, kept strictly rising. -/
def insertUnit (u : Nat) : List Nat → List Nat
  | [] => [u]
  | w :: ws => if u < w then u :: w :: ws else if u = w then w :: ws else w :: insertUnit u ws

/-- All L sample units are done (R210). -/
def Job.allDone (j : Job) : Bool := (List.range Config.L).all fun u => j.unitDone.contains u

/-- The snapshot's words of a harmonic table column; an undef one has a free value. -/
def Job.column (j : Job) (reads a : Nat) : List Word := (List.range 128).map fun i => cellOf j.snapTable reads (a + 4 * i)

/-- Cancellation observation (R208): the job ends, nothing is published, the shadow bank becomes undef. -/
def observeCancel (o : Nat) (s : State) : State :=
  let x := s.osc o
  (({ s with regenCanc := s.regenCanc ||| BitVec.twoPow 16 o }.eraseCells (specAddr o (!x.pubsel)) 1024).eraseCells
    (waveAddr o (!x.pubsel)) 1024).setOsc o { x with job := none } |>.pend .regenCanc

/-- Spectrum unit (R206): steps (1) to (6) of PrepareFn from the snapshot into the shadow bank. -/
def spectrumUnit (o : Nat) (j : Job) (s : State) : State :=
  let x := s.osc o
  let S := prepareSpectrum j.snapCfg (codes (j.column s.undefReads (hmagAddr o)))
    (codes (j.column s.undefReads (hphaseAddr o)))
  let undef := !definedIn j.snapTable (hmagAddr o) 256
  let s1 := { s with undefRead := s.undefRead || undef, undefReads := s.undefReads + undef.toNat }
  (((s1.setErrIf j.snapCfg.prepareBad .cfg).noteSat S.sat).setCells (specAddr o (!x.pubsel)) (spectrumWords S.val)).setOsc
    o { x with job := some { j with specDone := true } }

/-- Sample unit u (R207). -/
def sampleUnit (o u : Nat) (j : Job) (s : State) : State :=
  let x := s.osc o
  let a := specAddr o (!x.pubsel)
  let S := spectrumOfWords (s.cells a 1024)
  ((s.touch a 1024).setCell (waveAddr o (!x.pubsel) + 4 * u) (toWord (invTSample S u))).setOsc o
    { x with job := some { j with unitDone := insertUnit u j.unitDone } }

/-- Publication by a job (R210): in one step the shadow bank becomes the published one. -/
def publish (o : Nat) (j : Job) (s : State) : State :=
  let x := s.osc o
  ({ s with regenDone := s.regenDone ||| BitVec.twoPow 16 o }.setOsc o
    { x with pubsel := !x.pubsel, valid := true, pubver := j.snapVer, dirty := x.cfgver != j.snapVer, job := none }).pend
      .regenDone

/-- One step of a worker on oscillator o (R205): of the four kinds exactly one is enabled. `u` is the sample unit it
takes if sample units are enabled; where it is no open unit, or no job runs, there is no step and nothing changes. -/
def regenStep (o u : Nat) (s : State) : State :=
  match (s.osc o).job with
  | none => s
  | some j =>
    if j.cancel then observeCancel o s
    else if !j.specDone then spectrumUnit o j s
    else if j.allDone then publish o j s
    else if u < Config.L && !j.unitDone.contains u then sampleUnit o u j s
    else s

/-- The first open sample unit of a job. -/
def Job.nextUnit (j : Job) : Nat := ((List.range Config.L).find? fun u => !j.unitDone.contains u).getD 0

/-- The step of the lowest-numbered running job with its first open unit, if a job runs: what the workers do when the
agenda says nothing (one of the orders R205 allows). -/
def regenIdle (s : State) : State :=
  match (List.range Config.N_OSC).find? fun o => (s.osc o).job.isSome with
  | none => s
  | some o => regenStep o (((s.osc o).job.getD default).nextUnit) s

end Sys2Proof.Machine
end

