-- ==== Sys2Proof/Machine/Dispatch.lean ====
section
/-! DEFINITION. One arm per command: the meaning of each row of spec/opcode_table.json. -/

namespace Sys2Proof.Machine

/-- The meaning of a command whose operands the sequencer has decoded (R138 steps 3 to 5). -/
def exec (i : Instr) (s : State) : Host.Outcome State Fault Refusal :=
  match i with
  | .nop => Sys2Proof.Machine.execNop s
  | .halt => Sys2Proof.Machine.execHalt s
  | .oscPrepare o => Sys2Proof.Machine.execOscPrepare o s
  | .oscGet o n v sel useres freq => Sys2Proof.Machine.execOscGet o n v sel useres freq s
  | .oscRegen o => Sys2Proof.Machine.execOscRegen o s
  | .oscCancel o => Sys2Proof.Machine.execOscCancel o s
  | .envReset n k => Sys2Proof.Machine.execEnvReset n k s
  | .envOut n k => Sys2Proof.Machine.execEnvOut n k s
  | .envOutdb n k => Sys2Proof.Machine.execEnvOutdb n k s
  | .envRelease n k => Sys2Proof.Machine.execEnvRelease n k s
  | .envFinish n k => Sys2Proof.Machine.execEnvFinish n k s
  | .lfoReset n k => Sys2Proof.Machine.execLfoReset n k s
  | .lfoOut n k => Sys2Proof.Machine.execLfoOut n k s
  | .fltSetfreq n f freq => Sys2Proof.Machine.execFltSetfreq n f freq s
  | .fltSetfq n f freq q => Sys2Proof.Machine.execFltSetfq n f freq q s
  | .fltOut n f buf => Sys2Proof.Machine.execFltOut n f buf s
  | .fltCleanup n f => Sys2Proof.Machine.execFltCleanup n f s
  | .noteInit n => Sys2Proof.Machine.execNoteInit n s
  | .noteOut n => Sys2Proof.Machine.execNoteOut n s
  | .noteRelease n => Sys2Proof.Machine.execNoteRelease n s
  | .noteKill n => Sys2Proof.Machine.execNoteKill n s
  | .noteLegato n pitch velocity => Sys2Proof.Machine.execNoteLegato n pitch velocity s
  | .noteSetvel n value => Sys2Proof.Machine.execNoteSetvel n value s
  | .noteSetpitch n value => Sys2Proof.Machine.execNoteSetpitch n value s
  | .noteSetcut n value => Sys2Proof.Machine.execNoteSetcut n value s
  | .noteFin n => Sys2Proof.Machine.execNoteFin n s
  | .mixAll mask => Sys2Proof.Machine.execMixAll mask s
  | .mixClear => Sys2Proof.Machine.execMixClear s

end Sys2Proof.Machine
end

