-- ==== Sys2Proof/Machine/Sequencer.lean ====
section
/-! DEFINITION. The step of the sequencer (spec/40_system.md R161 to R163), the reset input
(spec/70_reset_and_hazards.md R470), and one turn of the total order of steps (spec/20_memory.md R110). -/

namespace Sys2Proof.Machine

/-- The address of the first word of the command at CPTR: word CPTR / 4 of command memory (R161). -/
def State.fetchAddr (s : State) : Nat := cmdAddr + s.cptr.toNat / 4 * 4

/-- The four words of the command at CPTR, if all of them have been written (R131, R161). -/
def State.fetch (s : State) : Option Words :=
  match s.mem.word? s.fetchAddr, s.mem.word? (s.fetchAddr + 4), s.mem.word? (s.fetchAddr + 8),
    s.mem.word? (s.fetchAddr + 12) with
  | some w0, some w1, some w2, some w3 => some ⟨w0, w1, w2, w3⟩
  | _, _, _, _ => none

/-- A fetched command: the latches are loaded, and the command is executed or refused as illegal (R138, R161). -/
def runWords (c : Words) (s : State) : Result :=
  match decode c with
  | .ok i => exec i (s.latch c)
  | .error _ => .next ((s.latch c).raiseCmd .illegalCommand)

/-- The step of SEQ while BUSY = 1 (R161, R163). -/
def seqStep (s : State) : Result :=
  if 0x1000 ≤ s.cptr.toNat then .next (s.raise .cmdPtr s.cptr 0)
  else
    match s.fetch with
    | some c => runWords c s
    | none => .fault .undefFetch

/-- The reset input (R470): every piece of the spec's state at its reset value; the model's own agenda, the numbering
of free values and the mark of a run outside the admitted behaviours go on. -/
def State.applyReset (s : State) : State :=
  { State.reset with
    turns := s.turns, busReads := s.busReads, undefReads := s.undefReads, undefRead := s.undefRead }

/-- One step of the agent whose turn it is (R110). A turn of an agent that has no step changes nothing. -/
def takeTurn (t : Turn) (s : State) : Result :=
  match t with
  | .seq => if s.status.busy then seqStep s else .next s
  | .host a => .next (hostStep a s)
  | .regen o u => .next (regenStep o u s)
  | .reset => .next s.applyReset

/-- What happens when the agenda says nothing: SEQ steps while BUSY = 1, otherwise the workers, if a job runs. -/
def defaultTurn (s : State) : Result := if s.status.busy then seqStep s else .next (regenIdle s)

/-- The four words of the command whose bits are `w`, stored at CPTR (at offset 0 if CPTR is past the end). -/
def State.placeCommand (s : State) (nbits w : Nat) : State :=
  let t := { s with cptr := if 0x1000 ≤ s.cptr.toNat then 0 else s.cptr }
  { t with mem := t.mem.splice t.fetchAddr (bytesOfWords (wordsOfNat nbits w)) }

end Sys2Proof.Machine
end

