-- ==== Sys2Proof/Machine/Step.lean ====
section
/-! DEFINITION. One step of the whole block (spec/20_memory.md R110), and the placing of one command where the next
step fetches it. -/

namespace Sys2Proof.Machine

/-- One step: the next turn of the agenda, or, when it is empty, the step of SEQ or of the workers. -/
def step (s : State) : Host.Outcome State Fault Refusal :=
  match s.turns with
  | [] => defaultTurn s
  | t :: ts => takeTurn t { s with turns := ts }

/-- `s` with the command whose bits are `w` in command memory at CPTR, the list running and SEQ next: it stands for
the HOST writes to CMDMEM and CMD_START that start a list (R111, R160). -/
def State.withFetchWord (s : State) (nbits w : Nat) : State :=
  { s.placeCommand nbits w with status := ⟨true, false, false⟩, turns := .seq :: s.turns }

end Sys2Proof.Machine
end

