-- ==== Sys2Proof/Safety.lean ====
section
/-! DEFINITION. The terms claims use: what a run inside the admitted behaviours is (spec/10_state.md R72), what a
command leaves as it was (frames), the invariants of the state, and the declared accuracy of the transform (R172 T5). -/

namespace Sys2Proof.Machine

/-! ## Admitted runs -/

/-- No command or work unit has read an undef cell (R72): outside this nothing is claimed of the hardware. -/
def Admitted (s : State) : Prop := s.undefRead = false

/-! ## Frames -/

/-- The registers that no command but HALT writes, and no command at all but by its fetch: latches, run flags, fault
registers, interrupt enables, voice cap, controllers, regeneration summaries; and the model's agenda and read data. -/
structure SameControl (s t : State) : Prop where
  latches : t.x0 = s.x0 ∧ t.x1 = s.x1 ∧ t.x2 = s.x2 ∧ t.x3 = s.x3
  status : t.status = s.status
  faults : t.faultCode = s.faultCode ∧ t.faultPtr = s.faultPtr ∧ t.faultInfo = s.faultInfo
  irqEn : t.irqEn = s.irqEn
  voiceCap : t.voiceCap = s.voiceCap
  ctl : t.ctl = s.ctl
  regen : t.regenDone = s.regenDone ∧ t.regenCanc = s.regenCanc
  agenda : t.turns = s.turns ∧ t.rdata = s.rdata ∧ t.busReads = s.busReads

/-- ERR gains at most the flags of `mask`, and IRQ_PEND gains ERR exactly when a flag rises (R46, R431). -/
structure FlagsWithin (mask : BitVec 8) (s t : State) : Prop where
  kept : s.err &&& t.err = s.err
  within : t.err &&& ~~~mask = s.err &&& ~~~mask
  pend : t.irqPend = if t.err = s.err then s.irqPend else s.irqPend ||| 4

/-- What stays when only the notes of `notes`, the oscillators of `oscs` and the bytes of `bytes` may change. -/
structure Outside (notes oscs bytes : Nat → Prop) (s t : State) : Prop where
  notes : ∀ n, ¬ notes n → t.note n = s.note n
  oscs : ∀ o, ¬ oscs o → t.osc o = s.osc o
  bytes : ∀ a, ¬ bytes a → t.mem.byte? a = s.mem.byte? a

/-- Nothing. -/
def nowhere : Nat → Prop := fun _ => False

/-- The bytes of `n` consecutive words from address `a` on. -/
def wordsAt (a n : Nat) : Nat → Prop := fun b => a ≤ b ∧ b < a + 4 * n

/-- The bytes of note slot `n`: everything from NB(n) to NB(n + 1) (R92). -/
def noteBytes (n : Nat) : Nat → Prop := fun b => noteBase n ≤ b ∧ b < noteBase n + 0x100000

/-- The bytes of the running fields of a voice's sub-voice records: RATIO, PH, PHM and FMI (R66). -/
def uniRunBytes (n v : Nat) : Nat → Prop := fun a => ∃ k, k < 64 ∧ wordsAt (uniAddr n v k + 0x14) 7 a

/-- The bytes of the vibrato state of a voice's sub-voice records: VIBPOS and VIBSTEP (R66). -/
def vibratoBytes (n v : Nat) : Nat → Prop := fun a => ∃ k, k < 64 ∧ wordsAt (uniAddr n v k + 0x04) 2 a

/-- What NOTE.OUT may store to: OUTL, OUTR, and of every voice VOUT and the fields of the sub-voice records that move
(R320). -/
def outBytes (n : Nat) : Nat → Prop := fun a =>
  wordsAt (outlAddr n) 512 a ∨
    ∃ v, v < 8 ∧ (uniRunBytes n v a ∨ vibratoBytes n v a ∨ wordsAt (voutAddr n v) 256 a)

/-- What NOTE.INIT may store to in its note slot: of every voice the running fields of the sub-voice records, VWAVEC and
VWAVEM (R311). -/
def initBytes (n : Nat) : Nat → Prop := fun a =>
  ∃ v, v < 8 ∧ (uniRunBytes n v a ∨ wordsAt (vwaveAddr n v false) 1024 a ∨ wordsAt (vwaveAddr n v true) 1024 a)

/-- The bytes of a bank of an oscillator: its spectrum and its waveform (R54, R55). -/
def bankBytes (o : Nat) (b : Bool) : Nat → Prop := fun a => wordsAt (specAddr o b) 1024 a ∨ wordsAt (waveAddr o b) 1024 a

/-- The oscillators that the enabled voices of a note name (R65). -/
def voiceOscs (s : State) (n : Nat) : Nat → Prop := fun o =>
  ∃ v, v < 8 ∧ (s.voice n v).enabled = true ∧ (o = (s.voice n v).carrier ∨ o = (s.voice n v).modulator)

/-- The note slots a command may change. -/
def footNotes : Instr → Nat → Prop
  | .nop | .halt | .oscPrepare _ | .oscRegen _ | .oscCancel _ | .noteFin _ | .mixAll _ | .mixClear => nowhere
  | .oscGet _ n _ _ _ _ | .envReset n _ | .envOut n _ | .envOutdb n _ | .envRelease n _ | .envFinish n _
  | .lfoReset n _ | .lfoOut n _ | .fltSetfreq n _ _ | .fltSetfq n _ _ _ | .fltOut n _ _ | .fltCleanup n _
  | .noteInit n | .noteOut n | .noteRelease n | .noteKill n | .noteLegato n _ _ | .noteSetvel n _
  | .noteSetpitch n _ | .noteSetcut n _ => fun m => m = n.toNat

/-- The oscillators a command may change. -/
def footOscs (s : State) : Instr → Nat → Prop
  | .oscPrepare o | .oscGet o _ _ _ _ _ | .oscRegen o | .oscCancel o => fun p => p = o.toNat
  | .noteInit n => voiceOscs s n.toNat
  | .nop | .halt | .envReset _ _ | .envOut _ _ | .envOutdb _ _ | .envRelease _ _ | .envFinish _ _ | .lfoReset _ _
  | .lfoOut _ _ | .fltSetfreq _ _ _ | .fltSetfq _ _ _ _ | .fltOut _ _ _ | .fltCleanup _ _ | .noteOut _
  | .noteRelease _ | .noteKill _ | .noteLegato _ _ _ | .noteSetvel _ _ | .noteSetpitch _ _ | .noteSetcut _ _
  | .noteFin _ | .mixAll _ | .mixClear => nowhere

/-- The bytes of memory a command may store to. -/
def footBytes (s : State) : Instr → Nat → Prop
  | .oscPrepare o => bankBytes o.toNat !(s.osc o.toNat).pubsel
  | .oscGet o n v sel _ _ => fun a =>
    bankBytes o.toNat (!(s.osc o.toNat).pubsel) a ∨ wordsAt (vwaveAddr n.toNat v.toNat sel) 1024 a
  | .fltOut n _ buf => wordsAt (bufferAddr n.toNat buf) 256
  | .noteInit n => fun a => initBytes n.toNat a ∨ ∃ o b, voiceOscs s n.toNat o ∧ bankBytes o b a
  | .noteOut n => outBytes n.toNat
  | .mixAll _ | .mixClear => wordsAt mixlAddr 512
  | .nop | .halt | .oscRegen _ | .oscCancel _ | .envReset _ _ | .envOut _ _ | .envOutdb _ _ | .envRelease _ _
  | .envFinish _ _ | .lfoReset _ _ | .lfoOut _ _ | .fltSetfreq _ _ _ | .fltSetfq _ _ _ _ | .fltCleanup _ _
  | .noteRelease _ | .noteKill _ | .noteLegato _ _ _ | .noteSetvel _ _ | .noteSetpitch _ _ | .noteSetcut _ _
  | .noteFin _ => nowhere

/-- The ERR flags a command may raise, as its rule lists them (bit positions of R46); ERR.SAT of ENV.OUT and ENV.OUTDB is
the model's reading of R14 against R236 and R242 (log entry 6, DEDUCED). -/
def footFlags : Instr → BitVec 8
  | .oscPrepare _ => 0x0A
  | .oscGet _ _ _ _ _ _ => 0x4E
  | .oscRegen _ => 0x80
  | .envReset _ _ => 0x06
  | .envOut _ _ | .envOutdb _ _ | .lfoOut _ _ | .fltOut _ _ _ | .mixAll _ => 0x08
  | .lfoReset _ _ | .fltCleanup _ _ => 0x02
  | .fltSetfreq _ _ _ | .fltSetfq _ _ _ _ => 0x06
  | .noteInit _ => 0x4F
  | .noteOut _ => 0x0E
  | .noteLegato _ _ _ | .noteSetvel _ _ => 0x04
  | .nop | .halt | .oscCancel _ | .envRelease _ _ | .envFinish _ _ | .noteRelease _
  | .noteKill _ | .noteSetpitch _ _ | .noteSetcut _ _ | .noteFin _ | .mixClear => 0

/-- Whether a command writes RES0. -/
def writesRes0 : Instr → Bool
  | .oscPrepare _ | .oscGet _ _ _ _ _ _ | .oscRegen _ | .oscCancel _ | .envOut _ _ | .envOutdb _ _ | .lfoOut _ _
  | .noteInit _ | .noteOut _ | .noteFin _ => true
  | .nop | .halt | .envReset _ _ | .envRelease _ _ | .envFinish _ _ | .lfoReset _ _ | .fltSetfreq _ _ _
  | .fltSetfq _ _ _ _ | .fltOut _ _ _ | .fltCleanup _ _ | .noteRelease _ | .noteKill _ | .noteLegato _ _ _
  | .noteSetvel _ _ | .noteSetpitch _ _ | .noteSetcut _ _ | .mixAll _ | .mixClear => false

/-- Whether a command writes RES1. -/
def writesRes1 : Instr → Bool
  | .oscGet _ _ _ _ _ _ | .envOut _ _ | .envOutdb _ _ | .noteInit _ | .noteOut _ | .noteFin _ => true
  | .nop | .halt | .oscPrepare _ | .oscRegen _ | .oscCancel _ | .lfoOut _ _ | .envReset _ _ | .envRelease _ _
  | .envFinish _ _ | .lfoReset _ _ | .fltSetfreq _ _ _ | .fltSetfq _ _ _ _ | .fltOut _ _ _ | .fltCleanup _ _
  | .noteRelease _ | .noteKill _ | .noteLegato _ _ _ | .noteSetvel _ _ | .noteSetpitch _ _ | .noteSetcut _ _
  | .mixAll _ | .mixClear => false

/-- Whether a command writes NVOICES. -/
def writesBudget : Instr → Bool
  | .noteInit _ | .noteOut _ => true
  | .nop | .halt | .oscPrepare _ | .oscGet _ _ _ _ _ _ | .oscRegen _ | .oscCancel _ | .envReset _ _ | .envOut _ _
  | .envOutdb _ _ | .envRelease _ _ | .envFinish _ _ | .lfoReset _ _ | .lfoOut _ _ | .fltSetfreq _ _ _
  | .fltSetfq _ _ _ _ | .fltOut _ _ _ | .fltCleanup _ _ | .noteRelease _ | .noteKill _ | .noteLegato _ _ _
  | .noteSetvel _ _ | .noteSetpitch _ _ | .noteSetcut _ _ | .noteFin _ | .mixAll _ | .mixClear => false

/-- A command ran from `s` to `t` and changed nothing outside its footprint: registers, flags, notes, oscillators,
memory bytes; CPTR moved on by 16 (R162). -/
structure Ran (i : Instr) (s t : State) : Prop where
  control : SameControl s t
  flags : FlagsWithin (footFlags i) s t
  outside : Outside (footNotes i) (footOscs s i) (footBytes s i) s t
  res0 : writesRes0 i = false → t.res0 = s.res0
  res1 : writesRes1 i = false → t.res1 = s.res1
  budget : writesBudget i = false → t.nvoices = s.nvoices
  cptr : t.cptr = s.cptr + 16

/-- The fault a command raises once it is decoded, if it raises one: R421 to R423, the table of R422. -/
def faultOf (i : Instr) (s : State) : Option FaultKind :=
  if i.wellFormed = false then some .indexRange
  else match i with
    | .noteInit n => if s.active n.toNat then some .slotBusy else none
    | .noteRelease n | .noteKill n | .noteLegato n _ _ => if s.active n.toNat then none else some .noteInactive
    | .nop | .halt | .oscPrepare _ | .oscGet _ _ _ _ _ _ | .oscRegen _ | .oscCancel _ | .envReset _ _ | .envOut _ _
    | .envOutdb _ _ | .envRelease _ _ | .envFinish _ _ | .lfoReset _ _ | .lfoOut _ _ | .fltSetfreq _ _ _
    | .fltSetfq _ _ _ _ | .fltOut _ _ _ | .fltCleanup _ _ | .noteOut _ | .noteSetvel _ _ | .noteSetpitch _ _
    | .noteSetcut _ _ | .noteFin _ | .mixAll _ | .mixClear => none

/-! ## Encodings and runs -/

/-- Every bit of a word. -/
def allBits : Word := 0xFFFFFFFF

/-- For each opcode of R134, the bits of W0 to W3 that its format marks 0 (R132). -/
def mustBeZero : Nat → Option Words
  | 0x00 | 0x01 | 0x51 => some ⟨0xFFFFFF00, allBits, allBits, allBits⟩
  | 0x10 | 0x12 | 0x13 => some ⟨0xFFFF0000, allBits, allBits, allBits⟩
  | 0x11 => some ⟨0xE0000000, 0, allBits, allBits⟩
  | 0x20 | 0x21 | 0x22 | 0x23 | 0x24 | 0x28 | 0x29 => some ⟨0xFF000000, allBits, allBits, allBits⟩
  | 0x30 => some ⟨0xFF000000, 0, allBits, allBits⟩
  | 0x31 => some ⟨0xFF000000, 0, 0, allBits⟩
  | 0x32 => some ⟨0, allBits, allBits, allBits⟩
  | 0x33 => some ⟨0xFF000000, allBits, allBits, allBits⟩
  | 0x40 | 0x41 | 0x42 | 0x43 | 0x48 => some ⟨0xFFFF0000, allBits, allBits, allBits⟩
  | 0x44 => some ⟨0xFFFF0000, 0, 0, allBits⟩
  | 0x45 | 0x46 | 0x47 => some ⟨0xFFFF0000, 0, allBits, allBits⟩
  | 0x50 => some ⟨0xFFFFFF00, 0xFFFF0000, allBits, allBits⟩
  | _ => none

/-- Four words are a legal command: the opcode is in the map and every must-be-zero field is zero (R135). -/
def Legal (c : Words) : Prop :=
  ∃ m, mustBeZero (c.w0.toNat % 256) = some m ∧
    c.w0 &&& m.w0 = 0 ∧ c.w1 &&& m.w1 = 0 ∧ c.w2 &&& m.w2 = 0 ∧ c.w3 &&& m.w3 = 0

/-- The next step is SEQ's, and `rest` is the agenda after it (R110, R161). -/
def SeqNext (s : State) (rest : List Turn) : Prop :=
  s.status.busy = true ∧ (s.turns = .seq :: rest ∨ (s.turns = [] ∧ rest = []))

/-- The state after `j` steps, if each answers a next state. -/
def stepsFrom : Nat → State → Option State
  | 0, s => some s
  | j + 1, s =>
    match step s with
    | .next t => stepsFrom j t
    | _ => none

/-- The state after one command was executed `j` times in a row, if each time it answers a next state. -/
def repeated (i : Instr) : Nat → State → Option State
  | 0, s => some s
  | j + 1, s =>
    match exec i s with
    | .next t => repeated i j t
    | _ => none

/-! ## Reset (R70, R472) -/

/-- The addresses of the cells that hold no value after reset: HMAG, HPHASE, SPEC, WAVE, DT, VAL, the UNI records, OUTL,
OUTR, VOUT, VWAVEC, VWAVEM, MIXL, MIXR, CMDMEM (R70, R472), by the region table R92. -/
def undefAfterReset (a : Nat) : Bool :=
  let off := a % 0x100000
  (0x1000 ≤ a && a < 0x2000) || (0x10000 ≤ a && a < 0x20000 && a % 0x1000 < 0x400) ||
    (0x100000 ≤ a && a < 0x120000) || (0x200000 ≤ a && a < 0x220000) || (0x2000000 ≤ a && a < 0x2000800) ||
    (0x1000000 ≤ a && a < 0x2000000 &&
      ((0x1000 ≤ off && off < 0x5000 && (off % 0x200 < 0xA0 || (0x100 ≤ off % 0x200 && off % 0x200 < 0x1A0))) ||
        (0x8000 ≤ off && off < 0x8800) || (0x10000 ≤ off && off < 0x50000 && 0x1000 ≤ off % 0x8000)))

/-- The reset value of every other mapped word: R472's list of non-zero values, 0 everywhere else. -/
def resetWord (a : Nat) : Word :=
  if 0x10000 ≤ a ∧ a < 0x20000 then (if a % 0x1000 = 0x42C then 0xE4 else if a % 0x1000 = 0x480 then 1 else 0)
  else match a with
    | 0x000 => 0x5A530002
    | 0x004 => 1
    | 0x008 => 0x0810100A
    | 0x00C => 0x05288032
    | 0x010 => 44100
    | 0x014 => 256
    | 0x018 => 220
    | 0x01C => 64
    | 0x020 => 0x00000800
    | 0x024 => 0x0000199A
    | 0x028 => 0x00028F5C
    | 0x02C => 0x9C000000
    | 0x070 => 128
    | 0x084 => 0x01000000
    | 0x098 => 0x01000000
    | _ => 0

/-! ## The address map (R92) and its access rights (R103): the layouts of R40 to R69, offset by offset -/

/-- GLB: R40 to R51. -/
def glbAccess (off : Nat) : Option Access :=
  if off < 0x30 then some .ro
  else if off ∈ [0x40, 0x5C] then some .wo
  else if off ∈ [0x4C, 0x64, 0x7C, 0xA0] then some .w1c
  else if off ∈ [0x60, 0x70] ∨ (0x80 ≤ off ∧ off ≤ 0x98) then some .rw
  else if 0x44 ≤ off ∧ off ≤ 0x78 then some .ro
  else none

/-- OSCCFG: R52 and R53. -/
def oscAccess (off : Nat) : Option Access :=
  if off ≤ 0x44C then some .rw else if 0x480 ≤ off ∧ off ≤ 0x488 then some .ro else none

/-- ENV: R61. -/
def envAccess (off : Nat) : Option Access :=
  if off < 0xA0 ∨ (0x100 ≤ off ∧ off ≤ 0x1A8) then some .rw else if 0x1B0 ≤ off ∧ off ≤ 0x1D0 then some .ro else none

/-- FLT: R63. -/
def fltAccess (off : Nat) : Option Access :=
  if off ≤ 0x08 then some .rw
  else if off ≤ 0x14 ∨ (0x20 ≤ off ∧ off ≤ 0x30) ∨ (0x40 ≤ off ∧ off ≤ 0x8C) then some .ro
  else none

/-- VOICE, UNI, VOUT, VWAVEC and VWAVEM of a voice slot: R65 to R67. -/
def voiceAccess (off : Nat) : Option Access :=
  if off < 0x1000 then (if off ≤ 0x34 then some .rw else if 0x40 ≤ off ∧ off ≤ 0x54 then some .ro else none)
  else if off < 0x1000 + 50 * 0x40 then
    (if off % 0x40 ≤ 0x10 then some .rw else if off % 0x40 ≤ 0x2C then some .ro else none)
  else if (0x2000 ≤ off ∧ off < 0x2400) ∨ (0x3000 ≤ off ∧ off < 0x5000) then some .ro
  else none

/-- A note slot: NOTE (R57), ENV, LFO (R62), FLT, OUTL and OUTR (R64), and its voices. -/
def slotAccess (off : Nat) : Option Access :=
  if off < 0x1000 then
    (if (0x04 ≤ off ∧ off ≤ 0x28) ∨ off = 0x48 then some .rw else if off ≤ 0x44 then some .ro else none)
  else if off < 0x1000 + 27 * 0x200 then envAccess (off % 0x200)
  else if 0x5000 ≤ off ∧ off < 0x5000 + 27 * 0x40 then
    (if off % 0x40 ≤ 0x10 then some .rw else if off % 0x40 ≤ 0x1C then some .ro else none)
  else if 0x6000 ≤ off ∧ off < 0x6000 + 18 * 0x100 then fltAccess (off % 0x100)
  else if 0x8000 ≤ off ∧ off < 0x8800 then some .ro
  else if 0x10000 ≤ off ∧ off < 0x10000 + 8 * 0x8000 then voiceAccess (off % 0x8000)
  else none

/-- The access right of the word at an aligned bus address; none where the address is unmapped (R92, R98). -/
def accessAt (a : Nat) : Option Access :=
  if a < 0x100 then glbAccess a
  else if 0x1000 ≤ a ∧ a < 0x2000 then some .rw
  else if 0x10000 ≤ a ∧ a < 0x20000 then oscAccess (a % 0x1000)
  else if (0x100000 ≤ a ∧ a < 0x120000) ∨ (0x200000 ≤ a ∧ a < 0x220000) then some .ro
  else if 0x1000000 ≤ a ∧ a < 0x2000000 then slotAccess (a % 0x100000)
  else if 0x2000000 ≤ a ∧ a < 0x2000800 then some .ro
  else none

/-! ## What HOST reads (R40 to R65): each register of a region at its offset, with the field it shows -/

/-- A field in the low bits of a word; unlisted bits read 0 (R96). -/
def inWord {w : Nat} (x : BitVec w) : Word := BitVec.ofNat 32 x.toNat

/-- GLB (R40 to R51). -/
def State.glbShows (s : State) : List (Nat × Word) :=
  [(0x00, 0x5A530002), (0x04, 1), (0x08, 0x0810100A), (0x0C, 0x05288032), (0x10, 44100), (0x14, 256), (0x18, 220),
    (0x1C, 64), (0x20, 2048), (0x24, 6554), (0x28, 167772), (0x2C, 0x9C000000), (0x40, 0), (0x44, inWord s.cptr),
    (0x48, bit s.status.busy 0 ||| bit s.status.done 1 ||| bit s.status.fault 2), (0x4C, inWord s.err),
    (0x50, inWord s.faultCode), (0x54, inWord s.faultPtr), (0x58, s.faultInfo), (0x5C, 0), (0x60, inWord s.irqEn),
    (0x64, inWord s.irqPend), (0x68, s.res0), (0x6C, s.res1), (0x70, inWord s.voiceCap), (0x74, inWord s.nvoices),
    (0x7C, inWord s.regenDone), (0x80, s.ctl.pitchbend), (0x84, s.ctl.modwheel), (0x88, s.ctl.portamento),
    (0x8C, inWord s.ctl.sustain), (0x90, s.ctl.rescenter), (0x94, s.ctl.resbw), (0x98, s.ctl.bandwidth),
    (0xA0, inWord s.regenCanc)]

/-- OSCCFG but for the harmonic tables (R52, R53). -/
def Osc.shows (x : Osc) : List (Nat × Word) :=
  [(0x400, inWord x.cfg.magtype), (0x404, inWord x.cfg.basefunc), (0x408, inWord x.cfg.basepar),
    (0x40C, inWord x.cfg.wstype), (0x410, inWord x.cfg.wspar), (0x414, inWord x.cfg.sftype),
    (0x418, inWord x.cfg.sfpar1), (0x41C, inWord x.cfg.sfpar2), (0x420, inWord x.cfg.satype),
    (0x424, inWord x.cfg.sapar), (0x428, inWord x.cfg.hshift), (0x42C, inWord x.cfg.stageorder),
    (0x430, inWord x.cfg.adapt), (0x434, inWord x.cfg.adaptpar), (0x438, inWord x.cfg.normmode),
    (0x43C, inWord x.cfg.aa), (0x440, inWord x.cfg.randmode), (0x444, inWord x.cfg.randdepth),
    (0x448, inWord x.cfg.amprandtype), (0x44C, inWord x.cfg.amprandpower),
    (0x480, bit x.dirty 0 ||| bit x.pubsel 1 ||| bit x.valid 2 ||| bit x.job.isSome 3 ||| bit (x.job.any (·.cancel)) 4),
    (0x484, x.cfgver), (0x488, x.pubver)]

/-- NOTE (R57), but for VCREATED. -/
def Note.shows (x : Note) : List (Nat × Word) :=
  [(0x00, bit x.nstat.active 0 ||| bit x.nstat.finished 1 ||| bit x.nstat.killed 2 ||| bit x.nstat.first 3 |||
      bit x.nstat.released 4), (0x04, x.log2freq), (0x08, x.velocity), (0x0C, x.volume), (0x10, x.panl), (0x14, x.panr),
    (0x18, x.cutoff), (0x1C, x.gfbase), (0x20, x.gfq), (0x24, inWord x.gfen), (0x28, x.rng),
    (0x2C, (match x.legstate with | .normal => 0 | .fadeIn => 1 | .fadeOut => 2 | .catchUp => 3) ||| bit x.silent 2),
    (0x30, x.legcount), (0x34, x.legpitch), (0x38, x.legvel), (0x3C, x.gampold), (0x40, x.gampnew),
    (0x48, inWord x.nctrl)]

/-- The scalars of ENV (R61). -/
def Env.shows (e : Env) : List (Nat × Word) :=
  [(0x1A0, inWord e.npts), (0x1A4, inWord e.sust), (0x1A8, inWord e.eflags), (0x1B0, inWord e.ecur), (0x1B4, e.et),
    (0x1B8, bit e.released 0 ||| bit e.finished 1 ||| bit e.frpend 2), (0x1BC, e.eout), (0x1C0, e.eret), (0x1C4, e.ev0),
    (0x1C8, e.erelval), (0x1CC, inWord e.enpts), (0x1D0, inWord e.esust)]

/-- LFO (R62). -/
def Lfo.shows (l : Lfo) : List (Nat × Word) :=
  [(0x00, inWord l.linc), (0x04, inWord l.lphase0), (0x08, inWord l.lshape), (0x0C, l.ldepth), (0x10, inWord l.ldelay),
    (0x14, inWord l.lphase), (0x18, inWord l.ldcnt), (0x1C, l.lout)]

/-- FLT (R63): the scalars, FC[j] and FST[g][j]. -/
def Flt.shows (x : Flt) : List (Nat × Word) :=
  [(0x00, inWord x.fkind), (0x04, inWord x.ftype), (0x08, inWord x.fstages), (0x0C, x.ffreq), (0x10, x.fq),
    (0x14, inWord x.fnst)] ++ ((List.finRange 5).map fun j => (0x20 + 4 * j.val, x.fc[j])) ++
    (List.finRange 5).flatMap fun g =>
      [(0x40 + 16 * g.val, x.fst[g].s0), (0x44 + 16 * g.val, x.fst[g].s1), (0x48 + 16 * g.val, x.fst[g].s2),
        (0x4C + 16 * g.val, x.fst[g].s3)]

/-- VOICE (R65). -/
def Voice.shows (y : Voice) : List (Nat × Word) :=
  [(0x00, y.vctrl), (0x04, y.vosc), (0x08, y.detune), (0x0C, y.moddetune), (0x10, y.vvolume), (0x14, y.vpanl),
    (0x18, y.vpanr), (0x1C, y.modamp), (0x20, inWord y.modgain), (0x24, inWord y.unisize), (0x28, y.uninorm),
    (0x2C, y.vibamp), (0x30, y.vfbase), (0x34, y.vfq), (0x40, bit y.created 0 ||| bit y.finished 1 ||| bit y.first 2),
    (0x44, y.vampold), (0x48, y.vampnew), (0x4C, y.modampold), (0x50, inWord y.usize),
    (0x54, inWord y.topo ||| bit y.modext 3)]

/-- The register at bus address `a` shows `v`: the register sets of R40 to R65 at the bases of R92. REGEN_RUN and VCREATED
stand apart, bit by bit. -/
def State.Shows (s : State) (a : Nat) (v : Word) : Prop :=
  (a, v) ∈ s.glbShows ∨ (∃ o < 16, ∃ p ∈ (s.osc o).shows, (a, v) = (0x10000 + o * 0x1000 + p.1, p.2)) ∨
    ∃ n < 16, let nb := 0x1000000 + n * 0x100000
      (∃ p ∈ (s.note n).shows, (a, v) = (nb + p.1, p.2)) ∨
      (∃ k < 27, (∃ p ∈ (s.env n k).shows, (a, v) = (nb + 0x1000 + k * 0x200 + p.1, p.2)) ∨
        ∃ p ∈ (s.lfo n k).shows, (a, v) = (nb + 0x5000 + k * 0x40 + p.1, p.2)) ∨
      (∃ f < 18, ∃ p ∈ (s.flt n f).shows, (a, v) = (nb + 0x6000 + f * 0x100 + p.1, p.2)) ∨
      ∃ i < 8, ∃ p ∈ (s.voice n i).shows, (a, v) = (nb + 0x10000 + i * 0x8000 + p.1, p.2)

/-- A cell of a shadow bank (R54 to R56). -/
def State.shadowCell (s : State) (a : Nat) : Prop := ∃ o < 16, bankBytes o (!(s.osc o).pubsel) a

/-! ## What HOST stores (R97) -/

/-- The listed bits of a read-write register at an offset of OSCCFG (R52). -/
def oscBits (off : Nat) : Word :=
  if off < 0x400 then 0x7F
  else if off ∈ [0x404] then 0x0F
  else if off ∈ [0x40C, 0x414, 0x428, 0x42C, 0x430] then 0xFF
  else if off ∈ [0x420, 0x438, 0x440, 0x448] then 0x03
  else if off = 0x400 then 0x07
  else if off = 0x43C then 0x01
  else 0x7F

/-- The listed bits of a read-write cell at an offset of a note slot (R57, R61 to R63, R65, R66). -/
def noteBits (off : Nat) : Word :=
  let e := (off - 0x1000) % 0x200
  let l := (off - 0x5000) % 0x40
  let f := (off - 0x6000) % 0x100
  let v := (off - 0x10000) % 0x8000
  if off < 0x1000 then (if off = 0x24 ∨ off = 0x48 then 0x01 else allBits)
  else if off < 0x5000 then (if e = 0x1A0 ∨ e = 0x1A4 then 0xFF else if e = 0x1A8 then 0x0F else allBits)
  else if off < 0x6000 then
    (if l = 0x00 ∨ l = 0x04 then 0x00FFFFFF else if l = 0x08 then 0x07 else if l = 0x10 then 0xFFFF else allBits)
  else if off < 0x8000 then (if f = 0x00 then 0x01 else if f = 0x04 then 0xFF else 0x07)
  else if v < 0x1000 then
    (if v = 0x00 then 0x7F7 else if v = 0x04 then 0x10F0F else if v = 0x20 then 0xFFFF else if v = 0x24 then 0x3F
      else allBits)
  else if (v - 0x1000) % 0x40 = 0x10 then 0x01
  else allBits

/-- The listed bits of the read-write cell at a bus address (R48 to R50, R52, R57, R61 to R63, R65, R66, R69). -/
def listedBits (a : Nat) : Word :=
  if a = 0x60 then 0x1F
  else if a = 0x70 then 0xFF
  else if a = 0x8C then 0x01
  else if 0x10000 ≤ a ∧ a < 0x20000 then oscBits (a % 0x1000)
  else if 0x1000000 ≤ a then noteBits (a % 0x100000)
  else allBits

/-! ## PrepareFn, bin by bin (R173 to R185, R198, R199) -/

/-- The nearest Q8.24 number to a product of two, before it is narrowed (R15). -/
def rounded (x : Int) : Int := fdiv (x + 8388608) 16777216

/-- An integer narrowed to Q8.24 (R14). -/
def narrowed (x : Int) : Int := clamp x (-2147483648) 2147483647

/-- The bins 1..511 of `r` are the pairs `f k`, narrowed, and bin 0 is (0, 0); the flag rises exactly when a narrowing
changes its argument (R14, R54). -/
def BinsAre (r : Sat Spectrum) (f : Nat → Int × Int) : Prop :=
  r.val.length = 512 ∧ r.val.bin 0 = (0, 0) ∧
    (∀ k, 1 ≤ k → k ≤ 511 → r.val.bin k = (narrowed (f k).1, narrowed (f k).2)) ∧
    (r.sat = true ↔ ∃ k, 1 ≤ k ∧ k ≤ 511 ∧ ((f k).1 ≠ narrowed (f k).1 ∨ (f k).2 ≠ narrowed (f k).2))

/-- The signed magnitude `m_i` of harmonic h = i + 1 (R173, R174). -/
def harmonicMag (c : OscCfg) (hmag : List Nat) (h : Nat) : Int :=
  magMap (if 4 < c.magtype.toNat then 0 else c.magtype.toNat) (hmag.getD (h - 1) 64)

/-- The phase offset `A_i` of harmonic h = i + 1 (R174). -/
def harmonicPhase (hphase : List Nat) (h : Nat) : Nat := ((((hphase.getD (h - 1) 64 : Nat) : Int) - 64) * 8 % 1024).toNat

/-- A harmonic is enabled (R174). -/
abbrev enabledHarmonic (hmag : List Nat) (h : Nat) : Prop := 1 ≤ h ∧ h ≤ 128 ∧ hmag.getD (h - 1) 64 ≠ 64

/-- What harmonic h adds to composite bin h·j from bin j of the base spectrum, not yet narrowed (R179). -/
def harmonicShare (c : OscCfg) (hmag hphase : List Nat) (base : Spectrum) (h j : Nat) : Int × Int :=
  let ang := j * harmonicPhase hphase h % 1024
  let b := base.bin j
  (rounded (harmonicMag c hmag h * rounded (b.1 * cosRom ang + b.2 * sinRom ang)),
    rounded (harmonicMag c hmag h * rounded (b.2 * cosRom ang - b.1 * sinRom ang)))

/-- `r` is the composite spectrum of a configuration: R178 for BASEFUNC = 0, else R177 and R179, where bin k sums the
shares of the enabled harmonics h with h·j = k. -/
def CompositeIs (c : OscCfg) (hmag hphase : List Nat) (r : Sat Spectrum) : Prop :=
  if c.basefunc = 0 then
    BinsAre r fun k =>
      if enabledHarmonic hmag k then
        (rounded (harmonicMag c hmag k * sinRom (harmonicPhase hphase k)),
          rounded (harmonicMag c hmag k * cosRom (harmonicPhase hphase k)))
      else (0, 0)
  else
    let share := harmonicShare c hmag hphase
      (fwdT ((List.range 1024).map (baseFunc c.basefunc.toNat c.basepar.toNat)))
    let parts := fun k => (Finset.Icc 1 128).filter fun h => enabledHarmonic hmag h ∧ h ∣ k
    let total := fun k => (∑ h ∈ parts k, narrowed (share h (k / h)).1, ∑ h ∈ parts k, narrowed (share h (k / h)).2)
    ∃ sums, BinsAre ⟨r.val, sums⟩ total ∧
      (r.sat = true ↔ sums = true ∨ ∃ k h, 1 ≤ k ∧ k ≤ 511 ∧ h ∈ parts k ∧
        ((share h (k / h)).1 ≠ narrowed (share h (k / h)).1 ∨ (share h (k / h)).2 ≠ narrowed (share h (k / h)).2))

/-- `r` is the spectrum the stage with an id makes of `S`: R181 for 0, R182 for 1, R183 for 2, R184 for 3. A stage that is
off leaves it as it is (R180). -/
def StageIs (c : OscCfg) (id : Nat) (S : Spectrum) (r : Sat Spectrum) : Prop :=
  match id with
  | 0 =>
    r = .ok (if c.wstype = 0 then S
      else fwdT ((List.range 1024).map fun n => waveshape c.wstype.toNat c.wspar.toNat (invTSample S n)))
  | 1 =>
    if c.sftype = 0 then r = .ok S
    else BinsAre r fun k =>
      let g := specFilterGain c.sftype.toNat c.sfpar1.toNat c.sfpar2.toNat k
      (rounded ((S.bin k).1 * g), rounded ((S.bin k).2 * g))
  | 2 =>
    if c.satype = 0 ∨ c.satype = 3 then r = .ok S
    else BinsAre r fun k =>
      let m := isqrt ((S.bin k).1 * (S.bin k).1 + (S.bin k).2 * (S.bin k).2).toNat
      let nm := specAdjust c.satype.toNat c.sapar.toNat m
      if m = 0 then S.bin k else (fdiv ((S.bin k).1 * nm) m, fdiv ((S.bin k).2 * nm) m)
  | _ =>
    if c.hshift = 0 then r = .ok S
    else r.sat = false ∧ r.val.length = 512 ∧ r.val.bin 0 = (0, 0) ∧ ∀ k : Nat, 1 ≤ k → k ≤ 511 →
      let src := (k : Int) - c.hshift.toInt
      r.val.bin k =
        if 1 ≤ src ∧ src ≤ 511 then S.bin src.toNat
        else if Config.shiftWrap then S.bin (1 + (src - 1) % 511).toNat else (0, 0)

/-- The id of the stage at position p: STAGEORDER's, if its four fields are a permutation of 0 to 3, else p (R180). -/
def stageAt (c : OscCfg) (p : Nat) : Nat :=
  let field := fun q => c.stageorder.toNat / 4 ^ q % 4
  if ∀ id ∈ List.range 4, ∃ q ∈ List.range 4, field q = id then field p else p

/-- The divisor of `Normalise` (R198): the sum of the magnitudes for NORMMODE 0 (and 3, R173), else their RMS. -/
def normDivisor (c : OscCfg) (S : Spectrum) : Nat :=
  let power := fun k => (S.bin k).1 * (S.bin k).1 + (S.bin k).2 * (S.bin k).2
  if c.normmode = 0 ∨ c.normmode = 3 then ∑ k ∈ Finset.Icc 1 511, isqrt (power k).toNat
  else isqrt (∑ k ∈ Finset.Icc 1 511, power k).toNat

/-- `r` is the spectrum of PrepareFn (R199), step by step: `S 0` is the composite, `S (p + 1)` what the stage at position p
makes of `S p`, `A` the remap of `S 4` (R185), and `r` is `A` normalised (R198). -/
def PreparedIs (c : OscCfg) (hmag hphase : List Nat) (r : Sat Spectrum) : Prop :=
  ∃ (S : Nat → Sat Spectrum) (A : Spectrum) (n : Bool),
    CompositeIs c hmag hphase (S 0) ∧ (∀ p, p < 4 → StageIs c (stageAt c p) (S p).val (S (p + 1))) ∧
    A.length = 512 ∧ A.bin 0 = (0, 0) ∧
    (∀ k, 1 ≤ k → k ≤ 511 → A.bin k =
      if c.adapt = 0 then (S 4).val.bin k else (adaptive (S 4).val c.adapt.toNat c.adaptpar.toNat).bin k) ∧
    (if normDivisor c A = 0 then r.val = A ∧ n = false
      else BinsAre ⟨r.val, n⟩ fun k =>
        (fdiv ((A.bin k).1 * 16777216) (normDivisor c A), fdiv ((A.bin k).2 * 16777216) (normDivisor c A))) ∧
    (r.sat = true ↔ n = true ∨ ∃ p, p ≤ 4 ∧ (S p).sat = true)

/-! ## Configuration that only HOST writes (R57 to R65, R319) -/

/-- The configuration registers of an envelope. -/
def Env.config (e : Env) : BitVec 8 × BitVec 8 × BitVec 4 := (e.npts, e.sust, e.eflags)

/-- The configuration registers of an LFO. -/
def Lfo.config (l : Lfo) : BitVec 24 × BitVec 24 × BitVec 3 × Word × BitVec 16 :=
  (l.linc, l.lphase0, l.lshape, l.ldepth, l.ldelay)

/-- The configuration registers of a filter. -/
def Flt.config (x : Flt) : BitVec 1 × BitVec 8 × BitVec 3 := (x.fkind, x.ftype, x.fstages)

/-- A voice with every register that commands write set to 0: what is left is what HOST configured. -/
def Voice.config (y : Voice) : Voice :=
  { y with created := false, finished := false, first := false, vampold := 0, vampnew := 0, modampold := 0, usize := 0,
           topo := 0, modext := false }

/-- The bytes of the configuration cells that are memory: HMAG and HPHASE (R52), DT and VAL (R61), RBASE, POS and INVERT
of the sub-voice records (R66), and CMDMEM (R69). -/
def configBytes : Nat → Prop := fun a =>
  wordsAt cmdAddr 1024 a ∨ (∃ o, o < 16 ∧ wordsAt (hmagAddr o) 256 a) ∨
    (∃ n k, n < 16 ∧ k < 27 ∧ (wordsAt (dtAddr n k 0) 40 a ∨ wordsAt (valAddr n k 0) 40 a)) ∨
    ∃ n v k, n < 16 ∧ v < 8 ∧ k < 50 ∧ (wordsAt (uniAddr n v k) 1 a ∨ wordsAt (uniAddr n v k + 0x0C) 2 a)

/-- Two notes hold the same configuration (all but LOG2FREQ, VELOCITY, CUTOFF and RNG, which commands write). -/
structure Note.SameConfig (x y : Note) : Prop where
  registers : y.volume = x.volume ∧ y.panl = x.panl ∧ y.panr = x.panr ∧ y.gfbase = x.gfbase ∧ y.gfq = x.gfq ∧
    y.gfen = x.gfen ∧ y.nctrl = x.nctrl
  envs : ∀ k, (y.env k).config = (x.env k).config
  lfos : ∀ k, (y.lfo k).config = (x.lfo k).config
  flts : ∀ f, (y.flt f).config = (x.flt f).config
  voices : ∀ v, (y.voice v).config = (x.voice v).config

/-! ## Invariants -/

/-- The number of created voices over all notes. -/
def State.createdTotal (s : State) : Nat := (s.notes.toList.map Note.createdCount).sum

/-- NVOICES counts the created voices, and an inactive slot has none (R49, R353). -/
def BudgetInv (s : State) : Prop :=
  s.nvoices.toNat = s.createdTotal ∧ ∀ n, n < 16 → s.active n = false → (s.note n).createdCount = 0

/-- CPTR is a multiple of 16 up to 0x1000 (R32, R43), and no two of BUSY, DONE and FAULT are 1 together (R45). -/
def SequencerInv (s : State) : Prop :=
  s.cptr.toNat % 16 = 0 ∧ s.cptr.toNat ≤ 0x1000 ∧
    (s.status.busy = true → s.status.done = false ∧ s.status.fault = false) ∧
    (s.status.done = true → s.status.fault = false)

/-- STATE = Normal implies LEGCOUNT = 0, any other state 1 ≤ LEGCOUNT ≤ FADE_LEN (R59, R367); a fade is not silent and
CatchUp is (R363, R365). -/
def Note.LegatoInv (x : Note) : Prop :=
  (x.legstate = .normal → x.legcount = 0) ∧ (x.legstate ≠ .normal → 1 ≤ x.legcount.toNat ∧ x.legcount.toNat ≤ 220) ∧
    (x.legstate = .fadeIn ∨ x.legstate = .fadeOut → x.silent = false) ∧ (x.legstate = .catchUp → x.silent = true)

/-- The legato invariant of every note. -/
def LegatoInv (s : State) : Prop := ∀ n, n < 16 → (s.note n).LegatoInv

/-- DIRTY = 0 only when a bank is published that was made from the present configuration version (R53). -/
def FreshInv (s : State) : Prop :=
  ∀ o, o < 16 → (s.osc o).dirty = false → (s.osc o).valid = true ∧ (s.osc o).pubver = (s.osc o).cfgver

/-- All `n` words from address `a` on hold a value (R72). -/
def State.Written (s : State) (a n : Nat) : Prop := ∀ i, i < n → (s.mem.word? (a + 4 * i)).isSome = true

/-- A memory holds these words from address `a` on. -/
def Mem.Holds (m : Mem) (a : Nat) (ws : List Word) : Prop := ∀ i, i < ws.length → m.word? (a + 4 * i) = ws[i]?

/-- Steps (1) to (6) of PrepareFn of a configuration and a memory that holds its harmonic tables (R199). -/
def spectrumOf (c : OscCfg) (m : Mem) (o : Nat) : Spectrum :=
  (prepareSpectrum c (codes ((List.range 128).map fun i => (m.word? (hmagAddr o + 4 * i)).getD 0))
    (codes ((List.range 128).map fun i => (m.word? (hphaseAddr o + 4 * i)).getD 0))).val

/-- All HMAG and HPHASE cells of an oscillator hold a value (R476). -/
def tablesIn (m : Mem) (o : Nat) : Prop := ∀ i, i < 256 → (m.word? (hmagAddr o + 4 * i)).isSome = true

/-- What holds of a running job of an oscillator: if its version is the present one, its snapshot is the present
configuration; once SPECDONE, the shadow spectrum is that of the snapshot; and every sample unit done is the transform's
sample of the shadow spectrum (R204 to R207, R113). -/
structure JobInv (s : State) (o : Nat) (j : Job) : Prop where
  snapshot : j.snapVer = (s.osc o).cfgver → j.snapCfg = (s.osc o).cfg ∧
    ∀ a, wordsAt (hmagAddr o) 256 a → j.snapTable.byte? a = s.mem.byte? a
  spectrum : j.specDone = true → s.Written (specAddr o !(s.osc o).pubsel) 1024 ∧
    (tablesIn j.snapTable o →
      s.mem.Holds (specAddr o !(s.osc o).pubsel) (spectrumWords (spectrumOf j.snapCfg j.snapTable o)))
  samples : ∀ u, u ∈ j.unitDone → u < 1024 ∧ j.specDone = true ∧
    s.mem.word? (waveAddr o (!(s.osc o).pubsel) + 4 * u) =
      some (toWord (invTSample (spectrumOfWords (s.cells (specAddr o !(s.osc o).pubsel) 1024)) u))

/-- Every published bank is written; that of a clean oscillator is PrepareFn of the present configuration, if its tables
are written (R55, R117); and the running jobs are on their way to such a bank. -/
structure BanksInv (s : State) : Prop where
  written : ∀ o, o < 16 → (s.osc o).valid = true →
    s.Written (specAddr o (s.osc o).pubsel) 1024 ∧ s.Written (waveAddr o (s.osc o).pubsel) 1024
  clean : ∀ o, o < 16 → (s.osc o).dirty = false → (s.osc o).valid = true ∧
    (tablesIn s.mem o → let S := spectrumOf (s.osc o).cfg s.mem o
      s.mem.Holds (specAddr o (s.osc o).pubsel) (spectrumWords S) ∧
        s.mem.Holds (waveAddr o (s.osc o).pubsel) ((invT S).map toWord))
  jobs : ∀ o j, o < 16 → (s.osc o).job = some j → JobInv s o j

/-- An envelope's cursor stays inside its table (R231, R234). -/
def Env.Inv (e : Env) : Prop :=
  e.enpts = 0 ∨
    (e.enpts.toNat ≤ 40 ∧ (e.esust = noSustain ∨ e.esust.toNat + 1 < e.enpts.toNat) ∧ 1 ≤ e.ecur.toNat ∧
      e.ecur.toNat ≤ e.enpts.toNat ∧ (e.finished = false → e.ecur.toNat < e.enpts.toNat) ∧ e.et.toNat < 16777216)

/-- The envelope invariant of every envelope of every note. -/
def EnvelopeInv (s : State) : Prop := ∀ n k, n < 16 → k < 27 → (s.env n k).Inv

/-- A created voice has 1 to 50 sub-voices and a topology of the five (R314, R315). -/
def VoiceInv (s : State) : Prop :=
  ∀ n v, n < 16 → v < 8 → (s.voice n v).created = true →
    1 ≤ (s.voice n v).usize.toNat ∧ (s.voice n v).usize.toNat ≤ 50 ∧ (s.voice n v).topo.toNat ≤ 4

/-! ## One block of a note: what NOTE.OUT from `s` to `t` shows (R320 to R352)

The sources' values are read from ERET and LOUT after the block, the ratios, amplitudes and coefficients from the registers
it leaves; phases, filter states and buffers from before the block. -/

/-- Voice v is created and not finished: NOTE.OUT renders it (R320). -/
def State.live (s : State) (n v : Nat) : Bool := (s.voice n v).created && !(s.voice n v).finished

/-- Envelope and LFO slot k advances in a NOTE.OUT: the three global ones and those of the live voices (R330, R320). -/
def State.stepped (s : State) (n k : Nat) : Bool := decide (k < 3) || s.live n ((k - 3) / 3)

/-- Every cell that NOTE.OUT reads holds a value (R72, R477): the tables of the envelopes it advances, the waveforms and
sub-voice records of the live voices; and an external modulator is a created voice of lower index (R314, R481). -/
structure NoteReady (s : State) (n : Nat) : Prop where
  envs : ∀ k, k < 27 → s.stepped n k = true → (s.env n k).Inv ∧
    s.Written (dtAddr n k 0) (s.env n k).enpts.toNat ∧ s.Written (valAddr n k 0) (s.env n k).enpts.toNat
  waves : ∀ v, v < 8 → s.live n v = true → s.Written (vwaveAddr n v false) 1024 ∧
    ((s.voice n v).topo ≠ 0 → (s.voice n v).modext = false → s.Written (vwaveAddr n v true) 1024)
  modulators : ∀ v, v < 8 → s.live n v = true → (s.voice n v).topo ≠ 0 → (s.voice n v).modext = true →
    (s.voice n v).modvoice < v ∧ (s.voice n (s.voice n v).modvoice).created = true
  records : ∀ v k, v < 8 → s.live n v = true → k < (s.voice n v).usize.toNat →
    ((s.voice n v).usize ≠ 1 → s.Written (uniAddr n v k) 3) ∧ s.Written (uniAddr n v k + 0x0C) 2 ∧
    s.Written (uniAddr n v k + 0x18) 2 ∧
    ((s.voice n v).topo ≠ 0 → (s.voice n v).modext = false → s.Written (uniAddr n v k + 0x20) 2) ∧
    ((s.voice n v).topo = 4 → s.Written (uniAddr n v k + 0x28) 2)

/-- ERET of an envelope. -/
def State.ret (t : State) (n k : Nat) : Int := (t.env n k).eret.toInt
/-- LOUT of an LFO. -/
def State.lout (t : State) (n k : Nat) : Int := (t.lfo n k).lout.toInt

/-- The ERR flags a command raises in a state: ERR after it, where none stood before it. -/
def State.flagsOf (s : State) (i : Instr) : BitVec 8 :=
  match exec i { s with err := 0 } with
  | .next t => t.err
  | _ => 0

/-- The envelope command a NOTE.OUT performs on slot k: ENV.OUTDB on an amplitude envelope, ENV.OUT on the others (R330). -/
def sourceCall (n : Byte) (k : Nat) : Instr :=
  if k % 3 = 0 then .envOutdb n (BitVec.ofNat 8 k) else .envOut n (BitVec.ofNat 8 k)

/-- The pitch NOTE.INIT fetches a voice's carrier waveform for (R316). -/
def carrierPitch (x : Note) (y : Voice) : Sat Int := sat32 (x.log2freq.toInt + y.detune.toInt)
/-- The pitch NOTE.INIT fetches a voice's modulator waveform for (R317). -/
def modulatorPitch (x : Note) (y : Voice) : Sat Int := sat32 (x.log2freq.toInt + y.detune.toInt + y.moddetune.toInt)
/-- The OSC.GET by which NOTE.INIT fetches a voice's carrier waveform (R316). -/
def carrierGet (n : Byte) (v : Nat) (x : Note) (y : Voice) : Instr :=
  .oscGet (BitVec.ofNat 8 y.carrier) n (BitVec.ofNat 3 v) false y.useres (BitVec.ofNat 32 (exp2 (carrierPitch x y).val))
/-- The OSC.GET by which NOTE.INIT fetches a voice's modulator waveform (R317). -/
def modulatorGet (n : Byte) (v : Nat) (x : Note) (y : Voice) : Instr :=
  .oscGet (BitVec.ofNat 8 y.modulator) n (BitVec.ofNat 3 v) true false (BitVec.ofNat 32 (exp2 (modulatorPitch x y).val))
/-- A voice whose modulator is an oscillator of its own (R317). -/
def Voice.ownModulator (y : Voice) : Bool := y.topo != 0 && !y.modext

/-- A created voice of note `n` takes its carrier, or its own modulator, from oscillator `o` (R316, R317). -/
def State.takes (t : State) (n o : Nat) : Prop :=
  ∃ v, v < 8 ∧ (t.voice n v).created = true ∧
    (o = (t.voice n v).carrier ∨ (t.voice n v).ownModulator = true ∧ o = (t.voice n v).modulator)

/-- gpitch (R331). -/
def notePitch (s t : State) (n : Nat) : Sat Int :=
  (qmul (t.lout n 1) s.ctl.modwheel.toInt).bind fun m => sat32 (t.ret n 1 + m)

/-- vp of voice v (R332). -/
def blockPitch (s t : State) (n v : Nat) : Sat Int :=
  sat32 ((s.note n).log2freq.toInt + (s.voice n v).detune.toInt + s.ctl.pitchbend.toInt + s.ctl.portamento.toInt +
    (notePitch s t n).val + t.ret n (4 + 3 * v) + t.lout n (4 + 3 * v))

/-- The modulator's pitch of voice v (R332). -/
def modPitch (s t : State) (n v : Nat) : Sat Int := sat32 ((blockPitch s t n v).val + (s.voice n v).moddetune.toInt)

/-- The pitch of the global filter (R333). -/
def noteCutoff (s t : State) (n : Nat) : Sat Int :=
  sat32 ((s.note n).gfbase.toInt + (s.note n).cutoff.toInt + t.ret n 2 + t.lout n 2)

/-- The pitch of the filter of voice v (R333). -/
def voiceCutoff (s t : State) (n v : Nat) : Sat Int :=
  sat32 ((s.voice n v).vfbase.toInt + t.ret n (5 + 3 * v) + t.lout n (5 + 3 * v))

/-- SetCoef clamps this frequency or this Q (R283). -/
def setCoefClamps (freq : Nat) (q : Word) : Prop := freq < 6554 ∨ 1445068800 < freq ∨ q.toInt < 167772

/-- RATIO[k] of voice v (R334), from the vibrato position the block leaves. -/
def subRatio (s t : State) (n v k : Nat) : Sat Int :=
  let q := t.uni n v k .vibpos
  if (s.voice n v).usize = 1 then .ok 16777216
  else
    (qmul (fdiv (3 * (q - fdiv (q * q * q) (3 * 281474976710656))) 2) (s.voice n v).vibamp.toInt).bind fun m =>
      (sat32 (s.uni n v k .rbase - 16777216 + m)).bind fun d =>
        (qmul d s.ctl.bandwidth.toInt).bind fun e => sat32 (16777216 + e)

/-- VIBSTEP[k] of voice v after the block: negated at a bounce, and narrowed (R334; log entry 9, DEDUCED). -/
def subStep (s : State) (n v k : Nat) : Sat Int :=
  let d := s.uni n v k .vibstep
  if 16777216 ≤ (s.uni n v k .vibpos + d).natAbs then sat32 (-d) else .ok d

/-- The increment of a phase for a pitch and a ratio (R332, R335). -/
def pitchStep (pitch ratio : Int) : Nat := max (exp2 pitch) 6554 * ratio.toNat / 16777216 * 262144 / 44100

/-- INC[k] of voice v. -/
def carrierStep (s t : State) (n v k : Nat) : Nat := pitchStep (blockPitch s t n v).val (t.uni n v k .ratio)
/-- INCM[k] of voice v. -/
def modulatorStep (s t : State) (n v k : Nat) : Nat := pitchStep (modPitch s t n v).val (t.uni n v k .ratio)

/-- A block amplitude (R336): a level, an envelope's value and an LFO's. -/
def blockAmp (level a al : Int) : Sat Int :=
  (qmul level a).bind fun g => (sat32 (16777216 + al)).bind fun m => qmul g (max 0 m)

/-- The note's amplitude (R336). -/
def noteGain (s t : State) (n : Nat) : Sat Int :=
  (qmul (s.note n).volume.toInt (s.note n).velocity.toInt).bind fun l => blockAmp l (t.ret n 0) (t.lout n 0)

/-- The amplitude of voice v (R336). -/
def voiceGain (s t : State) (n v : Nat) : Sat Int :=
  blockAmp (s.voice n v).vvolume.toInt (t.ret n (3 + 3 * v)) (t.lout n (3 + 3 * v))

/-- The samples of sub-voice k of voice v and the phases after them (R340 to R345): the external modulator's output
comes with the level MODAMP, ramped from MODAMPOLD. -/
def subSamples (s t : State) (n v k : Nat) : Sat (List Int × SubPhase) :=
  let y := s.voice n v
  let other := t.signedCells (voutAddr n y.modvoice) 256
  subBlock
    { topo := y.topo.toNat, ext := y.modext, wave := s.signedCells (vwaveAddr n v false) 1024
      wavem := s.signedCells (vwaveAddr n v true) 1024, inc := carrierStep s t n v k, incm := modulatorStep s t n v k
      modgain := y.modgain.toNat }
    ⟨s.phase n v k .phhi .phlo, s.phase n v k .phmhi .phmlo, s.phase n v k .fmihi .fmilo⟩
    ((List.range 256).map fun i =>
      (other.getD i 0, ramp y.modampold.toInt y.modamp.toInt i 256))

/-- A filtered channel: the coefficients the block leaves, the stage states from before it (R286, R346, R351). -/
def filtered (s t : State) (n f : Nat) (b : List Int) : Sat (List Int × List FltStage) :=
  filterSamples (t.flt n f) ((s.flt n f).fst.toList.take (t.flt n f).fnst.toNat) b

/-- A channel of voice v after mix and fade-in, before the voice filter (R347, R348). -/
def voiceMix (s t : State) (n v : Nat) (right : Bool) : Sat (List Int) :=
  let y := s.voice n v
  let ks := List.range y.usize.toNat
  (mapSat (subSamples s t n v) ks).bind fun bs =>
    (unisonMix y.uninorm.toInt
      (ks.map fun k => panWeight right (s.uni n v k .pos) ((s.cell (uniAddr n v k + 0x10)).getLsbD 0))
      (bs.map (·.1))).bind fun mix => if y.first then fadeInBuf mix else .ok mix

/-- A channel of voice v as it is deposited: after the voice filter, where enabled, the amplitude, and the fade-out of a
voice that ends (R346, R349, R350, in the order of decision D49: log entry 22, DEDUCED). -/
def voiceChannel (s t : State) (n v : Nat) (right : Bool) : Sat (List Int) :=
  let z := t.voice n v
  (voiceMix s t n v right).bind fun b =>
    (if (s.voice n v).filterOn then (filtered s t n (2 + 2 * v + right.toNat) b).map (·.1) else .ok b).bind fun c =>
      (scaleBy (ampGain z.vampold.toInt z.vampnew.toInt) c).bind fun d =>
        if z.finished then scaleBy fadeOutGain d else .ok d

/-- VOUT of a live voice with DEST = 1: both channels added (R352). -/
def voiceSum (s t : State) (n v : Nat) : Sat (List Int) :=
  let l := (voiceChannel s t n v false).val
  let r := (voiceChannel s t n v true).val
  mapSat (fun i => sat32 (l.getD i 0 + r.getD i 0)) (List.range 256)

/-- A channel of the note before the global filter: the exact sum of the deposits, rounded once (R320, R352). -/
def noteDeposit (s t : State) (n : Nat) (right : Bool) : Sat (List Int) :=
  let bs := (List.range 8).map fun v =>
    if s.live n v && !(s.voice n v).dest then
      (voiceChannel s t n v right).val.map (· * (if right then (s.voice n v).vpanr else (s.voice n v).vpanl).toInt)
    else []
  mapSat (fun i => sat32 (fdiv ((bs.map (·.getD i 0)).sum + 8388608) 16777216)) (List.range 256)

/-- A channel of the note's output: global filter, amplitude, panning, legato gain, and the fade-out of a note that ends
(R351, R353, R362). -/
def noteChannel (s t : State) (n : Nat) (right : Bool) : Sat (List Int) :=
  let x := s.note n
  (noteDeposit s t n right).bind fun b =>
    (if x.gfen = 1 then (filtered s t n right.toNat b).map (·.1) else .ok b).bind fun c =>
      (scaleBy (ampGain (t.note n).gampold.toInt (t.note n).gampnew.toInt) c).bind fun d =>
        (scaleBy (fun _ => (if right then x.panr else x.panl).toInt) d).bind fun e =>
          (scaleBy (fun i => (Legato.after i ⟨x.legstate, x.silent, x.legcount, false⟩).gain) e).bind fun g =>
            if t.res0 = 0 then scaleBy fadeOutGain g else .ok g

/-- Some `sat32` in the block of voice v changes its argument (R14, R332 to R352). -/
def voiceSaturates (s t : State) (n v : Nat) : Bool :=
  let y := s.voice n v
  (blockPitch s t n v).sat || (modPitch s t n v).sat || (mapSat (subRatio s t n v) (List.range y.usize.toNat)).sat ||
    (y.usize != 1 && (mapSat (subStep s n v) (List.range y.usize.toNat)).sat) ||
    (voiceGain s t n v).sat || (voiceChannel s t n v false).sat || (voiceChannel s t n v true).sat ||
    (y.filterOn && (voiceCutoff s t n v).sat) || (y.dest && (voiceSum s t n v).sat)

/-- Some `sat32` in the block of the note changes its argument (R14, R320, R330 to R362). -/
def noteSaturates (s t : State) (n : Nat) : Bool :=
  ((List.range 27).any fun k => s.stepped n k &&
      ((s.flagsOf (sourceCall (BitVec.ofNat 8 n) k)).getLsbD 3 ||
        (s.flagsOf (.lfoOut (BitVec.ofNat 8 n) (BitVec.ofNat 8 k))).getLsbD 3)) ||
    (notePitch s t n).sat || (noteCutoff s t n).sat || (noteGain s t n).sat ||
    ((List.range 8).any fun v => s.live n v && voiceSaturates s t n v) || (noteChannel s t n false).sat ||
    (noteChannel s t n true).sat

/-! ## The transform's declared accuracy (R172 T5) -/

/-- An integer is the raw value of a Q8.24 number (R13). -/
def IsQ824 (x : Int) : Prop := -2147483648 ≤ x ∧ x ≤ 2147483647

/-- An output differs from the Q8.24 number nearest to the ideal by at most `eps` raw units; an ideal outside the range
counts as the end of the range (log entry 23, DEDUCED). -/
def Near (eps : Nat) (out : Int) (ideal : ℝ) : Prop :=
  (out - clamp (round ideal) (-2147483648) 2147483647).natAbs ≤ eps

/-- A spectrum as R171 has it: 512 Q8.24 bins, bin 0 at (0, 0). -/
def Spectrum.Legal (S : Spectrum) : Prop :=
  S.length = 512 ∧ S.bin 0 = (0, 0) ∧ ∀ k, IsQ824 (S.bin k).1 ∧ IsQ824 (S.bin k).2

/-- Every output of the inverse transform of a spectrum is within `eps` raw units of the sum of R171 over bins 1 to 511,
rounded to Q8.24 (R172). -/
def InverseAccurate (eps : Nat) : Prop :=
  ∀ (S : Spectrum) (n : Nat), S.Legal → n < 1024 →
    Near eps (invTSample S n) (∑ k ∈ Finset.Icc 1 511, (((S.bin k).1 : ℝ) * Real.cos (2 * Real.pi * k * n / 1024) +
      ((S.bin k).2 : ℝ) * Real.sin (2 * Real.pi * k * n / 1024)))

/-- Every output of the forward transform of L Q8.24 samples is within `eps` raw units of the ideal of R172. -/
def ForwardAccurate (eps : Nat) : Prop :=
  ∀ (x : List Int) (k : Nat), x.length = 1024 → (∀ y ∈ x, IsQ824 y) → 1 ≤ k → k < 512 →
    Near eps ((fwdT x).bin k).1
      (2 / 1024 * ∑ n ∈ Finset.range 1024, ((x.getD n 0 : Int) : ℝ) * Real.cos (2 * Real.pi * k * n / 1024)) ∧
    Near eps ((fwdT x).bin k).2
      (2 / 1024 * ∑ n ∈ Finset.range 1024, ((x.getD n 0 : Int) : ℝ) * Real.sin (2 * Real.pi * k * n / 1024))

/-- What a configuration that declares T5 promises; a claim may assume it, and no claim here does. -/
def TransformDeclaration : Prop := ∀ eps, Config.transformEps = some eps → InverseAccurate eps ∧ ForwardAccurate eps

end Sys2Proof.Machine
end

