-- ==== Sys2Proof/Certificates/Slice0/Obligations.lean ====
section
/-! DEFINITION. The statements for the provers, from the numbered rules of spec/. -/

open Sys2Proof Sys2Proof.Machine

/-! ## Encoding -/

/-- The worked encodings of R141, and one word of every other family, decode to the command they stand for. -/
def Obligations.DecodeWords : Prop :=
  decode ⟨0x00000341, 0, 0, 0⟩ = .ok (.noteOut 3) ∧
  decode ⟨0x00060222, 0, 0, 0⟩ = .ok (.envOutdb 2 6) ∧
  decode ⟨0x0D020111, 0x01B80000, 0, 0⟩ = .ok (.oscGet 1 2 5 true false 0x01B80000) ∧
  decode ⟨0x00020031, 0x03E80000, 0x00B50481, 0⟩ = .ok (.fltSetfq 0 2 0x03E80000 0x00B50481) ∧
  decode ⟨0x00000050, 0x00000005, 0, 0⟩ = .ok (.mixAll 0x0005) ∧
  decode ⟨0x00000001, 0, 0, 0⟩ = .ok .halt ∧
  decode ⟨0x001A0F29, 0, 0, 0⟩ = .ok (.lfoOut 15 26) ∧
  decode ⟨0x00000744, 0x09000000, 0x00800000, 0⟩ = .ok (.noteLegato 7 0x09000000 0x00800000)

/-- Decoding what was encoded gives the command back, from words and from bytes with any bytes behind them (R130 to
R134, R93): no bit of an operand is dropped. -/
def Obligations.DecodeEncode : Prop :=
  ∀ i : Instr, decode (encode i) = .ok i ∧ ∀ rest : List Byte, decodeBytes (encodeBytes i ++ rest) = .ok (i, rest)

/-- Four words have at most one reading, and it is the words of that command: every bit outside the operands is fixed
(R132, R134, R136). -/
def Obligations.EncodeDecode : Prop := ∀ (c : Words) (i : Instr), decode c = .ok i → encode i = c

/-- R135 with R131, R161 and R424: what is illegal, that an illegal command loads the latches with the words fetched, raises
IllegalCommand and changes nothing else (the load of the latches also by an illegal command is the model's reading, log
entry 4, DEDUCED), and that an index out of range is not illegal but raises IndexRange. -/
def Obligations.IllegalCommands : Prop :=
  (∀ c : Words, (∃ i, decode c = .ok i) ↔ Legal c) ∧
  (∀ (c : Words) (s : State), ¬ Legal c →
    runWords c s = .next ((s.latch c).raise .illegalCommand s.cptr c.w0)) ∧
  (∀ (i : Instr) (s : State), i.wellFormed = false → exec i s = .next (s.raise .indexRange s.cptr s.x0))

/-! ## The sequencer -/

/-- A step of SEQ with CPTR inside command memory fetches the four words at CPTR, loads the latches with them and runs the
command they decode to; words that decode to none raise IllegalCommand (R131, R138, R161; that the latches are loaded
with an illegal command's words too is log entry 4, DEDUCED). -/
def Obligations.StepRunsCommand : Prop :=
  ∀ (s : State) (rest : List Turn) (c : Words), SeqNext s rest → s.cptr.toNat < 0x1000 → s.cptr.toNat % 16 = 0 →
    s.mem.word? (0x1000 + s.cptr.toNat) = some c.w0 → s.mem.word? (0x1000 + s.cptr.toNat + 4) = some c.w1 →
    s.mem.word? (0x1000 + s.cptr.toNat + 8) = some c.w2 → s.mem.word? (0x1000 + s.cptr.toNat + 12) = some c.w3 →
      (∀ i, decode c = .ok i →
        step s = exec i { s with turns := rest, x0 := c.w0, x1 := c.w1, x2 := c.w2, x3 := c.w3 }) ∧
      (∀ e, decode c = .error e →
        step s = .next (State.raise { s with turns := rest, x0 := c.w0, x1 := c.w1, x2 := c.w2, x3 := c.w3 }
          .illegalCommand s.cptr c.w0))

/-- R163: a step that begins with the pointer at 0x1000 raises CmdPtr; the pointer stays. -/
def Obligations.RunsOffTheEnd : Prop :=
  ∀ (s : State) (rest : List Turn), SeqNext s rest → s.cptr = 0x1000 →
    ∃ t, step s = .next t ∧ t = State.raise { s with turns := rest } .cmdPtr 0x1000 0 ∧ t.faultCode = 5 ∧
      t.faultPtr = 0x1000 ∧ t.faultInfo = 0 ∧ t.cptr = 0x1000 ∧ t.status.busy = false ∧ t.status.fault = true

/-- Every command answers a next state: where the table of R422 gives it a fault it raises that one, with the pointer at
the command and W0 as info, and changes nothing else; otherwise it completes, and CPTR has moved on by 16, for HALT not
at all (R162, R421, R422, R423, R425). -/
def Obligations.CompletesOrFaults : Prop :=
  ∀ (i : Instr) (s : State), ∃ t, exec i s = .next t ∧
    match faultOf i s with
    | some k => t = s.raise k s.cptr s.x0
    | none => t.cptr = if i = .halt then s.cptr else s.cptr + 16

/-- A command that raises no fault changes nothing outside its footprint: no other note slot, oscillator, control
register, flag or result register, and no byte of memory but those of the buffers its rule writes (that ENV.OUT and ENV.OUTDB
may raise ERR.SAT is log entry 6, DEDUCED). -/
def Obligations.CommandFrames : Prop :=
  ∀ (i : Instr) (s t : State), i ≠ .halt → faultOf i s = none → exec i s = .next t → Ran i s t

/-- No command writes a configuration register or a configuration cell: the registers of every note (but LOG2FREQ, VELOCITY,
CUTOFF and RNG), the configuration and version of every oscillator, the controllers, VOICE_CAP and IRQ_EN, and in memory
HMAG, HPHASE, DT, VAL, RBASE, POS, INVERT and CMDMEM keep what HOST wrote (R33, R50, R53, R66, R69, R173, R319). -/
def Obligations.ConfigurationKept : Prop :=
  ∀ (i : Instr) (s t : State), exec i s = .next t →
    (∀ n, (s.note n).SameConfig (t.note n)) ∧
    (∀ o, (t.osc o).cfg = (s.osc o).cfg ∧ (t.osc o).cfgver = (s.osc o).cfgver) ∧
    t.ctl = s.ctl ∧ t.voiceCap = s.voiceCap ∧ t.irqEn = s.irqEn ∧
    ∀ a, configBytes a → t.mem.byte? a = s.mem.byte? a

/-- Taking a fault and returning from it: what fault entry saves and changes, with the code of each cause (R421, R424),
and that the acknowledge clears FAULT and nothing else (R426). That fault entry clears a DONE that was 1 is the model's
reading of R45 and of R424's comment (log entry 5, DEDUCED). -/
def Obligations.FaultEntryAndReturn : Prop :=
  (∀ (s : State) (k : FaultKind) (ptr : BitVec 13) (info : Word), s.raise k ptr info =
    { s with
      faultCode := match k with
        | .illegalCommand => 1
        | .indexRange => 2
        | .noteInactive => 3
        | .slotBusy => 4
        | .cmdPtr => 5
      faultPtr := ptr, faultInfo := info, status := { busy := false, done := false, fault := true },
      irqPend := s.irqPend ||| 0x02 }) ∧
  (∀ (s : State) (rest : List Turn) (v : Word), s.turns = .host (.write .w32 0x5C v) :: rest →
    step s = .next { s with turns := rest, status := { s.status with fault := false } })

/-- R160: the four cases of a HOST write to CMD_START. That the fault of a bad value clears the DONE of a completed list is
the model's reading of R45 and of R424's comment (log entry 5, DEDUCED). -/
def Obligations.ListStart : Prop :=
  ∀ (s : State) (rest : List Turn) (w : Word), s.turns = .host (.write .w32 0x40 w) :: rest →
    (s.status.busy = true → step s = .next (State.setErr { s with turns := rest } .busyAcc)) ∧
    (s.status.busy = false → s.status.fault = true →
      step s = .next (State.setErr { s with turns := rest } .busErr)) ∧
    (s.status.busy = false → s.status.fault = false → (w.toNat % 16 ≠ 0 ∨ 0x1000 ≤ w.toNat) →
      ∃ t, step s = .next t ∧ t = State.raise { s with turns := rest } .cmdPtr (w.extractLsb' 0 13) w ∧
        t.faultCode = 5 ∧ t.status.busy = false ∧ t.status.done = false ∧ t.status.fault = true ∧ t.cptr = s.cptr) ∧
    (s.status.busy = false → s.status.fault = false → w.toNat % 16 = 0 → w.toNat < 0x1000 →
      step s = .next { s with
        turns := rest, cptr := BitVec.ofNat 13 w.toNat, status := { s.status with busy := true, done := false } })

/-- The only step without a next state is SEQ's fetch of command words that nothing has written since reset (R72; the
model's choice, log entry 1): HOST accesses, workers and every fetched command go on. -/
def Obligations.StepTotal : Prop :=
  ∀ s : State, (∃ t, step s = .next t) ∨
    (step s = .fault .undefFetch ∧ s.status.busy = true ∧ s.cptr.toNat < 0x1000 ∧ s.fetch = none)

/-- R164: NOP's one encoding, that it only moves CPTR, that any other bit makes it illegal, and that zeroed command memory
is a run of NOPs that ends in fault CmdPtr at 0x1000. The run is that of an empty agenda, on which SEQ steps while BUSY = 1
(log entry 2, DESIGN CHOICE); that an illegal command loads the latches too is log entry 4 (DEDUCED). -/
def Obligations.NopRule : Prop :=
  encode .nop = ⟨0, 0, 0, 0⟩ ∧
  (∀ s : State, exec .nop s = .next { s with cptr := s.cptr + 16 }) ∧
  (∀ (c : Words) (s : State), c.w0.extractLsb' 0 8 = 0x00#8 → c ≠ ⟨0, 0, 0, 0⟩ →
    runWords c s = .next ((s.latch c).raise .illegalCommand s.cptr c.w0)) ∧
  (∀ s : State, s.turns = [] → s.status.busy = true → s.cptr = 0 →
    (∀ w, w < 1024 → s.mem.word? (0x1000 + 4 * w) = some 0) →
      ∃ t, stepsFrom 257 s = some t ∧
        t = State.raise { s with x0 := 0, x1 := 0, x2 := 0, x3 := 0, cptr := 0x1000 } .cmdPtr 0x1000 0)

/-- R165: HALT's encoding, what it does (the pointer, the results and everything else stay), and that any other bit makes
it illegal (that the illegal command loads the latches too is log entry 4, DEDUCED). -/
def Obligations.HaltRule : Prop :=
  encode .halt = ⟨0x00000001, 0, 0, 0⟩ ∧
  (∀ s : State, exec .halt s =
    .next { s with status := { s.status with busy := false, done := true }, irqPend := s.irqPend ||| 0x01 }) ∧
  (∀ (c : Words) (s : State), c.w0.extractLsb' 0 8 = 0x01#8 → c ≠ ⟨0x00000001, 0, 0, 0⟩ →
    runWords c s = .next ((s.latch c).raise .illegalCommand s.cptr c.w0))

/-! ## Invariants of every step -/

/-- Memory keeps its canonical form. -/
def Obligations.MemoryStaysCanonical : Prop :=
  ∀ s t : State, s.mem.wf = true → step s = .next t → t.mem.wf = true

/-- CPTR stays a multiple of 16 up to 0x1000, and no two of BUSY, DONE and FAULT are 1 together (R32, R43, R45; after a bad
start by log entry 5, DEDUCED). -/
def Obligations.SequencerKept : Prop := ∀ s t : State, SequencerInv s → step s = .next t → SequencerInv t

/-- NVOICES stays the number of created voices, and an inactive slot has none (R49, R353). -/
def Obligations.BudgetKept : Prop := ∀ s t : State, BudgetInv s → step s = .next t → BudgetInv t

/-- The legato windows stay inside their bounds in every note (R59, R367). -/
def Obligations.LegatoKept : Prop := ∀ s t : State, LegatoInv s → step s = .next t → LegatoInv t

/-- A clean oscillator stays one whose published bank carries the present configuration's version (R53); and its published
bank stays PrepareFn of the present configuration, spectrum and waveform, where the harmonic tables are written (R117,
R187, R205 to R210), over every step in which no configuration write brings CFGVER round to the version of a running
job's snapshot (2^32 writes during one job). -/
def Obligations.FreshKept : Prop :=
  (∀ s t : State, FreshInv s → step s = .next t → FreshInv t) ∧
  (∀ s t : State, BanksInv s → step s = .next t →
    (∀ o j, o < 16 → (t.osc o).job = some j → (t.osc o).cfgver ≠ (s.osc o).cfgver → (t.osc o).cfgver ≠ j.snapVer) →
      BanksInv t)

/-- Every envelope's cursor stays inside its table and its time below ONE (R231, R234, R238, R240). -/
def Obligations.EnvelopesKept : Prop := ∀ s t : State, EnvelopeInv s → step s = .next t → EnvelopeInv t

/-- Every created voice keeps a unison size of 1 to 50 and one of the five topologies (R314, R315). -/
def Obligations.VoicesKept : Prop := ∀ s t : State, VoiceInv s → step s = .next t → VoiceInv t

/-- No step but reset changes a byte of a published bank (R55, R113). -/
def Obligations.PublishedBankKept : Prop :=
  ∀ (s t : State) (o : Nat), o < 16 → (∀ rest, s.turns ≠ .reset :: rest) → step s = .next t →
    ∀ a, bankBytes o (s.osc o).pubsel a → t.mem.byte? a = s.mem.byte? a

/-- R431 and R432: a step that raises an ERR bit pends IRQ_PEND.ERR, a step that raises none does not, and HOST's clearing of
ERR bits clears no pending bit; the line is high exactly when an enabled source is pending, so it is low while no source is
enabled, and IRQ_EN, which is 0 after reset, changes only by HOST's write to it or by reset. -/
def Obligations.ErrInterrupt : Prop :=
  (∀ s t : State, step s = .next t →
    ((∃ i, s.err.getLsbD i = false ∧ t.err.getLsbD i = true) → t.irqPend.getLsbD 2 = true) ∧
    ((∀ i, t.err.getLsbD i = true → s.err.getLsbD i = true) → t.irqPend.getLsbD 2 = true →
      s.irqPend.getLsbD 2 = true)) ∧
  (∀ (s : State) (rest : List Turn) (v : Word), s.turns = .host (.write .w32 0x4C v) :: rest →
    step s = .next { s with turns := rest, err := s.err &&& ~~~(v.extractLsb' 0 8) }) ∧
  (∀ s : State, s.irq = true ↔ ∃ i, i < 5 ∧ s.irqPend.getLsbD i = true ∧ s.irqEn.getLsbD i = true) ∧
  (State.reset.irqEn = 0 ∧ (∀ s : State, s.irqEn = 0 → s.irq = false) ∧
    ∀ s t : State, step s = .next t → t.irqEn ≠ s.irqEn →
      (∃ rest v, s.turns = .host (.write .w32 0x60 v) :: rest) ∨ ∃ rest, s.turns = .reset :: rest)

/-- The state after reset satisfies every invariant stated here. -/
def Obligations.ResetInvariants : Prop :=
  State.reset.mem.wf = true ∧ SequencerInv State.reset ∧ BudgetInv State.reset ∧ LegatoInv State.reset ∧
    FreshInv State.reset ∧ BanksInv State.reset ∧ EnvelopeInv State.reset ∧ VoiceInv State.reset

/-- R472 and R470: after reset every mapped word reads as its listed value, 0, or no value; and the reset input, at any
time, puts the block into that state; that the model's own agenda, counters and mark go on is log entry 16 (DESIGN CHOICE). -/
def Obligations.ResetMap : Prop :=
  (∀ (a : Nat) (g : Reg), a % 4 = 0 → locate a = some g →
    g.read State.reset = if undefAfterReset a then none else some (resetWord a)) ∧
  (∀ (s : State) (rest : List Turn), s.turns = .reset :: rest →
    step s = .next { State.reset with
      turns := rest, busReads := s.busReads, undefReads := s.undefReads, undefRead := s.undefRead })

/-! ## Envelopes and LFOs -/

/-- R234: ENV.RESET. -/
def Obligations.EnvResetResult : Prop :=
  ∀ (n k : Byte) (s : State), n.toNat < 16 → k.toNat < 27 →
    let e := s.env n.toNat k.toNat
    let np := if 40 < e.npts.toNat then 40 else if e.npts.toNat = 0 then 1 else e.npts.toNat
    let v0 := s.cell (valAddr n.toNat k.toNat 0)
    ∃ t, exec (.envReset n k) s = .next t ∧
      t.note n.toNat = { s.note n.toNat with
        envs := (s.note n.toNat).envs.setIfInBounds k.toNat { e with
          enpts := BitVec.ofNat 8 np
          esust := if e.sust = 0xFF then 0xFF else if np ≤ e.sust.toNat then 0xFF
            else if e.sust.toNat = np - 1 then 0xFF else e.sust
          ecur := 1, et := 0, released := false, frpend := e.eflags.getLsbD 0, finished := decide (np = 1),
          ev0 := v0, eout := v0, erelval := v0, eret := 0 } } ∧
      t.err = s.err ||| (if 40 < e.npts.toNat ∨ e.npts.toNat = 0 then 0x04 else 0) |||
        (if e.sust ≠ 0xFF ∧ np ≤ e.sust.toNat then 0x02 else 0)

/-- R235 to R240: ENV.OUT, case by case in the order of R235; ERR.SAT rises exactly when the interpolation narrows (R14;
against R236's "never", log entry 6, DEDUCED). -/
def Obligations.EnvOutResult : Prop :=
  ∀ (n k : Byte) (s : State), n.toNat < 16 → k.toNat < 27 →
    let e := s.env n.toNat k.toNat
    let DT := fun i => (s.cell (dtAddr n.toNat k.toNat i)).toNat
    let VAL := fun i => (s.cell (valAddr n.toNat k.toNat i)).toInt
    ∃ t e', ∃ r : Sat Int, exec (.envOut n k) s = .next t ∧
      let out := r.val
      t.note n.toNat = { s.note n.toNat with
        envs := (s.note n.toNat).envs.setIfInBounds k.toNat { e' with eret := toWord out } } ∧
      t.res0 = toWord out ∧ t.res1 = (if e.enpts = 0 ∨ e'.finished = true then 1 else 0) ∧
      t.err = s.err ||| (if r.sat then 0x08 else 0) ∧
      if e.enpts = 0 then r = .ok 0 ∧ e' = e
      else if e.finished = true then r = .ok (VAL (e.enpts.toNat - 1)) ∧ e' = { e with eout := toWord out }
      else if e.esust ≠ 0xFF ∧ e.ecur.toNat = e.esust.toNat + 1 ∧ e.released = false then
        r = .ok (VAL e.esust.toNat) ∧ e' = { e with eout := toWord out, finished := e'.finished } ∧
        (e'.finished = true ↔ e.eflags.getLsbD 3 = true ∧ e.eflags.getLsbD 1 = true ∧
          ∀ i, e.esust.toNat ≤ i → i < e.enpts.toNat → VAL i = Config.MIN_DB)
      else if e.released = true ∧ e.frpend = true then
        let tmp := if e.esust = 0xFF then e.enpts.toNat - 1 else e.esust.toNat + 1
        r = (if 16777216 ≤ DT tmp then .ok (VAL tmp) else lerp e.erelval.toInt (VAL tmp) e.et.toNat) ∧
        e' = if e.et.toNat + DT tmp < 16777216 then
            { e with eout := toWord out, et := BitVec.ofNat 32 (e.et.toNat + DT tmp) }
          else { e with
            eout := toWord out, ecur := BitVec.ofNat 8 (tmp + 1), et := 0, frpend := false
            finished := decide (e.enpts.toNat ≤ tmp + 1 ∨ e.esust = 0xFF) }
      else
        let c := e.ecur.toNat
        r = (if 16777216 ≤ DT c then .ok (VAL c)
          else lerp (if c = 1 then e.ev0.toInt else VAL (c - 1)) (VAL c) e.et.toNat) ∧
        e' = if e.et.toNat + DT c < 16777216 then
            { e with eout := toWord out, et := BitVec.ofNat 32 (e.et.toNat + DT c) }
          else if e.enpts.toNat - 1 ≤ c then { e with eout := toWord out, finished := true, et := 0 }
          else if e.eflags.getLsbD 2 = true ∧ e.esust ≠ 0xFF ∧ c = e.esust.toNat ∧ e.released = false then
            { e with eout := toWord out, ev0 := s.cell (valAddr n.toNat k.toNat c), ecur := 1, et := 0 }
          else { e with eout := toWord out, ecur := BitVec.ofNat 8 (c + 1), et := 0 }

/-- R242 and R243: ENV.OUTDB is ENV.OUT for a linear envelope and for an unconfigured one (for the latter with DB = 1 the
model's reading, log entry 7); the first segment of a dB envelope runs linearly in amplitude; every other call returns
db2lin of what ENV.OUT returns and leaves the same registers and flags but ERET; ERR.SAT rises exactly when the interpolation
narrows (R14; against R242's "none", log entry 6, DEDUCED). Nothing else of the note changes in any case. -/
def Obligations.EnvOutdbResult : Prop :=
  ∀ (n k : Byte) (s : State), n.toNat < 16 → k.toNat < 27 →
    let e := s.env n.toNat k.toNat
    let first := e.finished = false ∧ e.ecur = 1 ∧ ¬ (e.esust = 0 ∧ e.released = false) ∧
      ¬ (e.released = true ∧ e.frpend = true)
    let dt := (s.cell (dtAddr n.toNat k.toNat 1)).toNat
    let v1 := s.cell (valAddr n.toNat k.toNat 1)
    let r := if 16777216 ≤ dt then .ok (db2lin v1.toInt) else lerp (db2lin e.ev0.toInt) (db2lin v1.toInt) e.et.toNat
    let lin := r.val
    ∃ t u, exec (.envOut n k) s = .next u ∧ exec (.envOutdb n k) s = .next t ∧
      if e.eflags.getLsbD 1 = false ∨ e.enpts = 0 then t = u
      else if first then
        t.note n.toNat = { s.note n.toNat with
          envs := (s.note n.toNat).envs.setIfInBounds k.toNat { u.env n.toNat k.toNat with
            eout := toWord (lin2db lin), eret := toWord lin } } ∧
        t.res0 = toWord lin ∧ t.res1 = u.res1 ∧
        t.err = s.err ||| (if r.sat then 0x08 else 0)
      else t = (u.setEnv n.toNat k.toNat { u.env n.toNat k.toNat with
        eret := toWord (db2lin u.res0.toInt) }).setRes0 (toWord (db2lin u.res0.toInt))

/-- R244 and R245: ENV.RELEASE and ENV.FINISH, with everything else unchanged. That ENV.RELEASE writes ERELVAL, and under a
pending forced release ET, of a finished envelope too is the model's reading of R244 (log entry 24, DEDUCED). -/
def Obligations.EnvReleaseFinish : Prop :=
  ∀ (n k : Byte) (s : State), n.toNat < 16 → k.toNat < 27 →
    let e := s.env n.toNat k.toNat
    let put := fun e' => { s with
      cptr := s.cptr + 16
      notes := s.notes.setIfInBounds n.toNat { s.note n.toNat with
        envs := (s.note n.toNat).envs.setIfInBounds k.toNat e' } }
    exec (.envRelease n k) s = .next (put (if e.enpts = 0 ∨ e.released = true then e
      else { e with released := true, erelval := e.eout, et := if e.frpend then 0 else e.et })) ∧
    exec (.envFinish n k) s = .next (put (if e.enpts = 0 then e else { e with finished := true }))

/-- R241 (b): once an envelope is finished, every later ENV.OUT returns VAL[ENPTS-1] and changes no register of it but EOUT
and ERET, which hold that value. -/
def Obligations.FinishedConstant : Prop :=
  ∀ (n k : Byte) (s : State) (w : Word) (j : Nat), n.toNat < 16 → k.toNat < 27 →
    let e := s.env n.toNat k.toNat
    e.enpts ≠ 0 → e.finished = true → s.mem.word? (valAddr n.toNat k.toNat (e.enpts.toNat - 1)) = some w →
      ∃ t, repeated (.envOut n k) (j + 1) s = some t ∧ t.res0 = w ∧ t.res1 = 1 ∧
        t.env n.toNat k.toNat = { e with eout := w, eret := w }

/-- R241 (c), R15 and R14: an interpolated value lies between the two values it interpolates; it is the start value plus the
rounded product, clamped to 32 bits, and the flag rises exactly when that clamp changes it; the law lerp(a, b, 0) = a; and,
without a flag, lerp(a, b, ONE) = b wherever b - a fits 32 bits (elsewhere R15's formula is kept against that law: log
entry 6, DEDUCED). -/
def Obligations.LerpBetween : Prop :=
  ∀ a b x : Int, -2147483648 ≤ a → a ≤ 2147483647 → -2147483648 ≤ b → b ≤ 2147483647 → 0 ≤ x → x ≤ 16777216 →
    let p := fdiv ((b - a) * x + 8388608) 16777216
    min a b ≤ (lerp a b x).val ∧ (lerp a b x).val ≤ max a b ∧
    (lerp a b x).val = a + clamp p (-2147483648) 2147483647 ∧
    ((lerp a b x).sat = true ↔ p < -2147483648 ∨ 2147483647 < p) ∧ lerp a b 0 = .ok a ∧
    (-2147483648 ≤ b - a → b - a ≤ 2147483647 → lerp a b 16777216 = .ok b)

/-- R256, R257 and R251: LFO.RESET and LFO.OUT. -/
def Obligations.LfoResult : Prop :=
  ∀ (n k : Byte) (s : State), n.toNat < 16 → k.toNat < 27 →
    let l := s.lfo n.toNat k.toNat
    let p : Int := l.lphase.toNat
    let put := fun l' => { s.note n.toNat with lfos := (s.note n.toNat).lfos.setIfInBounds k.toNat l' }
    let shape : Int :=
      if l.lshape = 1 then
        (if p < 4194304 then 4 * p else if p < 12582912 then 33554432 - 4 * p else 4 * p - 67108864)
      else if l.lshape = 2 then (if p < 8388608 then 16777216 else -16777216)
      else if l.lshape = 3 then 2 * p - 16777216
      else if l.lshape = 4 then 16777216 - 2 * p
      else sinRom (l.lphase.toNat / 16384)
    let out := qmul shape l.ldepth.toInt
    (∃ t, exec (.lfoReset n k) s = .next t ∧
      t.note n.toNat = put { l with lphase := l.lphase0, ldcnt := l.ldelay, lout := 0 } ∧
      t.err = s.err ||| (if 4 < l.lshape.toNat then 0x02 else 0)) ∧
    (∃ t, exec (.lfoOut n k) s = .next t ∧
      if l.ldcnt = 0 then
        t.note n.toNat = put { l with lphase := BitVec.ofNat 24 (l.lphase.toNat + l.linc.toNat), lout := toWord out.val } ∧
        t.res0 = toWord out.val ∧ t.err = s.err ||| (if out.sat then 0x08 else 0)
      else
        t.note n.toNat = put { l with ldcnt := BitVec.ofNat 16 (l.ldcnt.toNat - 1), lout := 0 } ∧ t.res0 = 0 ∧
        t.err = s.err)

/-! ## Filters -/

/-- R281, R283 to R285 and R291: FLT.SETFQ, FLT.SETFREQ (with the Q of the last setter) and FLT.CLEANUP. -/
def Obligations.FltConfigResult : Prop :=
  ∀ (n f : Byte) (freq q : Word) (s : State), n.toNat < 16 → f.toNat < 18 →
    let x := s.flt n.toNat f.toNat
    let fr := if freq.toNat < 6554 then 6554 else if 1445068800 < freq.toNat then 1445068800 else freq.toNat
    let qq : Int := if q.toInt < 167772 then 167772 else q.toInt
    let nst := if x.fstages = 0 then 1 else if 5 < x.fstages.toNat then 5 else x.fstages.toNat
    let cfgBad : BitVec 8 := if x.fstages = 0 ∨ 5 < x.fstages.toNat then 0x02 else 0
    let put := fun x' => { s.note n.toNat with flts := (s.note n.toNat).flts.setIfInBounds f.toNat x' }
    (∃ t, exec (.fltSetfq n f freq q) s = .next t ∧
      t.note n.toNat = put { x with
        fnst := BitVec.ofNat 3 nst, ffreq := BitVec.ofNat 32 fr, fq := toWord qq
        fc := Vector.ofFn fun j => toWord (filterCoef x.fkind.toNat x.ftype.toNat fr qq nst j.val) } ∧
      t.err = s.err ||| (if fr ≠ freq.toNat ∨ qq ≠ q.toInt then 0x04 else 0) ||| cfgBad) ∧
    (∃ t, exec (.fltSetfreq n f freq) s = .next t ∧ exec (.fltSetfq n f freq x.fq) s = .next t) ∧
    (∃ t, exec (.fltCleanup n f) s = .next t ∧
      t.note n.toNat = put { x with fst := Vector.replicate 5 ⟨0, 0, 0, 0⟩, fnst := BitVec.ofNat 3 nst } ∧
      t.err = s.err ||| cfgBad)

/-- R286 and R105: FLT.OUT leaves the buffer as it is when the filter was never configured; otherwise the buffer holds the
filtered samples, the filter the stage states they leave, and ERR.SAT rises if a stage saturated. That the buffer may be OUTL
or OUTR is the model's reading of R105, R286 and R482 against R64 (log entry 25, DEDUCED), and that an FNST above 5 counts as
5 is log entry 12 (DEDUCED). -/
def Obligations.FltOutResult : Prop :=
  ∀ (n f buf : Byte) (s : State), n.toNat < 16 → f.toNat < 18 →
    (buf.toNat = 0 ∨ buf.toNat = 1 ∨ 16 ≤ buf.toNat ∧ buf.toNat ≤ 23) →
    let x := s.flt n.toNat f.toNat
    let a := if buf.toNat = 0 then noteBase n.toNat + 0x8000 else if buf.toNat = 1 then noteBase n.toNat + 0x8400
      else noteBase n.toNat + 0x10000 + (buf.toNat - 16) * 0x8000 + 0x2000
    let m := min x.fnst.toNat 5
    let r := filterSamples x (x.fst.toList.take m) (s.signedCells a 256)
    ∃ t, exec (.fltOut n f buf) s = .next t ∧
      if x.fnst = 0 then t = { s with cptr := s.cptr + 16 }
      else
        t.cells a 256 = r.val.1.map toWord ∧ r.val.1.length = 256 ∧
        (t.flt n.toNat f.toNat).fst.toList = r.val.2 ++ x.fst.toList.drop m ∧
        t.note n.toNat = { s.note n.toNat with
          flts := (s.note n.toNat).flts.setIfInBounds f.toNat { x with fst := (t.flt n.toNat f.toNat).fst } } ∧
        t.err = s.err ||| (if r.sat then 0x08 else 0)

/-- R287, R289 and R14: the recurrences that one stage computes over a block, and that ERR.SAT rises exactly when one of their
narrowings changes its argument. `U` is the input with the two samples before it, `Y` the output with the two before it
(biquad); for a state-variable stage the four lists are its state words over time. All-zero state and input give all-zero output (R286). -/
def Obligations.StageRecurrences : Prop :=
  (∀ (x : Flt) (g : FltStage) (us : List Int), x.fkind = 0 → (∀ u ∈ us, -2147483648 ≤ u ∧ u ≤ 2147483647) →
    let r := filterSamples x [g] us
    let U := g.s1.toInt :: g.s0.toInt :: us
    let Y := g.s3.toInt :: g.s2.toInt :: r.val.1
    let m := us.length
    let sum := fun i => fdiv (x.coef 0 * U.getD (i + 2) 0 + x.coef 1 * U.getD (i + 1) 0 + x.coef 2 * U.getD i 0
      - x.coef 3 * Y.getD (i + 1) 0 - x.coef 4 * Y.getD i 0 + 8388608) 16777216
    r.val.1.length = m ∧
    (∀ i, i < m → Y.getD (i + 2) 0 = clamp (sum i) (-2147483648) 2147483647) ∧
    (r.sat = true ↔ ∃ i, i < m ∧ (sum i < -2147483648 ∨ 2147483647 < sum i)) ∧
    r.val.2 = [⟨toWord (U.getD (m + 1) 0), toWord (U.getD m 0), toWord (Y.getD (m + 1) 0), toWord (Y.getD m 0)⟩]) ∧
  (∀ (x : Flt) (g : FltStage) (us : List Int), x.fkind = 1 →
    ∃ low high band notch : List Int,
      low.length = us.length + 1 ∧ high.length = us.length + 1 ∧ band.length = us.length + 1 ∧
      notch.length = us.length + 1 ∧ low.getD 0 0 = g.s0.toInt ∧ band.getD 0 0 = g.s1.toInt ∧
      high.getD 0 0 = g.s2.toInt ∧ notch.getD 0 0 = g.s3.toInt ∧
      (∀ i, i < us.length →
        low.getD (i + 1) 0 = (sat32 (low.getD i 0 + (qmul (x.coef 0) (band.getD i 0)).val)).val ∧
        high.getD (i + 1) 0 = (sat32 ((qmul (x.coef 2) (us.getD i 0)).val - low.getD (i + 1) 0
          - (qmul (x.coef 1) (band.getD i 0)).val)).val ∧
        band.getD (i + 1) 0 = (sat32 (band.getD i 0 + (qmul (x.coef 0) (high.getD (i + 1) 0)).val)).val ∧
        notch.getD (i + 1) 0 = (sat32 (high.getD (i + 1) 0 + low.getD (i + 1) 0)).val ∧
        (filterSamples x [g] us).val.1.getD i 0 =
          [low.getD (i + 1) 0, high.getD (i + 1) 0, band.getD (i + 1) 0, notch.getD (i + 1) 0].getD
            (x.ftype.toNat % 4) 0) ∧
      ((filterSamples x [g] us).sat = true ↔ ∃ i, i < us.length ∧
        let c0b := qmul (x.coef 0) (band.getD i 0)
        let c1b := qmul (x.coef 1) (band.getD i 0)
        let c2u := qmul (x.coef 2) (us.getD i 0)
        let c0h := qmul (x.coef 0) (high.getD (i + 1) 0)
        (c0b.sat || c1b.sat || c2u.sat || c0h.sat || (sat32 (low.getD i 0 + c0b.val)).sat ||
          (sat32 (c2u.val - low.getD (i + 1) 0 - c1b.val)).sat || (sat32 (band.getD i 0 + c0h.val)).sat ||
          (sat32 (high.getD (i + 1) 0 + low.getD (i + 1) 0)).sat) = true) ∧
      (filterSamples x [g] us).val.2 = [⟨toWord (low.getD us.length 0), toWord (band.getD us.length 0),
        toWord (high.getD us.length 0), toWord (notch.getD us.length 0)⟩]) ∧
  (∀ (x : Flt) (gs : List FltStage) (us : List Int), (∀ g ∈ gs, g = ⟨0, 0, 0, 0⟩) → (∀ u ∈ us, u = 0) →
    filterSamples x gs us = ⟨(us, gs), false⟩)

/-- R286: a cascade computes what its stages compute one after the other over the whole block. -/
def Obligations.FilterStagewise : Prop :=
  ∀ (x : Flt) (g : FltStage) (gs : List FltStage) (us : List Int),
    let a := filterSamples x [g] us
    let b := filterSamples x gs a.val.1
    filterSamples x (g :: gs) us = ⟨(b.val.1, a.val.2 ++ b.val.2), a.sat || b.sat⟩

/-! ## Oscillators -/

/-- R186, R187 and R54: the three cases of OSC.PREPARE; after the third one the published bank holds PrepareFn of the
configuration with bin 0 at (0, 0), and a second OSC.PREPARE changes nothing but RES0. -/
def Obligations.OscPrepareResult : Prop :=
  ∀ (o : Byte) (s : State), o.toNat < 16 →
    let x := s.osc o.toNat
    let S := prepareSpectrum x.cfg (codes (s.cells (0x10000 + o.toNat * 0x1000) 128))
      (codes (s.cells (0x10000 + o.toNat * 0x1000 + 0x200) 128))
    ∃ t, exec (.oscPrepare o) s = .next t ∧
      if x.dirty = false then t = { s with res0 := 0, cptr := s.cptr + 16 }
      else if x.job.isSome then t = { s with res0 := 2, cptr := s.cptr + 16 }
      else
        t.osc o.toNat = { x with pubsel := !x.pubsel, valid := true, pubver := x.cfgver, dirty := false } ∧
        t.cells (specAddr o.toNat (t.osc o.toNat).pubsel) 1024 = spectrumWords S.val ∧ S.val.bin 0 = (0, 0) ∧
        t.cells (waveAddr o.toNat (t.osc o.toNat).pubsel) 1024 = (invT S.val).map toWord ∧
        t.err = s.err ||| (if x.cfg.prepareBad then 0x02 else 0) ||| (if S.sat then 0x08 else 0) ∧ t.res0 = 1 ∧
        exec (.oscPrepare o) t = .next { t with res0 := 0, cptr := t.cptr + 16 }

/-- R178, R198 and R199: a table with one enabled harmonic h at phase code 64, sine base, all stages off, prepares to a
spectrum that is ±ONE in the sine cell of bin h and zero elsewhere, with no saturation, for every magnitude type, magnitude
code and normalisation mode. -/
def Obligations.PureHarmonic : Prop :=
  ∀ (c : OscCfg) (hmag hphase : List Nat) (h : Nat), 1 ≤ h → h ≤ 128 →
    (∀ i, i ≠ h - 1 → hmag.getD i 64 = 64) → hmag.getD (h - 1) 64 ≠ 64 → hmag.getD (h - 1) 64 < 128 →
    hphase.getD (h - 1) 64 = 64 → c.basefunc = 0 → c.wstype = 0 → c.sftype = 0 → c.satype = 0 → c.hshift = 0 →
    c.adapt = 0 →
      prepareSpectrum c hmag hphase = ⟨(List.range 512).map fun k =>
        if k = h then (0, if 64 < hmag.getD (h - 1) 64 then 16777216 else -16777216) else (0, 0), false⟩

/-- R173, R174, R177 to R185, R198 and R199: the content of PrepareFn, bin by bin, for every configuration and harmonic
table (`PreparedIs`): the composite of the enabled harmonics (a disabled one adds nothing), the four stages in the order
of STAGEORDER, the remap, the normalisation, bin 0 at (0, 0), and the saturation flag exactly when some narrowing
changes its argument; and ERR.CFG exactly for a selector out of range or a STAGEORDER that is no permutation (R173,
R180). So the phase code of a disabled harmonic changes nothing (R200 (b)); with every harmonic disabled and no adaptive
remap the spectrum is all zero (R186; a remap may make a non-zero one of it, log entry 26, DEDUCED). -/
def Obligations.DisabledHarmonics : Prop :=
  (∀ (c : OscCfg) (hmag hphase : List Nat), PreparedIs c hmag hphase (prepareSpectrum c hmag hphase)) ∧
  (∀ c : OscCfg, c.prepareBad = true ↔ 4 < c.magtype.toNat ∨ c.satype = 3 ∨ c.normmode = 3 ∨ c.randmode = 3 ∨
    c.amprandtype = 3 ∨ ¬ ∀ id, id < 4 → ∃ p, p < 4 ∧ c.stageorder.toNat / 4 ^ p % 4 = id) ∧
  (∀ (c : OscCfg) (hmag hp hp' : List Nat),
    (∀ i, i < 128 → hmag.getD i 64 ≠ 64 → hp.getD i 64 = hp'.getD i 64) →
      prepareSpectrum c hmag hp = prepareSpectrum c hmag hp') ∧
  (∀ (c : OscCfg) (hmag hphase : List Nat), (∀ i, hmag.getD i 64 = 64) → c.adapt = 0 →
    prepareSpectrum c hmag hphase = ⟨List.replicate 512 (0, 0), false⟩)

/-- R189 and R190: OSC.GET from an oscillator that it does not prepare: silence when no table was ever published, and with
AA = 0 a copy of the published waveform, KEEP = 511, and the start offset of R196. That it sets ERR.CFG for a NORMMODE,
RANDMODE or AMPRANDTYPE of 3 also with AA = 0, and not when it delivers silence, is the model's reading of R173 (log entry
8, DEDUCED). -/
def Obligations.OscGetPlain : Prop :=
  ∀ (o n : Byte) (v : BitVec 3) (sel useres : Bool) (freq : Word) (s : State), o.toNat < 16 → n.toNat < 16 →
    let x := s.osc o.toNat
    let dst := noteBase n.toNat + 0x10000 + v.toNat * 0x8000 + (if sel then 0x4000 else 0x3000)
    let r := (s.note n.toNat).rng * 1103515245 + 12345
    (x.dirty = true → x.job.isSome = true → x.valid = false →
      ∃ t, exec (.oscGet o n v sel useres freq) s = .next t ∧ t.cells dst 1024 = List.replicate 1024 0 ∧
        t.res0 = 0 ∧ t.res1 = 0 ∧ t.err = s.err ||| 0x40 ∧ t.note n.toNat = s.note n.toNat ∧ t.osc o.toNat = x) ∧
    ((x.dirty = false ∨ x.job.isSome = true) → x.valid = true → x.cfg.aa = 0 →
      ∃ t, exec (.oscGet o n v sel useres freq) s = .next t ∧
        t.cells dst 1024 = s.cells (waveAddr o.toNat x.pubsel) 1024 ∧
        t.res0 = (if x.cfg.randmode = 1 then
          BitVec.ofNat 32 (r.toNat % 2147483648 / 2097152 * x.cfg.randdepth.toNat / 128) else 0) ∧
        t.res1 = 511 ∧
        t.err = s.err ||| (if x.cfg.normmode = 3 ∨ x.cfg.randmode = 3 ∨ x.cfg.amprandtype = 3 then 0x02 else 0) |||
          (if freq.toNat < 6554 then 0x04 else 0) ∧
        t.note n.toNat = { s.note n.toNat with rng := if x.cfg.randmode = 1 then r else (s.note n.toNat).rng } ∧
        t.osc o.toNat = x)

/-- R191 to R196 and R201: OSC.GET with AA = 1. From the published spectrum it keeps bins 1..KEEP, exactly those at or below
the Nyquist limit (A: after the resonance of R195, where asked for); rotates them (B: R193); scales them (C: R194);
renormalises them (S: R201); and delivers the waveform of the result. The k-th draw of a stage serves bin k; RES0 is the start
offset of R196 and RES1 is KEEP; ERR.SAT rises exactly when a rotation or a gain leaves the range; the generator has
advanced by exactly the draws of R193, R194 and R196. ERR.CFG for a selector of 3 is log entry 8 (DEDUCED). -/
def Obligations.OscGetAntiAliased : Prop :=
  ∀ (o n : Byte) (v : BitVec 3) (sel useres : Bool) (freq : Word) (s : State), o.toNat < 16 → n.toNat < 16 →
    let x := s.osc o.toNat
    let c := x.cfg
    let dst := noteBase n.toNat + 0x10000 + v.toNat * 0x8000 + (if sel then 0x4000 else 0x3000)
    let f := if freq.toNat < 6554 then 6554 else freq.toNat
    let keep := min 511 (1445068800 / f)
    let draw := fun j => (rngAfter j (s.note n.toNat).rng).toNat % 2147483648
    let turned := if c.randmode = 2 then keep else 0
    let scaled := if c.amprandtype = 1 then keep else if c.amprandtype = 2 then 1 else 0
    let draws := turned + scaled + (if c.randmode = 1 then 1 else 0)
    let angle := fun k => draw k / 2097152 * c.randdepth.toNat / 128
    let gain := fun k => ampRand c.amprandtype.toNat c.amprandpower.toNat k
      (draw (turned + if c.amprandtype = 1 then k else 1))
    let rounded := fun a : Int => fdiv (a + 8388608) 16777216
    let bad := fun a : Int => a < -2147483648 ∨ 2147483647 < a
    let sat := fun a : Int => clamp a (-2147483648) 2147483647
    let P := (List.range 512).map fun k => if 1 ≤ k ∧ k ≤ keep then
      ((s.cell (specAddr o.toNat x.pubsel + 8 * k)).toInt, (s.cell (specAddr o.toNat x.pubsel + 8 * k + 4)).toInt)
      else (0, 0)
    (x.dirty = false ∨ x.job.isSome = true) → x.valid = true → c.aa = 1 →
      ∃ (t : State) (A B C S : Spectrum), exec (.oscGet o n v sel useres freq) s = .next t ∧
        t.cells dst 1024 = (invT S).map toWord ∧
        A.length = 512 ∧ B.length = 512 ∧ C.length = 512 ∧ S.length = 512 ∧
        (∀ k, k = 0 ∨ keep < k → A.bin k = (0, 0) ∧ B.bin k = (0, 0) ∧ C.bin k = (0, 0) ∧ S.bin k = (0, 0)) ∧
        (∀ k, 1 ≤ k → k ≤ keep → A.bin k =
          if useres then (resonance P f s.ctl.rescenter.toInt s.ctl.resbw.toInt).bin k else Spectrum.bin P k) ∧
        let turn := fun k => ((A.bin k).1 * cosRom (angle k) + (A.bin k).2 * sinRom (angle k),
          (A.bin k).2 * cosRom (angle k) - (A.bin k).1 * sinRom (angle k))
        let scale := fun k => ((B.bin k).1 * gain k, (B.bin k).2 * gain k)
        let r := isqrt (((List.range 512).map fun k => (C.bin k).1 * (C.bin k).1 + (C.bin k).2 * (C.bin k).2).sum).toNat
        (∀ k, 1 ≤ k → k ≤ keep → B.bin k =
          if c.randmode = 2 then (sat (rounded (turn k).1), sat (rounded (turn k).2)) else A.bin k) ∧
        (∀ k, 1 ≤ k → k ≤ keep → C.bin k =
          if scaled = 0 then B.bin k else (sat (rounded (scale k).1), sat (rounded (scale k).2))) ∧
        (∀ k, 1 ≤ k → k ≤ keep → S.bin k =
          if c.normmode = 2 ∧ r ≠ 0 then (fdiv ((C.bin k).1 * 16777216) r, fdiv ((C.bin k).2 * 16777216) r)
          else C.bin k) ∧
        (∀ k, 1 ≤ k → k ≤ 511 → (k ≤ keep ↔ k * f ≤ 44100 * 32768)) ∧
        t.res0 = (if c.randmode = 1 then
          BitVec.ofNat 32 (draw (scaled + 1) / 2097152 * c.randdepth.toNat / 128) else 0) ∧
        t.res1 = BitVec.ofNat 32 keep ∧
        t.err &&& 0xF7 = (s.err ||| (if c.normmode = 3 ∨ c.randmode = 3 ∨ c.amprandtype = 3 then 0x02 else 0) |||
          (if freq.toNat < 6554 then 0x04 else 0)) &&& 0xF7 ∧
        (t.err.getLsbD 3 = true ↔ s.err.getLsbD 3 = true ∨ ∃ k, 1 ≤ k ∧ k ≤ keep ∧
          (c.randmode = 2 ∧ (bad (rounded (turn k).1) ∨ bad (rounded (turn k).2)) ∨
            scaled ≠ 0 ∧ (bad (rounded (scale k).1) ∨ bad (rounded (scale k).2)))) ∧
        t.note n.toNat = { s.note n.toNat with rng := rngAfter draws (s.note n.toNat).rng } ∧ t.osc o.toNat = x

/-- R189: on a dirty oscillator without a job OSC.GET prepares first: it leaves what OSC.PREPARE followed by the same
OSC.GET leaves, but for the pointer. -/
def Obligations.OscGetPrepares : Prop :=
  ∀ (o n : Byte) (v : BitVec 3) (sel useres : Bool) (freq : Word) (s : State), o.toNat < 16 → n.toNat < 16 →
    (s.osc o.toNat).dirty = true → (s.osc o.toNat).job = none →
      ∃ t u w, exec (.oscPrepare o) s = .next t ∧ exec (.oscGet o n v sel useres freq) t = .next u ∧
        exec (.oscGet o n v sel useres freq) s = .next w ∧ u = { w with cptr := w.cptr + 16 }

/-- R204 and R212: OSC.REGEN and OSC.CANCEL, with everything else unchanged. OSC.REGEN reads all HMAG and HPHASE cells: an
undef one among them marks the run as outside the admitted behaviours (R72, R476; the mark is the model's, log entry 1). -/
def Obligations.OscRegenCancel : Prop :=
  ∀ (o : Byte) (s : State), o.toNat < 16 →
    let x := s.osc o.toNat
    let base := 0x10000 + o.toNat * 0x1000
    (∃ t, exec (.oscRegen o) s = .next t ∧
      if x.job.isSome then t = { s.setErr .regenRej with res0 := 0, cptr := s.cptr + 16 }
      else ∃ table, (∀ a, base ≤ a → a < base + 0x400 → Mem.byte? table a = s.mem.byte? a) ∧
        t = { s.setOsc o.toNat { x with job := some {
          snapCfg := x.cfg, snapTable := table, snapVer := x.cfgver, cancel := false, specDone := false,
          unitDone := [] } } with
            res0 := 1, cptr := s.cptr + 16, undefRead := t.undefRead, undefReads := t.undefReads } ∧
        (t.undefRead = true ↔ s.undefRead = true ∨ ∃ i, i < 256 ∧ s.mem.word? (base + 4 * i) = none)) ∧
    (∃ t, exec (.oscCancel o) s = .next t ∧
      match x.job with
      | none => t = { s with res0 := 0, cptr := s.cptr + 16 }
      | some j => t = { s.setOsc o.toNat { x with job := some { j with cancel := true } } with
          res0 := 1, cptr := s.cptr + 16 })

/-- R205 to R208, R210 and R113: one step of a worker, of each of its four kinds, with everything else of the block unchanged.
One that observes a cancellation ends the job and forgets the shadow bank; a spectrum unit writes PrepareFn of the snapshot
to the shadow spectrum bank and sets SPECDONE; a sample unit writes one sample of the shadow waveform bank and joins UNITDONE;
one that publishes switches the banks, whatever unit the agenda names. That a spectrum unit raises ERR.CFG and ERR.SAT is
log entry 11 (DEDUCED); the mark of a unit that reads undef cells is log entry 1 (DESIGN CHOICE). -/
def Obligations.RegenEnds : Prop :=
  ∀ (o u : Nat) (rest : List Turn) (j : Job) (s : State), o < 16 → s.turns = .regen o u :: rest →
    (s.osc o).job = some j →
    let x := s.osc o
    let spec := specAddr o (!x.pubsel)
    let sample := waveAddr o (!x.pubsel) + 4 * u
    let S := prepareSpectrum j.snapCfg (codes (j.column s.undefReads (hmagAddr o)))
      (codes (j.column s.undefReads (hphaseAddr o)))
    (j.cancel = true →
      ∃ t, step s = .next t ∧
        t = { s.setOsc o { x with job := none } with
          turns := rest, mem := t.mem, regenCanc := s.regenCanc ||| BitVec.twoPow 16 o, irqPend := s.irqPend ||| 0x10 } ∧
        (∀ a, bankBytes o (!x.pubsel) a → t.mem.byte? a = none) ∧
        (∀ a, ¬ bankBytes o (!x.pubsel) a → t.mem.byte? a = s.mem.byte? a)) ∧
    (j.cancel = false → j.specDone = false →
      ∃ t, step s = .next t ∧
        t = { s.setOsc o { x with job := some { j with specDone := true } } with
          turns := rest, mem := t.mem, undefRead := t.undefRead, undefReads := t.undefReads
          err := s.err ||| (if j.snapCfg.prepareBad then 0x02 else 0) ||| (if S.sat then 0x08 else 0)
          irqPend := if t.err = s.err then s.irqPend else s.irqPend ||| 0x04 } ∧
        t.cells spec 1024 = spectrumWords S.val ∧ (∀ a, ¬ wordsAt spec 1024 a → t.mem.byte? a = s.mem.byte? a) ∧
        (t.undefRead = true ↔ s.undefRead = true ∨ ∃ i, i < 256 ∧ j.snapTable.word? (hmagAddr o + 4 * i) = none)) ∧
    (j.cancel = false → j.specDone = true → u < 1024 → u ∉ j.unitDone →
      ∃ t us, step s = .next t ∧ (∀ w, w ∈ us ↔ w = u ∨ w ∈ j.unitDone) ∧
        t = { s.setOsc o { x with job := some { j with unitDone := us } } with
          turns := rest, mem := t.mem, undefRead := t.undefRead, undefReads := t.undefReads } ∧
        t.mem.word? sample = some (toWord (invTSample (spectrumOfWords (s.cells spec 1024)) u)) ∧
        (∀ a, ¬ wordsAt sample 1 a → t.mem.byte? a = s.mem.byte? a) ∧
        (t.undefRead = true ↔ s.undefRead = true ∨ ∃ i, i < 1024 ∧ s.mem.word? (spec + 4 * i) = none)) ∧
    (j.cancel = false → j.specDone = true → (∀ w, w < 1024 → w ∈ j.unitDone) →
      ∃ t, step s = .next t ∧
        t = { s.setOsc o { x with
            pubsel := !x.pubsel, valid := true, pubver := j.snapVer, dirty := decide (x.cfgver ≠ j.snapVer),
            job := none } with
          turns := rest, regenDone := s.regenDone ||| BitVec.twoPow 16 o, irqPend := s.irqPend ||| 0x08 })

/-- R205 to R207, R210 and R113: a job that is never cancelled publishes PrepareFn of its snapshot, in whatever order the
workers take the sample units: the spectrum unit, then every sample unit once in any order, then the publication. -/
def Obligations.RegenPublishesPrepare : Prop :=
  ∀ (o : Nat) (us : List Nat) (j : Job) (s : State), o < 16 → (s.osc o).job = some j → j.cancel = false →
    j.specDone = false → j.unitDone = [] → us.Perm (List.range 1024) →
    s.turns = (0 :: us ++ [0]).map (Turn.regen o) →
    let S := prepareSpectrum j.snapCfg (codes (j.column s.undefReads (hmagAddr o)))
      (codes (j.column s.undefReads (hphaseAddr o)))
    ∃ t, stepsFrom 1026 s = some t ∧ (t.osc o).job = none ∧ (t.osc o).pubsel = (!(s.osc o).pubsel) ∧
      (t.osc o).valid = true ∧ (t.osc o).pubver = j.snapVer ∧
      t.cells (specAddr o (t.osc o).pubsel) 1024 = spectrumWords S.val ∧
      t.cells (waveAddr o (t.osc o).pubsel) 1024 = (invT S.val).map toWord

/-! ## Notes -/

/-- R311 to R318 and R412: NOTE.INIT on an inactive slot: the note registers of R312; the enabled voices created in ascending
order while they fit under the cap, the others dropped, and the budget (R313); topology and unison size of the created ones
(R314, R315, TOPOEFF[3] by log entry 15); the envelopes, LFOs and filters of the note and of the created voices reset as the
commands reset them, the others left alone (R311, R312; against R292, log entry 20, DEDUCED); and, where the published
banks are written, the waveforms and start phases: `gen v` is the generator before voice v, the carrier's waveform and offset
are those that OSC.GET delivers with it, one draw for each further sub-voice follows, then, with the generator `own v`, the
modulator's OSC.GET (R316 to R318). ERR.ALLOC rises exactly when a voice is dropped; each other flag exactly when the
topology or the unison size is replaced (ERR.CFG), a pitch saturates (ERR.SAT), or one of the resets, cleanups, preparations
and OSC.GETs it performs raises it; ERR.SAT where the published banks are written and of the oscillators that the created
voices take, those it prepares have their harmonic tables written (R476). -/
def Obligations.NoteInitResult : Prop :=
  ∀ (n : Byte) (s : State), n.toNat < 16 → s.active n.toNat = false →
    let x := s.note n.toNat
    let enabled := (List.range 8).countP fun v => (s.voice n.toNat v).enabled
    let room := min s.voiceCap.toNat 128 - s.nvoices.toNat
    ∃ t, exec (.noteInit n) s = .next t ∧
      (t.note n.toNat).nstat = ⟨true, false, false, true, false⟩ ∧
      (t.note n.toNat).legstate = .normal ∧ (t.note n.toNat).silent = x.nctrl.getLsbD 0 ∧
      (t.note n.toNat).legcount = 0 ∧ (t.note n.toNat).legpitch = x.log2freq ∧
      (t.note n.toNat).legvel = x.velocity ∧ (t.note n.toNat).gampold = 0 ∧ (t.note n.toNat).gampnew = 0 ∧
      (t.note n.toNat).log2freq = x.log2freq ∧ (t.note n.toNat).velocity = x.velocity ∧
      (t.note n.toNat).cutoff = x.cutoff ∧
      t.res0 = BitVec.ofNat 32 (min enabled room) ∧ t.res1 = BitVec.ofNat 32 (enabled - min enabled room) ∧
      t.nvoices.toNat = s.nvoices.toNat + min enabled room ∧
      (t.note n.toNat).createdCount = min enabled room ∧
      (enabled ≤ room ∨ t.err.getLsbD 0 = true) ∧
      (let fresh := fun k => k < 3 ∨ (t.voice n.toNat ((k - 3) / 3)).created = true
       ∀ i, i ≠ 3 → (t.err.getLsbD i = true ↔ s.err.getLsbD i = true ∨ i = 0 ∧ room < enabled ∨
         i = 1 ∧ (∃ v, v < 8 ∧ (t.voice n.toNat v).created = true ∧
           ((t.voice n.toNat v).topo.toNat ≠ (s.voice n.toNat v).ctrlTopo ∨
             (t.voice n.toNat v).usize ≠ (s.voice n.toNat v).unisize)) ∨
         (∃ k, k < 27 ∧ fresh k ∧ ((s.flagsOf (.envReset n (BitVec.ofNat 8 k))).getLsbD i = true ∨
           (s.flagsOf (.lfoReset n (BitVec.ofNat 8 k))).getLsbD i = true)) ∨
         (∃ f, f < 18 ∧ (f < 2 ∨ (t.voice n.toNat ((f - 2) / 2)).created = true) ∧
           (s.flagsOf (.fltCleanup n (BitVec.ofNat 8 f))).getLsbD i = true) ∨
         (∃ o, o < 16 ∧ t.takes n.toNat o ∧ (s.osc o).job = none ∧
           (s.flagsOf (.oscPrepare (BitVec.ofNat 8 o))).getLsbD i = true) ∨
         ∃ v, v < 8 ∧ (t.voice n.toNat v).created = true ∧
           ((t.flagsOf (carrierGet n v x (t.voice n.toNat v))).getLsbD i = true ∨
             (t.voice n.toNat v).ownModulator = true ∧
               (t.flagsOf (modulatorGet n v x (t.voice n.toNat v))).getLsbD i = true))) ∧
      (∀ v, v < 8 →
        let y := s.voice n.toNat v
        let z := t.voice n.toNat v
        let w := y.modvoice
        (z.created = true ↔
          y.enabled = true ∧ ((List.range v).countP fun u => (s.voice n.toNat u).enabled) < room) ∧
        (z.created = false → z = { y with created := false, finished := false, first := false }) ∧
        (z.created = true → z = { y with
          created := true, first := true, finished := false, vampold := 0, vampnew := 0, modampold := y.modamp
          usize := if y.unisize = 0 then 1 else if 50 < y.unisize.toNat then 50 else y.unisize
          modext := y.ctrlModext
          topo := if 4 < y.ctrlTopo ∨ y.ctrlTopo ≠ 0 ∧ y.ctrlModext = true ∧ (v ≤ w ∨
            (t.voice n.toNat w).created = false ∨ (s.voice n.toNat w).dest = false) then 0
            else BitVec.ofNat 3 y.ctrlTopo })) ∧
      (∀ k, k < 27 →
        if k < 3 ∨ (t.voice n.toNat ((k - 3) / 3)).created = true then
          (s.Written (valAddr n.toNat k 0) 1 →
            ∃ u, exec (.envReset n (BitVec.ofNat 8 k)) s = .next u ∧ t.env n.toNat k = u.env n.toNat k) ∧
          ∃ u, exec (.lfoReset n (BitVec.ofNat 8 k)) s = .next u ∧ t.lfo n.toNat k = u.lfo n.toNat k
        else t.env n.toNat k = s.env n.toNat k ∧ t.lfo n.toNat k = s.lfo n.toNat k) ∧
      (∀ f, f < 18 →
        if f < 2 ∨ (t.voice n.toNat ((f - 2) / 2)).created = true then
          ∃ u, exec (.fltCleanup n (BitVec.ofNat 8 f)) s = .next u ∧ t.flt n.toNat f = u.flt n.toNat f
        else t.flt n.toNat f = s.flt n.toNat f) ∧
      ((∀ o, o < 16 → (s.osc o).valid = true →
          s.Written (specAddr o (s.osc o).pubsel) 1024 ∧ s.Written (waveAddr o (s.osc o).pubsel) 1024) →
        ∃ gen own : Nat → Word, gen 0 = x.rng ∧ gen 8 = (t.note n.toNat).rng ∧
          (∀ v, v < 8 →
            let y := t.voice n.toNat v
            if y.created = false then gen (v + 1) = gen v
            else ∃ u, exec (carrierGet n v x y) (t.setRng n.toNat (gen v)) = .next u ∧
              t.cells (vwaveAddr n.toNat v false) 1024 = u.cells (vwaveAddr n.toNat v false) 1024 ∧
              let further := fun k => rngAfter k (u.note n.toNat).rng
              own v = further (y.usize.toNat - 1) ∧
              (∀ k, k < y.usize.toNat →
                t.phase n.toNat v k .phhi .phlo = (if k = 0 then u.res0.toNat
                  else (u.res0.toNat + (further k).toNat % 2147483648 / 2097152) % 1024) * 16777216 ∧
                t.phase n.toNat v k .fmihi .fmilo = 0 ∧
                (y.usize = 1 → t.cell (uniAddr n.toNat v k + 0x14) = 0x01000000) ∧
                (y.usize ≠ 1 → s.Written (uniAddr n.toNat v k) 1 →
                  t.cell (uniAddr n.toNat v k + 0x14) = s.cell (uniAddr n.toNat v k))) ∧
              if y.ownModulator = false then gen (v + 1) = own v
              else ∃ w, exec (modulatorGet n v x y) (t.setRng n.toNat (own v)) = .next w ∧
                t.cells (vwaveAddr n.toNat v true) 1024 = w.cells (vwaveAddr n.toNat v true) 1024 ∧
                (∀ k, k < y.usize.toNat → t.phase n.toNat v k .phmhi .phmlo =
                  (w.res0.toNat + t.phase n.toNat v k .phhi .phlo / 16777216) % 1024 * 16777216) ∧
                gen (v + 1) = (w.note n.toNat).rng) ∧
          ((∀ o, o < 16 → t.takes n.toNat o → (s.osc o).dirty = true → (s.osc o).job = none →
              s.Written (hmagAddr o) 256) →
            (t.err.getLsbD 3 = true ↔ s.err.getLsbD 3 = true ∨ ∃ v, v < 8 ∧ (t.voice n.toNat v).created = true ∧
              let y := t.voice n.toNat v
              let saturates := fun (o : Nat) (pitch : Sat Int) (get : Instr) (rng : Word) => pitch.sat = true ∨
                (s.osc o).job = none ∧ (s.flagsOf (.oscPrepare (BitVec.ofNat 8 o))).getLsbD 3 = true ∨
                ((t.setRng n.toNat rng).flagsOf get).getLsbD 3 = true
              saturates y.carrier (carrierPitch x y) (carrierGet n v x y) (gen v) ∨
                y.ownModulator = true ∧ saturates y.modulator (modulatorPitch x y) (modulatorGet n v x y) (own v))))

/-- R321: NOTE.OUT on an inactive slot. -/
def Obligations.NoteOutInactive : Prop :=
  ∀ (n : Byte) (s : State), n.toNat < 16 → s.active n.toNat = false →
    ∃ t, exec (.noteOut n) s = .next t ∧
      (∀ i, i < 256 → t.mem.word? (noteBase n.toNat + 0x8000 + 4 * i) = some 0 ∧
        t.mem.word? (noteBase n.toNat + 0x8400 + 4 * i) = some 0) ∧
      t.res0 = 0 ∧ t.res1 = 0 ∧
      (∀ a, ¬ (noteBase n.toNat + 0x8000 ≤ a ∧ a < noteBase n.toNat + 0x8800) → t.mem.byte? a = s.mem.byte? a) ∧
      t = { s with mem := t.mem, res0 := 0, res1 := 0, cptr := s.cptr + 16 }

/-- R320, R330 to R354, R356 and R362: NOTE.OUT on an active slot delivers a whole block to OUTL and OUTR, moves the
legato machine on by 256 samples, and either ends the note, releasing all its voices, or goes on, releasing each
finished voice that no created voice above it still uses (R354); RES0 says which, RES1 and NVOICES count the voices
(RES1 after the releases of R354: log entry 12, DEDUCED). It ends exactly when the note's amplitude envelope is finished
after the block, the note is killed, or no created voice is unfinished (R353). It leaves RNG, CUTOFF, LEGPITCH and
LEGVEL (R318), and the filters, sub-voice records and buffers of the voices that are not live, but for VOUT of a
finished one. ERR.CLAMP rises exactly when a frequency of a live voice falls under the floor (R332; the modulator's also
for topology None, log entry 12) or SetCoef clamps (R283), ERR.CFG exactly when SetCoef replaces FSTAGES (R281; against
R428, log entry 27, DEDUCED), and ERR.SAT, under `NoteReady`, exactly when some narrowing of the block changes its
argument (R14; an envelope's and VIBSTEP's too, log entries 6 and 9, DEDUCED). Where every cell it reads is written
(`NoteReady`), it advances the global sources and those of the live voices as ENV.OUTDB, ENV.OUT and LFO.OUT do and no
others (log entry 21, DEDUCED), and leaves the amplitudes of R336, the ratios and vibrato of R334, phases moved by 256
increments of R335 (R356), the filters set to the frequencies of R333 with the states their blocks leave, in VOUT the
sum of both channels of a live voice with DEST = 1 and otherwise zeros (R352), and in OUTL and OUTR the note's chain of
R351 to R353 over the voices' channels (voice filter before amplitude by D49: log entry 22, DEDUCED). -/
def Obligations.NoteOutActive : Prop :=
  ∀ (n : Byte) (s : State), n.toNat < 16 → s.active n.toNat = true →
    let x := s.note n.toNat
    let g := Legato.after 256 ⟨x.legstate, x.silent, x.legcount, false⟩
    ∃ t, exec (.noteOut n) s = .next t ∧
      (∀ i, i < 256 → (t.mem.word? (noteBase n.toNat + 0x8000 + 4 * i)).isSome = true ∧
        (t.mem.word? (noteBase n.toNat + 0x8400 + 4 * i)).isSome = true) ∧
      (t.note n.toNat).legstate = g.state ∧ (t.note n.toNat).silent = g.silent ∧ (t.note n.toNat).legcount = g.count ∧
      (t.note n.toNat).log2freq = (if g.fired then x.legpitch else x.log2freq) ∧
      (t.note n.toNat).velocity = (if g.fired then x.legvel else x.velocity) ∧
      (t.note n.toNat).nstat.first = false ∧ (t.note n.toNat).nstat.killed = x.nstat.killed ∧
      (t.note n.toNat).nstat.released = x.nstat.released ∧
      t.res1 = BitVec.ofNat 32 (t.note n.toNat).createdCount ∧
      t.nvoices = s.nvoices - BitVec.ofNat 8 (x.createdCount - (t.note n.toNat).createdCount) ∧
      (t.note n.toNat).createdCount ≤ x.createdCount ∧
      (t.res0 = 0 ∧ (t.note n.toNat).nstat.active = false ∧ (t.note n.toNat).nstat.finished = true ∧
          (t.note n.toNat).createdCount = 0 ∨
        t.res0 = 1 ∧ (t.note n.toNat).nstat.active = true ∧
          (t.note n.toNat).nstat.finished = x.nstat.finished) ∧
      ((x.nstat.killed = true ∨ ∀ v, v < 8 → (x.voice v).created = true → (x.voice v).finished = true) →
        t.res0 = 0) ∧
      (t.res0 = 0 ↔ (t.env n.toNat 0).finished = true ∨ x.nstat.killed = true ∨
        ∀ v, v < 8 → (s.voice n.toNat v).created = true → (t.voice n.toNat v).finished = true) ∧
      (t.note n.toNat).rng = x.rng ∧ (t.note n.toNat).cutoff = x.cutoff ∧ (t.note n.toNat).legpitch = x.legpitch ∧
      (t.note n.toNat).legvel = x.legvel ∧
      (∀ v, v < 8 → s.live n.toNat v = false →
        t.flt n.toNat (2 + 2 * v) = s.flt n.toNat (2 + 2 * v) ∧ t.flt n.toNat (3 + 2 * v) = s.flt n.toNat (3 + 2 * v) ∧
        (∀ a, wordsAt (uniAddr n.toNat v 0) 1024 a → t.mem.byte? a = s.mem.byte? a) ∧
        ((s.voice n.toNat v).created = false →
          ∀ a, wordsAt (voutAddr n.toNat v) 256 a → t.mem.byte? a = s.mem.byte? a)) ∧
      (t.err.getLsbD 2 = true ↔ s.err.getLsbD 2 = true ∨
        (∃ v, v < 8 ∧ s.live n.toNat v = true ∧ (exp2 (blockPitch s t n.toNat v).val < 6554 ∨
          exp2 (modPitch s t n.toNat v).val < 6554 ∨ (s.voice n.toNat v).filterOn = true ∧
            setCoefClamps (exp2 (voiceCutoff s t n.toNat v).val) (s.voice n.toNat v).vfq)) ∨
        x.gfen = 1 ∧ setCoefClamps (exp2 (noteCutoff s t n.toNat).val) x.gfq) ∧
      (let bad := fun f => (s.flt n.toNat f).fstages = 0 ∨ 5 < (s.flt n.toNat f).fstages.toNat
       t.err.getLsbD 1 = true ↔ s.err.getLsbD 1 = true ∨
         (∃ v, v < 8 ∧ s.live n.toNat v = true ∧ (s.voice n.toNat v).filterOn = true ∧
           (bad (2 + 2 * v) ∨ bad (3 + 2 * v))) ∨
         x.gfen = 1 ∧ (bad 0 ∨ bad 1)) ∧
      (t.res0 = 1 → ∀ v, v < 8 → ((t.voice n.toNat v).created = true ↔
        (s.voice n.toNat v).created = true ∧ ((t.voice n.toNat v).finished = true → ∃ w, v < w ∧ w < 8 ∧
          (t.voice n.toNat w).created = true ∧ (t.voice n.toNat w).topo ≠ 0 ∧ (t.voice n.toNat w).modext = true ∧
          (t.voice n.toNat w).modvoice = v))) ∧
      (NoteReady s n.toNat →
        (∀ k, k < 27 →
          if s.stepped n.toNat k then
            (∃ u, exec (sourceCall n k) s = .next u ∧
              t.env n.toNat k = u.env n.toNat k) ∧
            ∃ u, exec (.lfoOut n (BitVec.ofNat 8 k)) s = .next u ∧ t.lfo n.toNat k = u.lfo n.toNat k
          else t.env n.toNat k = s.env n.toNat k ∧ t.lfo n.toNat k = s.lfo n.toNat k) ∧
        (t.note n.toNat).gampnew =
          toWord (noteGain s t n.toNat).val ∧
        (t.note n.toNat).gampold = (if x.nstat.first then (t.note n.toNat).gampnew else x.gampnew) ∧
        (∀ v, v < 8 →
          let y := s.voice n.toNat v
          let z := t.voice n.toNat v
          if s.live n.toNat v then
            z = { y with
              created := z.created, finished := (t.env n.toNat (3 + 3 * v)).finished, first := false
              vampold := if y.first then z.vampnew else y.vampnew
              vampnew := toWord (voiceGain s t n.toNat v).val
              modampold := y.modamp } ∧
            (∀ k, k < y.usize.toNat →
              (if y.usize = 1 then t.uni n.toNat v k .ratio = 16777216 ∧
                  ∀ a, vibratoBytes n.toNat v a → t.mem.byte? a = s.mem.byte? a
                else
                  t.uni n.toNat v k .vibpos =
                    clamp (s.uni n.toNat v k .vibpos + s.uni n.toNat v k .vibstep) (-16777216) 16777216 ∧
                  t.uni n.toNat v k .vibstep = (subStep s n.toNat v k).val ∧
                  t.uni n.toNat v k .ratio = (subRatio s t n.toNat v k).val) ∧
              t.phase n.toNat v k .phhi .phlo =
                (s.phase n.toNat v k .phhi .phlo + 256 * carrierStep s t n.toNat v k) % 17179869184 ∧
              (if y.topo ≠ 0 ∧ y.modext = false then t.phase n.toNat v k .phmhi .phmlo =
                  (s.phase n.toNat v k .phmhi .phmlo + 256 * modulatorStep s t n.toNat v k) % 17179869184
                else ∀ a, wordsAt (uniAddr n.toNat v k + 0x20) 2 a → t.mem.byte? a = s.mem.byte? a) ∧
              (if y.topo = 4 then t.phase n.toNat v k .fmihi .fmilo = (subSamples s t n.toNat v k).val.2.fmi
                else ∀ a, wordsAt (uniAddr n.toNat v k + 0x28) 2 a → t.mem.byte? a = s.mem.byte? a)) ∧
            (∀ right : Bool, let f := 2 + 2 * v + right.toNat
              if y.filterOn then
                (∃ u, exec (.fltSetfq n (BitVec.ofNat 8 f) (BitVec.ofNat 32 (exp2 (voiceCutoff s t n.toNat v).val))
                    y.vfq) s = .next u ∧
                  t.flt n.toNat f = { u.flt n.toNat f with fst := (t.flt n.toNat f).fst }) ∧
                (t.flt n.toNat f).fst.toList =
                  (filtered s t n.toNat f (voiceMix s t n.toNat v right).val).val.2 ++
                    (s.flt n.toNat f).fst.toList.drop (t.flt n.toNat f).fnst.toNat
              else t.flt n.toNat f = s.flt n.toNat f) ∧
            (∀ i, i < 256 → t.mem.word? (voutAddr n.toNat v + 4 * i) = some (if y.dest then
              toWord ((voiceSum s t n.toNat v).val.getD i 0) else 0))
          else
            z = { y with created := z.created } ∧
            (y.created = true → ∀ i, i < 256 → t.mem.word? (voutAddr n.toNat v + 4 * i) = some 0)) ∧
        (∀ right : Bool,
          if x.gfen = 1 then
            (∃ u, exec (.fltSetfq n (BitVec.ofNat 8 right.toNat) (BitVec.ofNat 32 (exp2 (noteCutoff s t n.toNat).val))
                x.gfq) s = .next u ∧
              t.flt n.toNat right.toNat = { u.flt n.toNat right.toNat with fst := (t.flt n.toNat right.toNat).fst }) ∧
            (t.flt n.toNat right.toNat).fst.toList =
              (filtered s t n.toNat right.toNat (noteDeposit s t n.toNat right).val).val.2 ++
                (s.flt n.toNat right.toNat).fst.toList.drop (t.flt n.toNat right.toNat).fnst.toNat
          else t.flt n.toNat right.toNat = s.flt n.toNat right.toNat) ∧
        (∀ i, i < 256 →
          t.mem.word? (noteBase n.toNat + 0x8000 + 4 * i) = some (toWord ((noteChannel s t n.toNat false).val.getD i 0)) ∧
          t.mem.word? (noteBase n.toNat + 0x8400 + 4 * i) = some (toWord ((noteChannel s t n.toNat true).val.getD i 0))) ∧
        (t.err.getLsbD 3 = true ↔ s.err.getLsbD 3 = true ∨ noteSaturates s t n.toNat = true))

/-- R362 and R364: a muted note in Normal delivers silence, whatever its voices do. -/
def Obligations.MutedNoteSilent : Prop :=
  ∀ (n : Byte) (s : State), n.toNat < 16 → s.active n.toNat = true → (s.note n.toNat).legstate = .normal →
    (s.note n.toNat).silent = true →
      ∃ t, exec (.noteOut n) s = .next t ∧ ∀ i, i < 256 →
        t.mem.word? (noteBase n.toNat + 0x8000 + 4 * i) = some 0 ∧
        t.mem.word? (noteBase n.toNat + 0x8400 + 4 * i) = some 0

/-- R371 and R353: NOTE.KILL frees nothing; the next NOTE.OUT ends the note and gives all its voices back. -/
def Obligations.KillThenOut : Prop :=
  ∀ (n : Byte) (s : State), n.toNat < 16 → s.active n.toNat = true →
    ∃ t u, exec (.noteKill n) s = .next t ∧ t.nvoices = s.nvoices ∧ s.active n.toNat = t.active n.toNat ∧
      exec (.noteOut n) t = .next u ∧ u.res0 = 0 ∧ u.res1 = 0 ∧ u.active n.toNat = false ∧
      (u.note n.toNat).nstat.finished = true ∧ (u.note n.toNat).nstat.killed = true ∧
      u.nvoices = s.nvoices - BitVec.ofNat 8 (s.note n.toNat).createdCount

/-- R370 and R371: NOTE.RELEASE and NOTE.KILL on an active slot, with everything else unchanged (ERELVAL and ET of a finished
envelope by log entry 24, DEDUCED). -/
def Obligations.NoteReleaseKill : Prop :=
  ∀ (n : Byte) (s : State), n.toNat < 16 → s.active n.toNat = true →
    let x := s.note n.toNat
    (∃ t, exec (.noteRelease n) s = .next t ∧ ∃ envs : Vector Env 27,
      (∀ k, k < 27 → envs[k]?.getD default =
        let e := x.env k
        if e.enpts = 0 ∨ e.released = true then e
        else { e with released := true, erelval := e.eout, et := if e.frpend then 0 else e.et }) ∧
      t = { s with
        cptr := s.cptr + 16
        notes := s.notes.setIfInBounds n.toNat { x with envs := envs, nstat := { x.nstat with released := true } } }) ∧
    (∃ t, exec (.noteKill n) s = .next t ∧ ∃ envs : Vector Env 27,
      (∀ k, k < 27 → envs[k]?.getD default =
        let e := x.env k
        if e.enpts = 0 then e else { e with finished := true }) ∧
      t = { s with
        cptr := s.cptr + 16
        notes := s.notes.setIfInBounds n.toNat { x with envs := envs, nstat := { x.nstat with killed := true } } })

/-- R360: NOTE.LEGATO on an active slot, by the state of its machine, with everything else of the note unchanged. -/
def Obligations.NoteLegatoResult : Prop :=
  ∀ (n : Byte) (pitch velocity : Word) (s : State), n.toNat < 16 → s.active n.toNat = true →
    let x := s.note n.toNat
    let vel : Word := if velocity.toInt < 0 then 0 else if 16777216 < velocity.toInt then 0x01000000 else velocity
    ∃ t, exec (.noteLegato n pitch velocity) s = .next t ∧
      t.err = s.err ||| (if velocity.toInt < 0 ∨ 16777216 < velocity.toInt then 0x04 else 0) ∧
      t.note n.toNat =
        if x.legstate = .normal ∧ x.silent = true then
          { x with log2freq := pitch, velocity := vel, legpitch := pitch, legvel := vel, silent := false,
                   legstate := .fadeIn, legcount := 220 }
        else if x.legstate = .normal then
          { x with legpitch := pitch, legvel := vel, legstate := .fadeOut, legcount := 220 }
        else if x.legstate = .fadeOut then { x with legpitch := pitch, legvel := vel }
        else { x with log2freq := pitch, velocity := vel, legpitch := pitch, legvel := vel }

/-- R372 to R375: NOTE.SETVEL, NOTE.SETPITCH, NOTE.SETCUT and NOTE.FIN, which need no active note. -/
def Obligations.NoteControl : Prop :=
  ∀ (n : Byte) (value : Word) (s : State), n.toNat < 16 →
    let x := s.note n.toNat
    (∃ t, exec (.noteSetvel n value) s = .next t ∧
      t.note n.toNat = { x with
        velocity := if value.toInt < 0 then 0 else if 16777216 < value.toInt then 0x01000000 else value } ∧
      t.err = s.err ||| (if value.toInt < 0 ∨ 16777216 < value.toInt then 0x04 else 0)) ∧
    exec (.noteSetpitch n value) s = .next { s with
      cptr := s.cptr + 16, notes := s.notes.setIfInBounds n.toNat { x with log2freq := value } } ∧
    exec (.noteSetcut n value) s = .next { s with
      cptr := s.cptr + 16, notes := s.notes.setIfInBounds n.toNat { x with cutoff := value } } ∧
    exec (.noteFin n) s = .next { s with
      cptr := s.cptr + 16, res0 := if x.nstat.active then 0 else 1, res1 := x.nstat.word }

/-- R367 (a), (b): from a fade-out on, Normal is reached after exactly 440 samples, muted and re-triggered once; and under
the legato invariant successive gains differ by at most 76261. -/
def Obligations.LegatoWindow : Prop :=
  (∀ silent, Legato.after 440 ⟨.fadeOut, silent, 220, false⟩ = ⟨.normal, true, 0, true⟩ ∧
    ∀ j, j < 440 → (Legato.after j ⟨.fadeOut, silent, 220, false⟩).state ≠ .normal) ∧
  (∀ x : Note, x.LegatoInv → (x.legato.next.gain - x.legato.gain).natAbs ≤ 76261)

/-! ## Mix -/

/-- R391: MIX.ALL writes the saturated exact sums of the selected notes' outputs, and raises ERR.SAT exactly when one of them
leaves the 32-bit range. -/
def Obligations.MixAllResult : Prop :=
  ∀ (mask : BitVec 16) (s : State),
    let sumL := fun i => ((List.range 16).map fun n =>
      if mask.getLsbD n then (s.cell (noteBase n + 0x8000 + 4 * i)).toInt else 0).sum
    let sumR := fun i => ((List.range 16).map fun n =>
      if mask.getLsbD n then (s.cell (noteBase n + 0x8400 + 4 * i)).toInt else 0).sum
    let bad := fun x : Int => x < -2147483648 ∨ 2147483647 < x
    ∃ t, exec (.mixAll mask) s = .next t ∧
      (∀ i, i < 256 →
        t.mem.word? (0x02000000 + 4 * i) = some (toWord (clamp (sumL i) (-2147483648) 2147483647)) ∧
        t.mem.word? (0x02000400 + 4 * i) = some (toWord (clamp (sumR i) (-2147483648) 2147483647))) ∧
      ((∃ i, i < 256 ∧ (bad (sumL i) ∨ bad (sumR i))) → t.err = s.err ||| 0x08) ∧
      ((∀ i, i < 256 → ¬ bad (sumL i) ∧ ¬ bad (sumR i)) → t.err = s.err)

/-- R392: MIX.CLEAR's encoding, that it zeroes both mix buffers and touches nothing else, that any other bit makes it
illegal (that the illegal command loads the latches too is log entry 4, DEDUCED), and that it does what MIX.ALL 0 does. -/
def Obligations.MixClearRule : Prop :=
  encode .mixClear = ⟨0x00000051, 0, 0, 0⟩ ∧
  (∀ s : State, ∃ t, exec .mixClear s = .next t ∧
    (∀ i, i < 512 → t.mem.word? (0x02000000 + 4 * i) = some 0) ∧
    (∀ a, ¬ (0x02000000 ≤ a ∧ a < 0x02000800) → t.mem.byte? a = s.mem.byte? a) ∧
    t = { s with mem := t.mem, cptr := s.cptr + 16 } ∧ exec (.mixAll 0) s = .next t) ∧
  (∀ (c : Words) (s : State), c.w0.extractLsb' 0 8 = 0x51#8 → c ≠ ⟨0x00000051, 0, 0, 0⟩ →
    runWords c s = .next ((s.latch c).raise .illegalCommand s.cptr c.w0))

/-! ## The HOST bus -/

/-- R94 to R100: a refused access sets the one flag its rule names and changes nothing else, its read data being
unspecified; an accepted read changes nothing at all; a write to a read-only cell sets BUSERR. That a wrong width sets
BUSERR alone also while BUSY = 1 is the model's choice (log entry 19, DESIGN CHOICE). What an accepted read returns: of
a register the field that 10_state.md names (`State.Shows`; REGEN_RUN and VCREATED bit by bit); of a memory cell its
word, and of an undef cell or a cell of a shadow bank an unspecified value (R72, R56). -/
def Obligations.BusRefusals : Prop :=
  ∀ (w : Width) (a v : Word) (s : State),
    let busy := s.status.busy = true
    let wrong := w ≠ .w32 ∨ a.toNat % 4 ≠ 0
    ((wrong ∨ ¬ (busy ∧ busyWritable a.toNat = false) ∧ locate a.toNat = none) →
      hostStep (.write w a v) s = s.setErr .busErr) ∧
    (¬ wrong → busy → busyWritable a.toNat = false → hostStep (.write w a v) s = s.setErr .busyAcc) ∧
    ((wrong ∨ ¬ (busy ∧ busyReadable a.toNat = false) ∧ locate a.toNat = none) →
      hostStep (.read w a) s =
        { s.setErr .busErr with rdata := Config.busWord s.busReads, busReads := s.busReads + 1 }) ∧
    (¬ wrong → busy → busyReadable a.toNat = false → hostStep (.read w a) s =
      { s.setErr .busyAcc with rdata := Config.busWord s.busReads, busReads := s.busReads + 1 }) ∧
    (¬ wrong → (busy → busyReadable a.toNat = true) → ∀ g, locate a.toNat = some g →
      hostStep (.read w a) s = match g.read s with
        | some r => { s with rdata := r }
        | none => { s with rdata := Config.busWord s.busReads, busReads := s.busReads + 1 }) ∧
    (¬ wrong → (busy → busyWritable a.toNat = true) → ∀ g, locate a.toNat = some g → g.access = .ro →
      hostStep (.write w a v) s = s.setErr .busErr) ∧
    (¬ busy →
      let reads := hostStep (.read .w32 a) s
      (∀ r, s.Shows a.toNat r → reads = { s with rdata := r }) ∧
      (a.toNat = 0x78 → ∃ r, reads = { s with rdata := r } ∧
        ∀ o, o < 32 → r.getLsbD o = (decide (o < 16) && (s.osc o).job.isSome)) ∧
      (∀ n, n < 16 → a.toNat = 0x1000044 + n * 0x100000 → ∃ r, reads = { s with rdata := r } ∧
        ∀ i, i < 32 → r.getLsbD i = (decide (i < 8) && (s.voice n i).created)) ∧
      (a.toNat % 4 = 0 → (accessAt a.toNat).isSome = true → undefAfterReset a.toNat = true →
        (∀ r, ¬ s.shadowCell a.toNat → s.mem.word? a.toNat = some r → reads = { s with rdata := r }) ∧
        (s.shadowCell a.toNat ∨ s.mem.word? a.toNat = none →
          reads = { s with rdata := Config.busWord s.busReads, busReads := s.busReads + 1 })))

/-- R92 and R103: the mapped words are exactly those of the region table and its layouts, each with the access right of
its register set (`accessAt`). R97, R53 and R433: an accepted write to a read-write register or cell stores the listed
bits, which a read of it then returns, sets no flag, and changes what a read of no other register or cell returns, but
for OSTAT and CFGVER of an oscillator whose configuration it writes; an accepted configuration write bumps the version
and sets DIRTY, whatever the value, and no other oscillator changes; a write of 1 bits clears exactly those bits of the
write-1-to-clear registers. -/
def Obligations.HostWrites : Prop :=
  (∀ a : Nat, a % 4 = 0 → (locate a).map (·.access) = accessAt a) ∧
  (∀ (a v : Word) (g : Reg) (s : State), a.toNat % 4 = 0 → locate a.toNat = some g → g.access = .rw →
    (s.status.busy = true → busyWritable a.toNat = true) →
    let t := hostStep (.write .w32 a v) s
    g.read t = some (v &&& listedBits a.toNat) ∧ t.err = s.err ∧ t.irqPend = s.irqPend ∧
      ∀ b h, b % 4 = 0 → b ≠ a.toNat → locate b = some h →
        ¬ (0x10000 ≤ a.toNat ∧ a.toNat < 0x20000 ∧ b / 0x1000 = a.toNat / 0x1000 ∧
          (b % 0x1000 = 0x480 ∨ b % 0x1000 = 0x484)) → h.read t = h.read s) ∧
  (∀ (o off : Nat) (v : Word) (s : State), o < 16 → off ≤ 0x44C → off % 4 = 0 → s.status.busy = false →
    let t := hostStep (.write .w32 (BitVec.ofNat 32 (0x10000 + o * 0x1000 + off)) v) s
    (t.osc o).cfgver = (s.osc o).cfgver + 1 ∧ (t.osc o).dirty = true ∧ (∀ p, p ≠ o → t.osc p = s.osc p) ∧
      (t.osc o).pubsel = (s.osc o).pubsel ∧ (t.osc o).valid = (s.osc o).valid ∧
      (t.osc o).pubver = (s.osc o).pubver ∧ (t.osc o).job = (s.osc o).job ∧ t.err = s.err) ∧
  (∀ (v : Word) (s : State),
    hostStep (.write .w32 0x4C v) s = { s with err := s.err &&& ~~~(v.extractLsb' 0 8) } ∧
    hostStep (.write .w32 0x64 v) s = { s with irqPend := s.irqPend &&& ~~~(v.extractLsb' 0 5) } ∧
    hostStep (.write .w32 0x7C v) s = { s with regenDone := s.regenDone &&& ~~~(v.extractLsb' 0 16) } ∧
    hostStep (.write .w32 0xA0 v) s = { s with regenCanc := s.regenCanc &&& ~~~(v.extractLsb' 0 16) })

/-! ## Configuration functions and arithmetic -/

/-- The required properties of the sine table (R18), of exp2 (R19), of db2lin and lin2db (R232) and of the magnitude scales
(R175; that two codes at one distance from 64 have one magnitude follows from its order, log entry 23, DEDUCED). -/
def Obligations.ConfigFunctions : Prop :=
  (sinRom 0 = 0 ∧ sinRom 256 = 16777216 ∧ sinRom 512 = 0 ∧ sinRom 768 = -16777216 ∧
    (∀ i, i < 512 → sinRom (512 + i) = -sinRom i) ∧ (∀ i, i ≤ 512 → sinRom (512 - i) = sinRom i) ∧
    ∀ i, (sinRom i).natAbs ≤ 16777216) ∧
  ((∀ m : Int, -16 ≤ m → m ≤ 15 → exp2 (m * 16777216) = 2 ^ (m + 16).toNat) ∧
    (∀ x y : Int, x ≤ y → y ≤ 2147483647 → exp2 x ≤ exp2 y) ∧ ∀ x : Int, exp2 x ≤ 4294967295) ∧
  (db2lin 0 = 16777216 ∧ (∀ x, x ≤ -1677721600 → db2lin x = 0) ∧
    (∀ x y : Int, x ≤ y → y ≤ 2147483647 → db2lin x ≤ db2lin y) ∧
    (∀ x, 0 ≤ db2lin x ∧ db2lin x ≤ 2147483647) ∧ (∀ v, v ≤ 0 → lin2db v = -1677721600) ∧ lin2db 16777216 = 0 ∧
    (∀ x y : Int, x ≤ y → y ≤ 2147483647 → lin2db x ≤ lin2db y) ∧ ∀ v, -1677721600 ≤ lin2db v) ∧
  ((∀ t, magMap t 64 = 0) ∧ (∀ c : Nat, magMap 0 c = ((c : Int) - 64) * 262144) ∧
    (∀ t c, t ≠ 0 → 64 < c → 0 < magMap t c ∧ magMap t c ≤ 16777216) ∧
    (∀ t c, t ≠ 0 → c < 64 → magMap t c < 0 ∧ -16777216 ≤ magMap t c) ∧
    (∀ t (c d : Nat), c ≤ 127 → d ≤ 127 → ((c : Int) - 64).natAbs ≤ ((d : Int) - 64).natAbs →
      (magMap t c).natAbs ≤ (magMap t d).natAbs))

/-- R335, R337 and R340 to R356, sample by sample. A block of a sub-voice: whatever the topology the carrier phase advances by
exactly INC per sample modulo PHMOD, and the own modulator's by INCM; None, Morph, Ring, Phase and Frequency deliver the
samples of R341 to R345, with the integrator of Frequency. A lookup lies between the two table samples it interpolates. The
unison mix is the exact weighted sum, rounded and saturated once, and one plain sub-voice in the middle comes through as it is
(R347). The fade-in starts at 0 and ends after 64 samples (R348); the amplitude is a ramp from the old value, or the new one,
never more than AMP_THRESH away from the old at the block's start (R349); the fade-out falls by 65536 a sample (R350). The
deposit goes into the note's sums or into VOUT (R352). -/
def Obligations.PhaseContinuity : Prop :=
  (∀ (c : SubCfg) (p : SubPhase) (es : List (Int × Int)), p.ph < Config.PHMOD → p.phm < Config.PHMOD →
    let r := (subBlock c p es).val
    let P := fun i : Nat => (p.ph + i * c.inc) % 17179869184
    let own := interp c.wave
    let m := fun i : Nat => if c.ext then (es.getD i (0, 0)).1 else interp c.wavem ((p.phm + i * c.incm) % 17179869184)
    let ma := fun i : Nat => (es.getD i (0, 0)).2
    let mac := fun i : Nat => clamp (ma i) 0 16777216
    let sm := fun i : Nat => (qmul (m i) (sat32 (ma i)).val).val
    r.2.ph = P es.length ∧ r.1.length = es.length ∧
    r.2.phm = (if c.topo ≠ 0 ∧ c.ext = false then (p.phm + es.length * c.incm) % 17179869184 else p.phm) ∧
    (c.topo ≠ 4 → r.2.fmi = p.fmi) ∧
    (c.topo = 0 → ∀ i, i < es.length → r.1.getD i 0 = own (P i)) ∧
    (c.topo = 1 → ∀ i, i < es.length → r.1.getD i 0 = (lerp (own (P i)) (m i) (mac i)).val) ∧
    (c.topo = 2 → ∀ i, i < es.length → r.1.getD i 0 =
      (qmul (own (P i)) (sat32 (16777216 - mac i + (qmul (m i) (mac i)).val)).val).val) ∧
    (c.topo = 3 → ∀ i, i < es.length → r.1.getD i 0 =
      own (((P i : Int) + sm i * c.modgain) % 17179869184).toNat) ∧
    (c.topo = 4 → ∃ F : Nat → Nat, F 0 = p.fmi ∧ r.2.fmi = F es.length ∧ ∀ i, i < es.length →
      (F (i + 1) : Int) = ((F i : Int) + fdiv (sm i * c.modgain) 256) % 17179869184 ∧
      r.1.getD i 0 = own ((P i + F (i + 1)) % 17179869184))) ∧
  (∀ (w : List Int) (p : Nat), p < 17179869184 →
    let a := w.getD (p / 16777216) 0
    let b := w.getD ((p / 16777216 + 1) % 1024) 0
    min a b ≤ interp w p ∧ interp w p ≤ max a b) ∧
  (∀ (norm : Int) (right : Bool) (subs : List (Int × Bool × List Int)) (i : Nat), i < 256 →
    (unisonMix norm (subs.map fun x => panWeight right x.1 x.2.1) (subs.map (·.2.2))).val.getD i 0 =
      clamp (fdiv ((subs.map fun x => (if x.2.1 then -1 else 1) * x.2.2.getD i 0 *
        clamp (2 * (if right then x.1 else 16777216 - x.1)) 0 16777216).sum * norm + 140737488355328) 281474976710656)
        (-2147483648) 2147483647) ∧
  (∀ (right : Bool) (b : List Int), b.length = 256 → (∀ y ∈ b, -2147483648 ≤ y ∧ y ≤ 2147483647) →
    unisonMix 16777216 [panWeight right 8388608 false] [b] = ⟨b, false⟩) ∧
  (∀ b : List Int, b.length = 256 → (fadeInBuf b).val.length = 256 ∧ (fadeInBuf b).val.getD 0 0 = 0 ∧
    ∀ i, i < 256 → (fadeInBuf b).val.getD i 0 =
      if i < 64 then (qmul (b.getD i 0) (fdiv (16777216 - cosRom (8 * i)) 2)).val else b.getD i 0) ∧
  (∀ (old new : Int) (b : List Int), b.length = 256 → (scaleBy (ampGain old new) b).val.length = 256 ∧
    (ampGain old new 0 - old).natAbs ≤ 2048 ∧ ∀ i, i < 256 → (scaleBy (ampGain old new) b).val.getD i 0 =
      (qmul (b.getD i 0) (if 2048 < (new - old).natAbs then old + fdiv ((new - old) * i) 256 else new)).val) ∧
  (∀ b : List Int, b.length = 256 → ∀ i, i < 256 →
    (scaleBy fadeOutGain b).val.getD i 0 = (qmul (b.getD i 0) (65536 * (256 - (i : Int)))).val) ∧
  (∀ (n v : Nat) (acc : Sums) (x : Stereo), x.l.length = 256 → x.r.length = 256 → acc.l.length = 256 →
    acc.r.length = 256 →
    let y := x.st.voice n v
    let d := deposit n v acc x
    ∀ i, i < 256 →
      if y.dest then d.l = acc.l ∧ d.r = acc.r ∧
        d.st.mem.word? (voutAddr n v + 4 * i) =
          some (toWord (clamp (x.l.getD i 0 + x.r.getD i 0) (-2147483648) 2147483647))
      else d.l.getD i 0 = acc.l.getD i 0 + x.l.getD i 0 * y.vpanl.toInt ∧
        d.r.getD i 0 = acc.r.getD i 0 + x.r.getD i 0 * y.vpanr.toInt ∧
        d.st.mem.word? (voutAddr n v + 4 * i) = some 0)
end

