-- ==== Sys2Proof/Laws/State.lean ====
section
/-! SUPPORT. What each update of the state leaves as it was and what it writes: one lemma per field per update. -/

namespace Sys2Proof.Machine

variable (s : State)

/-! ## setErrIf -/

@[simp] theorem setErrIf_x0 (b : Bool) (e : ErrBit) : (s.setErrIf b e).x0 = s.x0 := rfl
@[simp] theorem setErrIf_x1 (b : Bool) (e : ErrBit) : (s.setErrIf b e).x1 = s.x1 := rfl
@[simp] theorem setErrIf_x2 (b : Bool) (e : ErrBit) : (s.setErrIf b e).x2 = s.x2 := rfl
@[simp] theorem setErrIf_x3 (b : Bool) (e : ErrBit) : (s.setErrIf b e).x3 = s.x3 := rfl
@[simp] theorem setErrIf_res0 (b : Bool) (e : ErrBit) : (s.setErrIf b e).res0 = s.res0 := rfl
@[simp] theorem setErrIf_res1 (b : Bool) (e : ErrBit) : (s.setErrIf b e).res1 = s.res1 := rfl
@[simp] theorem setErrIf_cptr (b : Bool) (e : ErrBit) : (s.setErrIf b e).cptr = s.cptr := rfl
@[simp] theorem setErrIf_status (b : Bool) (e : ErrBit) : (s.setErrIf b e).status = s.status := rfl
@[simp] theorem setErrIf_faultCode (b : Bool) (e : ErrBit) : (s.setErrIf b e).faultCode = s.faultCode := rfl
@[simp] theorem setErrIf_faultPtr (b : Bool) (e : ErrBit) : (s.setErrIf b e).faultPtr = s.faultPtr := rfl
@[simp] theorem setErrIf_faultInfo (b : Bool) (e : ErrBit) : (s.setErrIf b e).faultInfo = s.faultInfo := rfl
@[simp] theorem setErrIf_irqEn (b : Bool) (e : ErrBit) : (s.setErrIf b e).irqEn = s.irqEn := rfl
@[simp] theorem setErrIf_voiceCap (b : Bool) (e : ErrBit) : (s.setErrIf b e).voiceCap = s.voiceCap := rfl
@[simp] theorem setErrIf_nvoices (b : Bool) (e : ErrBit) : (s.setErrIf b e).nvoices = s.nvoices := rfl
@[simp] theorem setErrIf_ctl (b : Bool) (e : ErrBit) : (s.setErrIf b e).ctl = s.ctl := rfl
@[simp] theorem setErrIf_regenDone (b : Bool) (e : ErrBit) : (s.setErrIf b e).regenDone = s.regenDone := rfl
@[simp] theorem setErrIf_regenCanc (b : Bool) (e : ErrBit) : (s.setErrIf b e).regenCanc = s.regenCanc := rfl
@[simp] theorem setErrIf_oscs (b : Bool) (e : ErrBit) : (s.setErrIf b e).oscs = s.oscs := rfl
@[simp] theorem setErrIf_notes (b : Bool) (e : ErrBit) : (s.setErrIf b e).notes = s.notes := rfl
@[simp] theorem setErrIf_mem (b : Bool) (e : ErrBit) : (s.setErrIf b e).mem = s.mem := rfl
@[simp] theorem setErrIf_turns (b : Bool) (e : ErrBit) : (s.setErrIf b e).turns = s.turns := rfl
@[simp] theorem setErrIf_rdata (b : Bool) (e : ErrBit) : (s.setErrIf b e).rdata = s.rdata := rfl
@[simp] theorem setErrIf_busReads (b : Bool) (e : ErrBit) : (s.setErrIf b e).busReads = s.busReads := rfl
@[simp] theorem setErrIf_undefReads (b : Bool) (e : ErrBit) : (s.setErrIf b e).undefReads = s.undefReads := rfl
@[simp] theorem setErrIf_undefRead (b : Bool) (e : ErrBit) : (s.setErrIf b e).undefRead = s.undefRead := rfl

/-! ## setErr -/

@[simp] theorem setErr_x0 (e : ErrBit) : (s.setErr e).x0 = s.x0 := rfl
@[simp] theorem setErr_x1 (e : ErrBit) : (s.setErr e).x1 = s.x1 := rfl
@[simp] theorem setErr_x2 (e : ErrBit) : (s.setErr e).x2 = s.x2 := rfl
@[simp] theorem setErr_x3 (e : ErrBit) : (s.setErr e).x3 = s.x3 := rfl
@[simp] theorem setErr_res0 (e : ErrBit) : (s.setErr e).res0 = s.res0 := rfl
@[simp] theorem setErr_res1 (e : ErrBit) : (s.setErr e).res1 = s.res1 := rfl
@[simp] theorem setErr_cptr (e : ErrBit) : (s.setErr e).cptr = s.cptr := rfl
@[simp] theorem setErr_status (e : ErrBit) : (s.setErr e).status = s.status := rfl
@[simp] theorem setErr_faultCode (e : ErrBit) : (s.setErr e).faultCode = s.faultCode := rfl
@[simp] theorem setErr_faultPtr (e : ErrBit) : (s.setErr e).faultPtr = s.faultPtr := rfl
@[simp] theorem setErr_faultInfo (e : ErrBit) : (s.setErr e).faultInfo = s.faultInfo := rfl
@[simp] theorem setErr_irqEn (e : ErrBit) : (s.setErr e).irqEn = s.irqEn := rfl
@[simp] theorem setErr_voiceCap (e : ErrBit) : (s.setErr e).voiceCap = s.voiceCap := rfl
@[simp] theorem setErr_nvoices (e : ErrBit) : (s.setErr e).nvoices = s.nvoices := rfl
@[simp] theorem setErr_ctl (e : ErrBit) : (s.setErr e).ctl = s.ctl := rfl
@[simp] theorem setErr_regenDone (e : ErrBit) : (s.setErr e).regenDone = s.regenDone := rfl
@[simp] theorem setErr_regenCanc (e : ErrBit) : (s.setErr e).regenCanc = s.regenCanc := rfl
@[simp] theorem setErr_oscs (e : ErrBit) : (s.setErr e).oscs = s.oscs := rfl
@[simp] theorem setErr_notes (e : ErrBit) : (s.setErr e).notes = s.notes := rfl
@[simp] theorem setErr_mem (e : ErrBit) : (s.setErr e).mem = s.mem := rfl
@[simp] theorem setErr_turns (e : ErrBit) : (s.setErr e).turns = s.turns := rfl
@[simp] theorem setErr_rdata (e : ErrBit) : (s.setErr e).rdata = s.rdata := rfl
@[simp] theorem setErr_busReads (e : ErrBit) : (s.setErr e).busReads = s.busReads := rfl
@[simp] theorem setErr_undefReads (e : ErrBit) : (s.setErr e).undefReads = s.undefReads := rfl
@[simp] theorem setErr_undefRead (e : ErrBit) : (s.setErr e).undefRead = s.undefRead := rfl

/-! ## noteSat -/

@[simp] theorem noteSat_x0 (b : Bool) : (s.noteSat b).x0 = s.x0 := rfl
@[simp] theorem noteSat_x1 (b : Bool) : (s.noteSat b).x1 = s.x1 := rfl
@[simp] theorem noteSat_x2 (b : Bool) : (s.noteSat b).x2 = s.x2 := rfl
@[simp] theorem noteSat_x3 (b : Bool) : (s.noteSat b).x3 = s.x3 := rfl
@[simp] theorem noteSat_res0 (b : Bool) : (s.noteSat b).res0 = s.res0 := rfl
@[simp] theorem noteSat_res1 (b : Bool) : (s.noteSat b).res1 = s.res1 := rfl
@[simp] theorem noteSat_cptr (b : Bool) : (s.noteSat b).cptr = s.cptr := rfl
@[simp] theorem noteSat_status (b : Bool) : (s.noteSat b).status = s.status := rfl
@[simp] theorem noteSat_faultCode (b : Bool) : (s.noteSat b).faultCode = s.faultCode := rfl
@[simp] theorem noteSat_faultPtr (b : Bool) : (s.noteSat b).faultPtr = s.faultPtr := rfl
@[simp] theorem noteSat_faultInfo (b : Bool) : (s.noteSat b).faultInfo = s.faultInfo := rfl
@[simp] theorem noteSat_irqEn (b : Bool) : (s.noteSat b).irqEn = s.irqEn := rfl
@[simp] theorem noteSat_voiceCap (b : Bool) : (s.noteSat b).voiceCap = s.voiceCap := rfl
@[simp] theorem noteSat_nvoices (b : Bool) : (s.noteSat b).nvoices = s.nvoices := rfl
@[simp] theorem noteSat_ctl (b : Bool) : (s.noteSat b).ctl = s.ctl := rfl
@[simp] theorem noteSat_regenDone (b : Bool) : (s.noteSat b).regenDone = s.regenDone := rfl
@[simp] theorem noteSat_regenCanc (b : Bool) : (s.noteSat b).regenCanc = s.regenCanc := rfl
@[simp] theorem noteSat_oscs (b : Bool) : (s.noteSat b).oscs = s.oscs := rfl
@[simp] theorem noteSat_notes (b : Bool) : (s.noteSat b).notes = s.notes := rfl
@[simp] theorem noteSat_mem (b : Bool) : (s.noteSat b).mem = s.mem := rfl
@[simp] theorem noteSat_turns (b : Bool) : (s.noteSat b).turns = s.turns := rfl
@[simp] theorem noteSat_rdata (b : Bool) : (s.noteSat b).rdata = s.rdata := rfl
@[simp] theorem noteSat_busReads (b : Bool) : (s.noteSat b).busReads = s.busReads := rfl
@[simp] theorem noteSat_undefReads (b : Bool) : (s.noteSat b).undefReads = s.undefReads := rfl
@[simp] theorem noteSat_undefRead (b : Bool) : (s.noteSat b).undefRead = s.undefRead := rfl

/-! ## pend -/

@[simp] theorem pend_x0 (i : IrqBit) : (s.pend i).x0 = s.x0 := rfl
@[simp] theorem pend_x1 (i : IrqBit) : (s.pend i).x1 = s.x1 := rfl
@[simp] theorem pend_x2 (i : IrqBit) : (s.pend i).x2 = s.x2 := rfl
@[simp] theorem pend_x3 (i : IrqBit) : (s.pend i).x3 = s.x3 := rfl
@[simp] theorem pend_res0 (i : IrqBit) : (s.pend i).res0 = s.res0 := rfl
@[simp] theorem pend_res1 (i : IrqBit) : (s.pend i).res1 = s.res1 := rfl
@[simp] theorem pend_cptr (i : IrqBit) : (s.pend i).cptr = s.cptr := rfl
@[simp] theorem pend_status (i : IrqBit) : (s.pend i).status = s.status := rfl
@[simp] theorem pend_err (i : IrqBit) : (s.pend i).err = s.err := rfl
@[simp] theorem pend_faultCode (i : IrqBit) : (s.pend i).faultCode = s.faultCode := rfl
@[simp] theorem pend_faultPtr (i : IrqBit) : (s.pend i).faultPtr = s.faultPtr := rfl
@[simp] theorem pend_faultInfo (i : IrqBit) : (s.pend i).faultInfo = s.faultInfo := rfl
@[simp] theorem pend_irqEn (i : IrqBit) : (s.pend i).irqEn = s.irqEn := rfl
@[simp] theorem pend_voiceCap (i : IrqBit) : (s.pend i).voiceCap = s.voiceCap := rfl
@[simp] theorem pend_nvoices (i : IrqBit) : (s.pend i).nvoices = s.nvoices := rfl
@[simp] theorem pend_ctl (i : IrqBit) : (s.pend i).ctl = s.ctl := rfl
@[simp] theorem pend_regenDone (i : IrqBit) : (s.pend i).regenDone = s.regenDone := rfl
@[simp] theorem pend_regenCanc (i : IrqBit) : (s.pend i).regenCanc = s.regenCanc := rfl
@[simp] theorem pend_oscs (i : IrqBit) : (s.pend i).oscs = s.oscs := rfl
@[simp] theorem pend_notes (i : IrqBit) : (s.pend i).notes = s.notes := rfl
@[simp] theorem pend_mem (i : IrqBit) : (s.pend i).mem = s.mem := rfl
@[simp] theorem pend_turns (i : IrqBit) : (s.pend i).turns = s.turns := rfl
@[simp] theorem pend_rdata (i : IrqBit) : (s.pend i).rdata = s.rdata := rfl
@[simp] theorem pend_busReads (i : IrqBit) : (s.pend i).busReads = s.busReads := rfl
@[simp] theorem pend_undefReads (i : IrqBit) : (s.pend i).undefReads = s.undefReads := rfl
@[simp] theorem pend_undefRead (i : IrqBit) : (s.pend i).undefRead = s.undefRead := rfl

/-! ## touch -/

@[simp] theorem touch_x0 (a n : Nat) : (s.touch a n).x0 = s.x0 := rfl
@[simp] theorem touch_x1 (a n : Nat) : (s.touch a n).x1 = s.x1 := rfl
@[simp] theorem touch_x2 (a n : Nat) : (s.touch a n).x2 = s.x2 := rfl
@[simp] theorem touch_x3 (a n : Nat) : (s.touch a n).x3 = s.x3 := rfl
@[simp] theorem touch_res0 (a n : Nat) : (s.touch a n).res0 = s.res0 := rfl
@[simp] theorem touch_res1 (a n : Nat) : (s.touch a n).res1 = s.res1 := rfl
@[simp] theorem touch_cptr (a n : Nat) : (s.touch a n).cptr = s.cptr := rfl
@[simp] theorem touch_status (a n : Nat) : (s.touch a n).status = s.status := rfl
@[simp] theorem touch_err (a n : Nat) : (s.touch a n).err = s.err := rfl
@[simp] theorem touch_faultCode (a n : Nat) : (s.touch a n).faultCode = s.faultCode := rfl
@[simp] theorem touch_faultPtr (a n : Nat) : (s.touch a n).faultPtr = s.faultPtr := rfl
@[simp] theorem touch_faultInfo (a n : Nat) : (s.touch a n).faultInfo = s.faultInfo := rfl
@[simp] theorem touch_irqEn (a n : Nat) : (s.touch a n).irqEn = s.irqEn := rfl
@[simp] theorem touch_irqPend (a n : Nat) : (s.touch a n).irqPend = s.irqPend := rfl
@[simp] theorem touch_voiceCap (a n : Nat) : (s.touch a n).voiceCap = s.voiceCap := rfl
@[simp] theorem touch_nvoices (a n : Nat) : (s.touch a n).nvoices = s.nvoices := rfl
@[simp] theorem touch_ctl (a n : Nat) : (s.touch a n).ctl = s.ctl := rfl
@[simp] theorem touch_regenDone (a n : Nat) : (s.touch a n).regenDone = s.regenDone := rfl
@[simp] theorem touch_regenCanc (a n : Nat) : (s.touch a n).regenCanc = s.regenCanc := rfl
@[simp] theorem touch_oscs (a n : Nat) : (s.touch a n).oscs = s.oscs := rfl
@[simp] theorem touch_notes (a n : Nat) : (s.touch a n).notes = s.notes := rfl
@[simp] theorem touch_mem (a n : Nat) : (s.touch a n).mem = s.mem := rfl
@[simp] theorem touch_turns (a n : Nat) : (s.touch a n).turns = s.turns := rfl
@[simp] theorem touch_rdata (a n : Nat) : (s.touch a n).rdata = s.rdata := rfl
@[simp] theorem touch_busReads (a n : Nat) : (s.touch a n).busReads = s.busReads := rfl

/-! ## setCell -/

@[simp] theorem setCell_x0 (a : Nat) (w : Word) : (s.setCell a w).x0 = s.x0 := rfl
@[simp] theorem setCell_x1 (a : Nat) (w : Word) : (s.setCell a w).x1 = s.x1 := rfl
@[simp] theorem setCell_x2 (a : Nat) (w : Word) : (s.setCell a w).x2 = s.x2 := rfl
@[simp] theorem setCell_x3 (a : Nat) (w : Word) : (s.setCell a w).x3 = s.x3 := rfl
@[simp] theorem setCell_res0 (a : Nat) (w : Word) : (s.setCell a w).res0 = s.res0 := rfl
@[simp] theorem setCell_res1 (a : Nat) (w : Word) : (s.setCell a w).res1 = s.res1 := rfl
@[simp] theorem setCell_cptr (a : Nat) (w : Word) : (s.setCell a w).cptr = s.cptr := rfl
@[simp] theorem setCell_status (a : Nat) (w : Word) : (s.setCell a w).status = s.status := rfl
@[simp] theorem setCell_err (a : Nat) (w : Word) : (s.setCell a w).err = s.err := rfl
@[simp] theorem setCell_faultCode (a : Nat) (w : Word) : (s.setCell a w).faultCode = s.faultCode := rfl
@[simp] theorem setCell_faultPtr (a : Nat) (w : Word) : (s.setCell a w).faultPtr = s.faultPtr := rfl
@[simp] theorem setCell_faultInfo (a : Nat) (w : Word) : (s.setCell a w).faultInfo = s.faultInfo := rfl
@[simp] theorem setCell_irqEn (a : Nat) (w : Word) : (s.setCell a w).irqEn = s.irqEn := rfl
@[simp] theorem setCell_irqPend (a : Nat) (w : Word) : (s.setCell a w).irqPend = s.irqPend := rfl
@[simp] theorem setCell_voiceCap (a : Nat) (w : Word) : (s.setCell a w).voiceCap = s.voiceCap := rfl
@[simp] theorem setCell_nvoices (a : Nat) (w : Word) : (s.setCell a w).nvoices = s.nvoices := rfl
@[simp] theorem setCell_ctl (a : Nat) (w : Word) : (s.setCell a w).ctl = s.ctl := rfl
@[simp] theorem setCell_regenDone (a : Nat) (w : Word) : (s.setCell a w).regenDone = s.regenDone := rfl
@[simp] theorem setCell_regenCanc (a : Nat) (w : Word) : (s.setCell a w).regenCanc = s.regenCanc := rfl
@[simp] theorem setCell_oscs (a : Nat) (w : Word) : (s.setCell a w).oscs = s.oscs := rfl
@[simp] theorem setCell_notes (a : Nat) (w : Word) : (s.setCell a w).notes = s.notes := rfl
@[simp] theorem setCell_turns (a : Nat) (w : Word) : (s.setCell a w).turns = s.turns := rfl
@[simp] theorem setCell_rdata (a : Nat) (w : Word) : (s.setCell a w).rdata = s.rdata := rfl
@[simp] theorem setCell_busReads (a : Nat) (w : Word) : (s.setCell a w).busReads = s.busReads := rfl
@[simp] theorem setCell_undefReads (a : Nat) (w : Word) : (s.setCell a w).undefReads = s.undefReads := rfl
@[simp] theorem setCell_undefRead (a : Nat) (w : Word) : (s.setCell a w).undefRead = s.undefRead := rfl

/-! ## setCells -/

@[simp] theorem setCells_x0 (a : Nat) (ws : List Word) : (s.setCells a ws).x0 = s.x0 := rfl
@[simp] theorem setCells_x1 (a : Nat) (ws : List Word) : (s.setCells a ws).x1 = s.x1 := rfl
@[simp] theorem setCells_x2 (a : Nat) (ws : List Word) : (s.setCells a ws).x2 = s.x2 := rfl
@[simp] theorem setCells_x3 (a : Nat) (ws : List Word) : (s.setCells a ws).x3 = s.x3 := rfl
@[simp] theorem setCells_res0 (a : Nat) (ws : List Word) : (s.setCells a ws).res0 = s.res0 := rfl
@[simp] theorem setCells_res1 (a : Nat) (ws : List Word) : (s.setCells a ws).res1 = s.res1 := rfl
@[simp] theorem setCells_cptr (a : Nat) (ws : List Word) : (s.setCells a ws).cptr = s.cptr := rfl
@[simp] theorem setCells_status (a : Nat) (ws : List Word) : (s.setCells a ws).status = s.status := rfl
@[simp] theorem setCells_err (a : Nat) (ws : List Word) : (s.setCells a ws).err = s.err := rfl
@[simp] theorem setCells_faultCode (a : Nat) (ws : List Word) : (s.setCells a ws).faultCode = s.faultCode := rfl
@[simp] theorem setCells_faultPtr (a : Nat) (ws : List Word) : (s.setCells a ws).faultPtr = s.faultPtr := rfl
@[simp] theorem setCells_faultInfo (a : Nat) (ws : List Word) : (s.setCells a ws).faultInfo = s.faultInfo := rfl
@[simp] theorem setCells_irqEn (a : Nat) (ws : List Word) : (s.setCells a ws).irqEn = s.irqEn := rfl
@[simp] theorem setCells_irqPend (a : Nat) (ws : List Word) : (s.setCells a ws).irqPend = s.irqPend := rfl
@[simp] theorem setCells_voiceCap (a : Nat) (ws : List Word) : (s.setCells a ws).voiceCap = s.voiceCap := rfl
@[simp] theorem setCells_nvoices (a : Nat) (ws : List Word) : (s.setCells a ws).nvoices = s.nvoices := rfl
@[simp] theorem setCells_ctl (a : Nat) (ws : List Word) : (s.setCells a ws).ctl = s.ctl := rfl
@[simp] theorem setCells_regenDone (a : Nat) (ws : List Word) : (s.setCells a ws).regenDone = s.regenDone := rfl
@[simp] theorem setCells_regenCanc (a : Nat) (ws : List Word) : (s.setCells a ws).regenCanc = s.regenCanc := rfl
@[simp] theorem setCells_oscs (a : Nat) (ws : List Word) : (s.setCells a ws).oscs = s.oscs := rfl
@[simp] theorem setCells_notes (a : Nat) (ws : List Word) : (s.setCells a ws).notes = s.notes := rfl
@[simp] theorem setCells_turns (a : Nat) (ws : List Word) : (s.setCells a ws).turns = s.turns := rfl
@[simp] theorem setCells_rdata (a : Nat) (ws : List Word) : (s.setCells a ws).rdata = s.rdata := rfl
@[simp] theorem setCells_busReads (a : Nat) (ws : List Word) : (s.setCells a ws).busReads = s.busReads := rfl
@[simp] theorem setCells_undefReads (a : Nat) (ws : List Word) : (s.setCells a ws).undefReads = s.undefReads := rfl
@[simp] theorem setCells_undefRead (a : Nat) (ws : List Word) : (s.setCells a ws).undefRead = s.undefRead := rfl

/-! ## eraseCells -/

@[simp] theorem eraseCells_x0 (a n : Nat) : (s.eraseCells a n).x0 = s.x0 := rfl
@[simp] theorem eraseCells_x1 (a n : Nat) : (s.eraseCells a n).x1 = s.x1 := rfl
@[simp] theorem eraseCells_x2 (a n : Nat) : (s.eraseCells a n).x2 = s.x2 := rfl
@[simp] theorem eraseCells_x3 (a n : Nat) : (s.eraseCells a n).x3 = s.x3 := rfl
@[simp] theorem eraseCells_res0 (a n : Nat) : (s.eraseCells a n).res0 = s.res0 := rfl
@[simp] theorem eraseCells_res1 (a n : Nat) : (s.eraseCells a n).res1 = s.res1 := rfl
@[simp] theorem eraseCells_cptr (a n : Nat) : (s.eraseCells a n).cptr = s.cptr := rfl
@[simp] theorem eraseCells_status (a n : Nat) : (s.eraseCells a n).status = s.status := rfl
@[simp] theorem eraseCells_err (a n : Nat) : (s.eraseCells a n).err = s.err := rfl
@[simp] theorem eraseCells_faultCode (a n : Nat) : (s.eraseCells a n).faultCode = s.faultCode := rfl
@[simp] theorem eraseCells_faultPtr (a n : Nat) : (s.eraseCells a n).faultPtr = s.faultPtr := rfl
@[simp] theorem eraseCells_faultInfo (a n : Nat) : (s.eraseCells a n).faultInfo = s.faultInfo := rfl
@[simp] theorem eraseCells_irqEn (a n : Nat) : (s.eraseCells a n).irqEn = s.irqEn := rfl
@[simp] theorem eraseCells_irqPend (a n : Nat) : (s.eraseCells a n).irqPend = s.irqPend := rfl
@[simp] theorem eraseCells_voiceCap (a n : Nat) : (s.eraseCells a n).voiceCap = s.voiceCap := rfl
@[simp] theorem eraseCells_nvoices (a n : Nat) : (s.eraseCells a n).nvoices = s.nvoices := rfl
@[simp] theorem eraseCells_ctl (a n : Nat) : (s.eraseCells a n).ctl = s.ctl := rfl
@[simp] theorem eraseCells_regenDone (a n : Nat) : (s.eraseCells a n).regenDone = s.regenDone := rfl
@[simp] theorem eraseCells_regenCanc (a n : Nat) : (s.eraseCells a n).regenCanc = s.regenCanc := rfl
@[simp] theorem eraseCells_oscs (a n : Nat) : (s.eraseCells a n).oscs = s.oscs := rfl
@[simp] theorem eraseCells_notes (a n : Nat) : (s.eraseCells a n).notes = s.notes := rfl
@[simp] theorem eraseCells_turns (a n : Nat) : (s.eraseCells a n).turns = s.turns := rfl
@[simp] theorem eraseCells_rdata (a n : Nat) : (s.eraseCells a n).rdata = s.rdata := rfl
@[simp] theorem eraseCells_busReads (a n : Nat) : (s.eraseCells a n).busReads = s.busReads := rfl
@[simp] theorem eraseCells_undefReads (a n : Nat) : (s.eraseCells a n).undefReads = s.undefReads := rfl
@[simp] theorem eraseCells_undefRead (a n : Nat) : (s.eraseCells a n).undefRead = s.undefRead := rfl

/-! ## setSignedCells -/

@[simp] theorem setSignedCells_x0 (a : Nat) (xs : List Int) : (s.setSignedCells a xs).x0 = s.x0 := rfl
@[simp] theorem setSignedCells_x1 (a : Nat) (xs : List Int) : (s.setSignedCells a xs).x1 = s.x1 := rfl
@[simp] theorem setSignedCells_x2 (a : Nat) (xs : List Int) : (s.setSignedCells a xs).x2 = s.x2 := rfl
@[simp] theorem setSignedCells_x3 (a : Nat) (xs : List Int) : (s.setSignedCells a xs).x3 = s.x3 := rfl
@[simp] theorem setSignedCells_res0 (a : Nat) (xs : List Int) : (s.setSignedCells a xs).res0 = s.res0 := rfl
@[simp] theorem setSignedCells_res1 (a : Nat) (xs : List Int) : (s.setSignedCells a xs).res1 = s.res1 := rfl
@[simp] theorem setSignedCells_cptr (a : Nat) (xs : List Int) : (s.setSignedCells a xs).cptr = s.cptr := rfl
@[simp] theorem setSignedCells_status (a : Nat) (xs : List Int) : (s.setSignedCells a xs).status = s.status := rfl
@[simp] theorem setSignedCells_err (a : Nat) (xs : List Int) : (s.setSignedCells a xs).err = s.err := rfl
@[simp] theorem setSignedCells_faultCode (a : Nat) (xs : List Int) : (s.setSignedCells a xs).faultCode = s.faultCode := rfl
@[simp] theorem setSignedCells_faultPtr (a : Nat) (xs : List Int) : (s.setSignedCells a xs).faultPtr = s.faultPtr := rfl
@[simp] theorem setSignedCells_faultInfo (a : Nat) (xs : List Int) : (s.setSignedCells a xs).faultInfo = s.faultInfo := rfl
@[simp] theorem setSignedCells_irqEn (a : Nat) (xs : List Int) : (s.setSignedCells a xs).irqEn = s.irqEn := rfl
@[simp] theorem setSignedCells_irqPend (a : Nat) (xs : List Int) : (s.setSignedCells a xs).irqPend = s.irqPend := rfl
@[simp] theorem setSignedCells_voiceCap (a : Nat) (xs : List Int) : (s.setSignedCells a xs).voiceCap = s.voiceCap := rfl
@[simp] theorem setSignedCells_nvoices (a : Nat) (xs : List Int) : (s.setSignedCells a xs).nvoices = s.nvoices := rfl
@[simp] theorem setSignedCells_ctl (a : Nat) (xs : List Int) : (s.setSignedCells a xs).ctl = s.ctl := rfl
@[simp] theorem setSignedCells_regenDone (a : Nat) (xs : List Int) : (s.setSignedCells a xs).regenDone = s.regenDone := rfl
@[simp] theorem setSignedCells_regenCanc (a : Nat) (xs : List Int) : (s.setSignedCells a xs).regenCanc = s.regenCanc := rfl
@[simp] theorem setSignedCells_oscs (a : Nat) (xs : List Int) : (s.setSignedCells a xs).oscs = s.oscs := rfl
@[simp] theorem setSignedCells_notes (a : Nat) (xs : List Int) : (s.setSignedCells a xs).notes = s.notes := rfl
@[simp] theorem setSignedCells_turns (a : Nat) (xs : List Int) : (s.setSignedCells a xs).turns = s.turns := rfl
@[simp] theorem setSignedCells_rdata (a : Nat) (xs : List Int) : (s.setSignedCells a xs).rdata = s.rdata := rfl
@[simp] theorem setSignedCells_busReads (a : Nat) (xs : List Int) : (s.setSignedCells a xs).busReads = s.busReads := rfl
@[simp] theorem setSignedCells_undefReads (a : Nat) (xs : List Int) : (s.setSignedCells a xs).undefReads = s.undefReads := rfl
@[simp] theorem setSignedCells_undefRead (a : Nat) (xs : List Int) : (s.setSignedCells a xs).undefRead = s.undefRead := rfl

/-! ## setPhase -/

@[simp] theorem setPhase_x0 (n v k : Nat) (hi lo : UniField) (p : Nat) : (s.setPhase n v k hi lo p).x0 = s.x0 := rfl
@[simp] theorem setPhase_x1 (n v k : Nat) (hi lo : UniField) (p : Nat) : (s.setPhase n v k hi lo p).x1 = s.x1 := rfl
@[simp] theorem setPhase_x2 (n v k : Nat) (hi lo : UniField) (p : Nat) : (s.setPhase n v k hi lo p).x2 = s.x2 := rfl
@[simp] theorem setPhase_x3 (n v k : Nat) (hi lo : UniField) (p : Nat) : (s.setPhase n v k hi lo p).x3 = s.x3 := rfl
@[simp] theorem setPhase_res0 (n v k : Nat) (hi lo : UniField) (p : Nat) : (s.setPhase n v k hi lo p).res0 = s.res0 := rfl
@[simp] theorem setPhase_res1 (n v k : Nat) (hi lo : UniField) (p : Nat) : (s.setPhase n v k hi lo p).res1 = s.res1 := rfl
@[simp] theorem setPhase_cptr (n v k : Nat) (hi lo : UniField) (p : Nat) : (s.setPhase n v k hi lo p).cptr = s.cptr := rfl
@[simp] theorem setPhase_status (n v k : Nat) (hi lo : UniField) (p : Nat) : (s.setPhase n v k hi lo p).status = s.status := rfl
@[simp] theorem setPhase_err (n v k : Nat) (hi lo : UniField) (p : Nat) : (s.setPhase n v k hi lo p).err = s.err := rfl
@[simp] theorem setPhase_faultCode (n v k : Nat) (hi lo : UniField) (p : Nat) : (s.setPhase n v k hi lo p).faultCode = s.faultCode := rfl
@[simp] theorem setPhase_faultPtr (n v k : Nat) (hi lo : UniField) (p : Nat) : (s.setPhase n v k hi lo p).faultPtr = s.faultPtr := rfl
@[simp] theorem setPhase_faultInfo (n v k : Nat) (hi lo : UniField) (p : Nat) : (s.setPhase n v k hi lo p).faultInfo = s.faultInfo := rfl
@[simp] theorem setPhase_irqEn (n v k : Nat) (hi lo : UniField) (p : Nat) : (s.setPhase n v k hi lo p).irqEn = s.irqEn := rfl
@[simp] theorem setPhase_irqPend (n v k : Nat) (hi lo : UniField) (p : Nat) : (s.setPhase n v k hi lo p).irqPend = s.irqPend := rfl
@[simp] theorem setPhase_voiceCap (n v k : Nat) (hi lo : UniField) (p : Nat) : (s.setPhase n v k hi lo p).voiceCap = s.voiceCap := rfl
@[simp] theorem setPhase_nvoices (n v k : Nat) (hi lo : UniField) (p : Nat) : (s.setPhase n v k hi lo p).nvoices = s.nvoices := rfl
@[simp] theorem setPhase_ctl (n v k : Nat) (hi lo : UniField) (p : Nat) : (s.setPhase n v k hi lo p).ctl = s.ctl := rfl
@[simp] theorem setPhase_regenDone (n v k : Nat) (hi lo : UniField) (p : Nat) : (s.setPhase n v k hi lo p).regenDone = s.regenDone := rfl
@[simp] theorem setPhase_regenCanc (n v k : Nat) (hi lo : UniField) (p : Nat) : (s.setPhase n v k hi lo p).regenCanc = s.regenCanc := rfl
@[simp] theorem setPhase_oscs (n v k : Nat) (hi lo : UniField) (p : Nat) : (s.setPhase n v k hi lo p).oscs = s.oscs := rfl
@[simp] theorem setPhase_notes (n v k : Nat) (hi lo : UniField) (p : Nat) : (s.setPhase n v k hi lo p).notes = s.notes := rfl
@[simp] theorem setPhase_turns (n v k : Nat) (hi lo : UniField) (p : Nat) : (s.setPhase n v k hi lo p).turns = s.turns := rfl
@[simp] theorem setPhase_rdata (n v k : Nat) (hi lo : UniField) (p : Nat) : (s.setPhase n v k hi lo p).rdata = s.rdata := rfl
@[simp] theorem setPhase_busReads (n v k : Nat) (hi lo : UniField) (p : Nat) : (s.setPhase n v k hi lo p).busReads = s.busReads := rfl
@[simp] theorem setPhase_undefReads (n v k : Nat) (hi lo : UniField) (p : Nat) : (s.setPhase n v k hi lo p).undefReads = s.undefReads := rfl
@[simp] theorem setPhase_undefRead (n v k : Nat) (hi lo : UniField) (p : Nat) : (s.setPhase n v k hi lo p).undefRead = s.undefRead := rfl

/-! ## setOsc -/

@[simp] theorem setOsc_x0 (o : Nat) (x : Osc) : (s.setOsc o x).x0 = s.x0 := rfl
@[simp] theorem setOsc_x1 (o : Nat) (x : Osc) : (s.setOsc o x).x1 = s.x1 := rfl
@[simp] theorem setOsc_x2 (o : Nat) (x : Osc) : (s.setOsc o x).x2 = s.x2 := rfl
@[simp] theorem setOsc_x3 (o : Nat) (x : Osc) : (s.setOsc o x).x3 = s.x3 := rfl
@[simp] theorem setOsc_res0 (o : Nat) (x : Osc) : (s.setOsc o x).res0 = s.res0 := rfl
@[simp] theorem setOsc_res1 (o : Nat) (x : Osc) : (s.setOsc o x).res1 = s.res1 := rfl
@[simp] theorem setOsc_cptr (o : Nat) (x : Osc) : (s.setOsc o x).cptr = s.cptr := rfl
@[simp] theorem setOsc_status (o : Nat) (x : Osc) : (s.setOsc o x).status = s.status := rfl
@[simp] theorem setOsc_err (o : Nat) (x : Osc) : (s.setOsc o x).err = s.err := rfl
@[simp] theorem setOsc_faultCode (o : Nat) (x : Osc) : (s.setOsc o x).faultCode = s.faultCode := rfl
@[simp] theorem setOsc_faultPtr (o : Nat) (x : Osc) : (s.setOsc o x).faultPtr = s.faultPtr := rfl
@[simp] theorem setOsc_faultInfo (o : Nat) (x : Osc) : (s.setOsc o x).faultInfo = s.faultInfo := rfl
@[simp] theorem setOsc_irqEn (o : Nat) (x : Osc) : (s.setOsc o x).irqEn = s.irqEn := rfl
@[simp] theorem setOsc_irqPend (o : Nat) (x : Osc) : (s.setOsc o x).irqPend = s.irqPend := rfl
@[simp] theorem setOsc_voiceCap (o : Nat) (x : Osc) : (s.setOsc o x).voiceCap = s.voiceCap := rfl
@[simp] theorem setOsc_nvoices (o : Nat) (x : Osc) : (s.setOsc o x).nvoices = s.nvoices := rfl
@[simp] theorem setOsc_ctl (o : Nat) (x : Osc) : (s.setOsc o x).ctl = s.ctl := rfl
@[simp] theorem setOsc_regenDone (o : Nat) (x : Osc) : (s.setOsc o x).regenDone = s.regenDone := rfl
@[simp] theorem setOsc_regenCanc (o : Nat) (x : Osc) : (s.setOsc o x).regenCanc = s.regenCanc := rfl
@[simp] theorem setOsc_notes (o : Nat) (x : Osc) : (s.setOsc o x).notes = s.notes := rfl
@[simp] theorem setOsc_mem (o : Nat) (x : Osc) : (s.setOsc o x).mem = s.mem := rfl
@[simp] theorem setOsc_turns (o : Nat) (x : Osc) : (s.setOsc o x).turns = s.turns := rfl
@[simp] theorem setOsc_rdata (o : Nat) (x : Osc) : (s.setOsc o x).rdata = s.rdata := rfl
@[simp] theorem setOsc_busReads (o : Nat) (x : Osc) : (s.setOsc o x).busReads = s.busReads := rfl
@[simp] theorem setOsc_undefReads (o : Nat) (x : Osc) : (s.setOsc o x).undefReads = s.undefReads := rfl
@[simp] theorem setOsc_undefRead (o : Nat) (x : Osc) : (s.setOsc o x).undefRead = s.undefRead := rfl

/-! ## setNote -/

@[simp] theorem setNote_x0 (n : Nat) (x : Note) : (s.setNote n x).x0 = s.x0 := rfl
@[simp] theorem setNote_x1 (n : Nat) (x : Note) : (s.setNote n x).x1 = s.x1 := rfl
@[simp] theorem setNote_x2 (n : Nat) (x : Note) : (s.setNote n x).x2 = s.x2 := rfl
@[simp] theorem setNote_x3 (n : Nat) (x : Note) : (s.setNote n x).x3 = s.x3 := rfl
@[simp] theorem setNote_res0 (n : Nat) (x : Note) : (s.setNote n x).res0 = s.res0 := rfl
@[simp] theorem setNote_res1 (n : Nat) (x : Note) : (s.setNote n x).res1 = s.res1 := rfl
@[simp] theorem setNote_cptr (n : Nat) (x : Note) : (s.setNote n x).cptr = s.cptr := rfl
@[simp] theorem setNote_status (n : Nat) (x : Note) : (s.setNote n x).status = s.status := rfl
@[simp] theorem setNote_err (n : Nat) (x : Note) : (s.setNote n x).err = s.err := rfl
@[simp] theorem setNote_faultCode (n : Nat) (x : Note) : (s.setNote n x).faultCode = s.faultCode := rfl
@[simp] theorem setNote_faultPtr (n : Nat) (x : Note) : (s.setNote n x).faultPtr = s.faultPtr := rfl
@[simp] theorem setNote_faultInfo (n : Nat) (x : Note) : (s.setNote n x).faultInfo = s.faultInfo := rfl
@[simp] theorem setNote_irqEn (n : Nat) (x : Note) : (s.setNote n x).irqEn = s.irqEn := rfl
@[simp] theorem setNote_irqPend (n : Nat) (x : Note) : (s.setNote n x).irqPend = s.irqPend := rfl
@[simp] theorem setNote_voiceCap (n : Nat) (x : Note) : (s.setNote n x).voiceCap = s.voiceCap := rfl
@[simp] theorem setNote_nvoices (n : Nat) (x : Note) : (s.setNote n x).nvoices = s.nvoices := rfl
@[simp] theorem setNote_ctl (n : Nat) (x : Note) : (s.setNote n x).ctl = s.ctl := rfl
@[simp] theorem setNote_regenDone (n : Nat) (x : Note) : (s.setNote n x).regenDone = s.regenDone := rfl
@[simp] theorem setNote_regenCanc (n : Nat) (x : Note) : (s.setNote n x).regenCanc = s.regenCanc := rfl
@[simp] theorem setNote_oscs (n : Nat) (x : Note) : (s.setNote n x).oscs = s.oscs := rfl
@[simp] theorem setNote_mem (n : Nat) (x : Note) : (s.setNote n x).mem = s.mem := rfl
@[simp] theorem setNote_turns (n : Nat) (x : Note) : (s.setNote n x).turns = s.turns := rfl
@[simp] theorem setNote_rdata (n : Nat) (x : Note) : (s.setNote n x).rdata = s.rdata := rfl
@[simp] theorem setNote_busReads (n : Nat) (x : Note) : (s.setNote n x).busReads = s.busReads := rfl
@[simp] theorem setNote_undefReads (n : Nat) (x : Note) : (s.setNote n x).undefReads = s.undefReads := rfl
@[simp] theorem setNote_undefRead (n : Nat) (x : Note) : (s.setNote n x).undefRead = s.undefRead := rfl

/-! ## modNote -/

@[simp] theorem modNote_x0 (n : Nat) (f : Note → Note) : (s.modNote n f).x0 = s.x0 := rfl
@[simp] theorem modNote_x1 (n : Nat) (f : Note → Note) : (s.modNote n f).x1 = s.x1 := rfl
@[simp] theorem modNote_x2 (n : Nat) (f : Note → Note) : (s.modNote n f).x2 = s.x2 := rfl
@[simp] theorem modNote_x3 (n : Nat) (f : Note → Note) : (s.modNote n f).x3 = s.x3 := rfl
@[simp] theorem modNote_res0 (n : Nat) (f : Note → Note) : (s.modNote n f).res0 = s.res0 := rfl
@[simp] theorem modNote_res1 (n : Nat) (f : Note → Note) : (s.modNote n f).res1 = s.res1 := rfl
@[simp] theorem modNote_cptr (n : Nat) (f : Note → Note) : (s.modNote n f).cptr = s.cptr := rfl
@[simp] theorem modNote_status (n : Nat) (f : Note → Note) : (s.modNote n f).status = s.status := rfl
@[simp] theorem modNote_err (n : Nat) (f : Note → Note) : (s.modNote n f).err = s.err := rfl
@[simp] theorem modNote_faultCode (n : Nat) (f : Note → Note) : (s.modNote n f).faultCode = s.faultCode := rfl
@[simp] theorem modNote_faultPtr (n : Nat) (f : Note → Note) : (s.modNote n f).faultPtr = s.faultPtr := rfl
@[simp] theorem modNote_faultInfo (n : Nat) (f : Note → Note) : (s.modNote n f).faultInfo = s.faultInfo := rfl
@[simp] theorem modNote_irqEn (n : Nat) (f : Note → Note) : (s.modNote n f).irqEn = s.irqEn := rfl
@[simp] theorem modNote_irqPend (n : Nat) (f : Note → Note) : (s.modNote n f).irqPend = s.irqPend := rfl
@[simp] theorem modNote_voiceCap (n : Nat) (f : Note → Note) : (s.modNote n f).voiceCap = s.voiceCap := rfl
@[simp] theorem modNote_nvoices (n : Nat) (f : Note → Note) : (s.modNote n f).nvoices = s.nvoices := rfl
@[simp] theorem modNote_ctl (n : Nat) (f : Note → Note) : (s.modNote n f).ctl = s.ctl := rfl
@[simp] theorem modNote_regenDone (n : Nat) (f : Note → Note) : (s.modNote n f).regenDone = s.regenDone := rfl
@[simp] theorem modNote_regenCanc (n : Nat) (f : Note → Note) : (s.modNote n f).regenCanc = s.regenCanc := rfl
@[simp] theorem modNote_oscs (n : Nat) (f : Note → Note) : (s.modNote n f).oscs = s.oscs := rfl
@[simp] theorem modNote_mem (n : Nat) (f : Note → Note) : (s.modNote n f).mem = s.mem := rfl
@[simp] theorem modNote_turns (n : Nat) (f : Note → Note) : (s.modNote n f).turns = s.turns := rfl
@[simp] theorem modNote_rdata (n : Nat) (f : Note → Note) : (s.modNote n f).rdata = s.rdata := rfl
@[simp] theorem modNote_busReads (n : Nat) (f : Note → Note) : (s.modNote n f).busReads = s.busReads := rfl
@[simp] theorem modNote_undefReads (n : Nat) (f : Note → Note) : (s.modNote n f).undefReads = s.undefReads := rfl
@[simp] theorem modNote_undefRead (n : Nat) (f : Note → Note) : (s.modNote n f).undefRead = s.undefRead := rfl

/-! ## setEnv -/

@[simp] theorem setEnv_x0 (n k : Nat) (e : Env) : (s.setEnv n k e).x0 = s.x0 := rfl
@[simp] theorem setEnv_x1 (n k : Nat) (e : Env) : (s.setEnv n k e).x1 = s.x1 := rfl
@[simp] theorem setEnv_x2 (n k : Nat) (e : Env) : (s.setEnv n k e).x2 = s.x2 := rfl
@[simp] theorem setEnv_x3 (n k : Nat) (e : Env) : (s.setEnv n k e).x3 = s.x3 := rfl
@[simp] theorem setEnv_res0 (n k : Nat) (e : Env) : (s.setEnv n k e).res0 = s.res0 := rfl
@[simp] theorem setEnv_res1 (n k : Nat) (e : Env) : (s.setEnv n k e).res1 = s.res1 := rfl
@[simp] theorem setEnv_cptr (n k : Nat) (e : Env) : (s.setEnv n k e).cptr = s.cptr := rfl
@[simp] theorem setEnv_status (n k : Nat) (e : Env) : (s.setEnv n k e).status = s.status := rfl
@[simp] theorem setEnv_err (n k : Nat) (e : Env) : (s.setEnv n k e).err = s.err := rfl
@[simp] theorem setEnv_faultCode (n k : Nat) (e : Env) : (s.setEnv n k e).faultCode = s.faultCode := rfl
@[simp] theorem setEnv_faultPtr (n k : Nat) (e : Env) : (s.setEnv n k e).faultPtr = s.faultPtr := rfl
@[simp] theorem setEnv_faultInfo (n k : Nat) (e : Env) : (s.setEnv n k e).faultInfo = s.faultInfo := rfl
@[simp] theorem setEnv_irqEn (n k : Nat) (e : Env) : (s.setEnv n k e).irqEn = s.irqEn := rfl
@[simp] theorem setEnv_irqPend (n k : Nat) (e : Env) : (s.setEnv n k e).irqPend = s.irqPend := rfl
@[simp] theorem setEnv_voiceCap (n k : Nat) (e : Env) : (s.setEnv n k e).voiceCap = s.voiceCap := rfl
@[simp] theorem setEnv_nvoices (n k : Nat) (e : Env) : (s.setEnv n k e).nvoices = s.nvoices := rfl
@[simp] theorem setEnv_ctl (n k : Nat) (e : Env) : (s.setEnv n k e).ctl = s.ctl := rfl
@[simp] theorem setEnv_regenDone (n k : Nat) (e : Env) : (s.setEnv n k e).regenDone = s.regenDone := rfl
@[simp] theorem setEnv_regenCanc (n k : Nat) (e : Env) : (s.setEnv n k e).regenCanc = s.regenCanc := rfl
@[simp] theorem setEnv_oscs (n k : Nat) (e : Env) : (s.setEnv n k e).oscs = s.oscs := rfl
@[simp] theorem setEnv_mem (n k : Nat) (e : Env) : (s.setEnv n k e).mem = s.mem := rfl
@[simp] theorem setEnv_turns (n k : Nat) (e : Env) : (s.setEnv n k e).turns = s.turns := rfl
@[simp] theorem setEnv_rdata (n k : Nat) (e : Env) : (s.setEnv n k e).rdata = s.rdata := rfl
@[simp] theorem setEnv_busReads (n k : Nat) (e : Env) : (s.setEnv n k e).busReads = s.busReads := rfl
@[simp] theorem setEnv_undefReads (n k : Nat) (e : Env) : (s.setEnv n k e).undefReads = s.undefReads := rfl
@[simp] theorem setEnv_undefRead (n k : Nat) (e : Env) : (s.setEnv n k e).undefRead = s.undefRead := rfl

/-! ## setLfo -/

@[simp] theorem setLfo_x0 (n k : Nat) (l : Lfo) : (s.setLfo n k l).x0 = s.x0 := rfl
@[simp] theorem setLfo_x1 (n k : Nat) (l : Lfo) : (s.setLfo n k l).x1 = s.x1 := rfl
@[simp] theorem setLfo_x2 (n k : Nat) (l : Lfo) : (s.setLfo n k l).x2 = s.x2 := rfl
@[simp] theorem setLfo_x3 (n k : Nat) (l : Lfo) : (s.setLfo n k l).x3 = s.x3 := rfl
@[simp] theorem setLfo_res0 (n k : Nat) (l : Lfo) : (s.setLfo n k l).res0 = s.res0 := rfl
@[simp] theorem setLfo_res1 (n k : Nat) (l : Lfo) : (s.setLfo n k l).res1 = s.res1 := rfl
@[simp] theorem setLfo_cptr (n k : Nat) (l : Lfo) : (s.setLfo n k l).cptr = s.cptr := rfl
@[simp] theorem setLfo_status (n k : Nat) (l : Lfo) : (s.setLfo n k l).status = s.status := rfl
@[simp] theorem setLfo_err (n k : Nat) (l : Lfo) : (s.setLfo n k l).err = s.err := rfl
@[simp] theorem setLfo_faultCode (n k : Nat) (l : Lfo) : (s.setLfo n k l).faultCode = s.faultCode := rfl
@[simp] theorem setLfo_faultPtr (n k : Nat) (l : Lfo) : (s.setLfo n k l).faultPtr = s.faultPtr := rfl
@[simp] theorem setLfo_faultInfo (n k : Nat) (l : Lfo) : (s.setLfo n k l).faultInfo = s.faultInfo := rfl
@[simp] theorem setLfo_irqEn (n k : Nat) (l : Lfo) : (s.setLfo n k l).irqEn = s.irqEn := rfl
@[simp] theorem setLfo_irqPend (n k : Nat) (l : Lfo) : (s.setLfo n k l).irqPend = s.irqPend := rfl
@[simp] theorem setLfo_voiceCap (n k : Nat) (l : Lfo) : (s.setLfo n k l).voiceCap = s.voiceCap := rfl
@[simp] theorem setLfo_nvoices (n k : Nat) (l : Lfo) : (s.setLfo n k l).nvoices = s.nvoices := rfl
@[simp] theorem setLfo_ctl (n k : Nat) (l : Lfo) : (s.setLfo n k l).ctl = s.ctl := rfl
@[simp] theorem setLfo_regenDone (n k : Nat) (l : Lfo) : (s.setLfo n k l).regenDone = s.regenDone := rfl
@[simp] theorem setLfo_regenCanc (n k : Nat) (l : Lfo) : (s.setLfo n k l).regenCanc = s.regenCanc := rfl
@[simp] theorem setLfo_oscs (n k : Nat) (l : Lfo) : (s.setLfo n k l).oscs = s.oscs := rfl
@[simp] theorem setLfo_mem (n k : Nat) (l : Lfo) : (s.setLfo n k l).mem = s.mem := rfl
@[simp] theorem setLfo_turns (n k : Nat) (l : Lfo) : (s.setLfo n k l).turns = s.turns := rfl
@[simp] theorem setLfo_rdata (n k : Nat) (l : Lfo) : (s.setLfo n k l).rdata = s.rdata := rfl
@[simp] theorem setLfo_busReads (n k : Nat) (l : Lfo) : (s.setLfo n k l).busReads = s.busReads := rfl
@[simp] theorem setLfo_undefReads (n k : Nat) (l : Lfo) : (s.setLfo n k l).undefReads = s.undefReads := rfl
@[simp] theorem setLfo_undefRead (n k : Nat) (l : Lfo) : (s.setLfo n k l).undefRead = s.undefRead := rfl

/-! ## setFlt -/

@[simp] theorem setFlt_x0 (n f : Nat) (x : Flt) : (s.setFlt n f x).x0 = s.x0 := rfl
@[simp] theorem setFlt_x1 (n f : Nat) (x : Flt) : (s.setFlt n f x).x1 = s.x1 := rfl
@[simp] theorem setFlt_x2 (n f : Nat) (x : Flt) : (s.setFlt n f x).x2 = s.x2 := rfl
@[simp] theorem setFlt_x3 (n f : Nat) (x : Flt) : (s.setFlt n f x).x3 = s.x3 := rfl
@[simp] theorem setFlt_res0 (n f : Nat) (x : Flt) : (s.setFlt n f x).res0 = s.res0 := rfl
@[simp] theorem setFlt_res1 (n f : Nat) (x : Flt) : (s.setFlt n f x).res1 = s.res1 := rfl
@[simp] theorem setFlt_cptr (n f : Nat) (x : Flt) : (s.setFlt n f x).cptr = s.cptr := rfl
@[simp] theorem setFlt_status (n f : Nat) (x : Flt) : (s.setFlt n f x).status = s.status := rfl
@[simp] theorem setFlt_err (n f : Nat) (x : Flt) : (s.setFlt n f x).err = s.err := rfl
@[simp] theorem setFlt_faultCode (n f : Nat) (x : Flt) : (s.setFlt n f x).faultCode = s.faultCode := rfl
@[simp] theorem setFlt_faultPtr (n f : Nat) (x : Flt) : (s.setFlt n f x).faultPtr = s.faultPtr := rfl
@[simp] theorem setFlt_faultInfo (n f : Nat) (x : Flt) : (s.setFlt n f x).faultInfo = s.faultInfo := rfl
@[simp] theorem setFlt_irqEn (n f : Nat) (x : Flt) : (s.setFlt n f x).irqEn = s.irqEn := rfl
@[simp] theorem setFlt_irqPend (n f : Nat) (x : Flt) : (s.setFlt n f x).irqPend = s.irqPend := rfl
@[simp] theorem setFlt_voiceCap (n f : Nat) (x : Flt) : (s.setFlt n f x).voiceCap = s.voiceCap := rfl
@[simp] theorem setFlt_nvoices (n f : Nat) (x : Flt) : (s.setFlt n f x).nvoices = s.nvoices := rfl
@[simp] theorem setFlt_ctl (n f : Nat) (x : Flt) : (s.setFlt n f x).ctl = s.ctl := rfl
@[simp] theorem setFlt_regenDone (n f : Nat) (x : Flt) : (s.setFlt n f x).regenDone = s.regenDone := rfl
@[simp] theorem setFlt_regenCanc (n f : Nat) (x : Flt) : (s.setFlt n f x).regenCanc = s.regenCanc := rfl
@[simp] theorem setFlt_oscs (n f : Nat) (x : Flt) : (s.setFlt n f x).oscs = s.oscs := rfl
@[simp] theorem setFlt_mem (n f : Nat) (x : Flt) : (s.setFlt n f x).mem = s.mem := rfl
@[simp] theorem setFlt_turns (n f : Nat) (x : Flt) : (s.setFlt n f x).turns = s.turns := rfl
@[simp] theorem setFlt_rdata (n f : Nat) (x : Flt) : (s.setFlt n f x).rdata = s.rdata := rfl
@[simp] theorem setFlt_busReads (n f : Nat) (x : Flt) : (s.setFlt n f x).busReads = s.busReads := rfl
@[simp] theorem setFlt_undefReads (n f : Nat) (x : Flt) : (s.setFlt n f x).undefReads = s.undefReads := rfl
@[simp] theorem setFlt_undefRead (n f : Nat) (x : Flt) : (s.setFlt n f x).undefRead = s.undefRead := rfl

/-! ## setVoice -/

@[simp] theorem setVoice_x0 (n v : Nat) (x : Voice) : (s.setVoice n v x).x0 = s.x0 := rfl
@[simp] theorem setVoice_x1 (n v : Nat) (x : Voice) : (s.setVoice n v x).x1 = s.x1 := rfl
@[simp] theorem setVoice_x2 (n v : Nat) (x : Voice) : (s.setVoice n v x).x2 = s.x2 := rfl
@[simp] theorem setVoice_x3 (n v : Nat) (x : Voice) : (s.setVoice n v x).x3 = s.x3 := rfl
@[simp] theorem setVoice_res0 (n v : Nat) (x : Voice) : (s.setVoice n v x).res0 = s.res0 := rfl
@[simp] theorem setVoice_res1 (n v : Nat) (x : Voice) : (s.setVoice n v x).res1 = s.res1 := rfl
@[simp] theorem setVoice_cptr (n v : Nat) (x : Voice) : (s.setVoice n v x).cptr = s.cptr := rfl
@[simp] theorem setVoice_status (n v : Nat) (x : Voice) : (s.setVoice n v x).status = s.status := rfl
@[simp] theorem setVoice_err (n v : Nat) (x : Voice) : (s.setVoice n v x).err = s.err := rfl
@[simp] theorem setVoice_faultCode (n v : Nat) (x : Voice) : (s.setVoice n v x).faultCode = s.faultCode := rfl
@[simp] theorem setVoice_faultPtr (n v : Nat) (x : Voice) : (s.setVoice n v x).faultPtr = s.faultPtr := rfl
@[simp] theorem setVoice_faultInfo (n v : Nat) (x : Voice) : (s.setVoice n v x).faultInfo = s.faultInfo := rfl
@[simp] theorem setVoice_irqEn (n v : Nat) (x : Voice) : (s.setVoice n v x).irqEn = s.irqEn := rfl
@[simp] theorem setVoice_irqPend (n v : Nat) (x : Voice) : (s.setVoice n v x).irqPend = s.irqPend := rfl
@[simp] theorem setVoice_voiceCap (n v : Nat) (x : Voice) : (s.setVoice n v x).voiceCap = s.voiceCap := rfl
@[simp] theorem setVoice_nvoices (n v : Nat) (x : Voice) : (s.setVoice n v x).nvoices = s.nvoices := rfl
@[simp] theorem setVoice_ctl (n v : Nat) (x : Voice) : (s.setVoice n v x).ctl = s.ctl := rfl
@[simp] theorem setVoice_regenDone (n v : Nat) (x : Voice) : (s.setVoice n v x).regenDone = s.regenDone := rfl
@[simp] theorem setVoice_regenCanc (n v : Nat) (x : Voice) : (s.setVoice n v x).regenCanc = s.regenCanc := rfl
@[simp] theorem setVoice_oscs (n v : Nat) (x : Voice) : (s.setVoice n v x).oscs = s.oscs := rfl
@[simp] theorem setVoice_mem (n v : Nat) (x : Voice) : (s.setVoice n v x).mem = s.mem := rfl
@[simp] theorem setVoice_turns (n v : Nat) (x : Voice) : (s.setVoice n v x).turns = s.turns := rfl
@[simp] theorem setVoice_rdata (n v : Nat) (x : Voice) : (s.setVoice n v x).rdata = s.rdata := rfl
@[simp] theorem setVoice_busReads (n v : Nat) (x : Voice) : (s.setVoice n v x).busReads = s.busReads := rfl
@[simp] theorem setVoice_undefReads (n v : Nat) (x : Voice) : (s.setVoice n v x).undefReads = s.undefReads := rfl
@[simp] theorem setVoice_undefRead (n v : Nat) (x : Voice) : (s.setVoice n v x).undefRead = s.undefRead := rfl

/-! ## setRng -/

@[simp] theorem setRng_x0 (n : Nat) (r : Word) : (s.setRng n r).x0 = s.x0 := rfl
@[simp] theorem setRng_x1 (n : Nat) (r : Word) : (s.setRng n r).x1 = s.x1 := rfl
@[simp] theorem setRng_x2 (n : Nat) (r : Word) : (s.setRng n r).x2 = s.x2 := rfl
@[simp] theorem setRng_x3 (n : Nat) (r : Word) : (s.setRng n r).x3 = s.x3 := rfl
@[simp] theorem setRng_res0 (n : Nat) (r : Word) : (s.setRng n r).res0 = s.res0 := rfl
@[simp] theorem setRng_res1 (n : Nat) (r : Word) : (s.setRng n r).res1 = s.res1 := rfl
@[simp] theorem setRng_cptr (n : Nat) (r : Word) : (s.setRng n r).cptr = s.cptr := rfl
@[simp] theorem setRng_status (n : Nat) (r : Word) : (s.setRng n r).status = s.status := rfl
@[simp] theorem setRng_err (n : Nat) (r : Word) : (s.setRng n r).err = s.err := rfl
@[simp] theorem setRng_faultCode (n : Nat) (r : Word) : (s.setRng n r).faultCode = s.faultCode := rfl
@[simp] theorem setRng_faultPtr (n : Nat) (r : Word) : (s.setRng n r).faultPtr = s.faultPtr := rfl
@[simp] theorem setRng_faultInfo (n : Nat) (r : Word) : (s.setRng n r).faultInfo = s.faultInfo := rfl
@[simp] theorem setRng_irqEn (n : Nat) (r : Word) : (s.setRng n r).irqEn = s.irqEn := rfl
@[simp] theorem setRng_irqPend (n : Nat) (r : Word) : (s.setRng n r).irqPend = s.irqPend := rfl
@[simp] theorem setRng_voiceCap (n : Nat) (r : Word) : (s.setRng n r).voiceCap = s.voiceCap := rfl
@[simp] theorem setRng_nvoices (n : Nat) (r : Word) : (s.setRng n r).nvoices = s.nvoices := rfl
@[simp] theorem setRng_ctl (n : Nat) (r : Word) : (s.setRng n r).ctl = s.ctl := rfl
@[simp] theorem setRng_regenDone (n : Nat) (r : Word) : (s.setRng n r).regenDone = s.regenDone := rfl
@[simp] theorem setRng_regenCanc (n : Nat) (r : Word) : (s.setRng n r).regenCanc = s.regenCanc := rfl
@[simp] theorem setRng_oscs (n : Nat) (r : Word) : (s.setRng n r).oscs = s.oscs := rfl
@[simp] theorem setRng_mem (n : Nat) (r : Word) : (s.setRng n r).mem = s.mem := rfl
@[simp] theorem setRng_turns (n : Nat) (r : Word) : (s.setRng n r).turns = s.turns := rfl
@[simp] theorem setRng_rdata (n : Nat) (r : Word) : (s.setRng n r).rdata = s.rdata := rfl
@[simp] theorem setRng_busReads (n : Nat) (r : Word) : (s.setRng n r).busReads = s.busReads := rfl
@[simp] theorem setRng_undefReads (n : Nat) (r : Word) : (s.setRng n r).undefReads = s.undefReads := rfl
@[simp] theorem setRng_undefRead (n : Nat) (r : Word) : (s.setRng n r).undefRead = s.undefRead := rfl

/-! ## modVoice -/

@[simp] theorem modVoice_x0 (n v : Nat) (f : Voice → Voice) : (s.modVoice n v f).x0 = s.x0 := rfl
@[simp] theorem modVoice_x1 (n v : Nat) (f : Voice → Voice) : (s.modVoice n v f).x1 = s.x1 := rfl
@[simp] theorem modVoice_x2 (n v : Nat) (f : Voice → Voice) : (s.modVoice n v f).x2 = s.x2 := rfl
@[simp] theorem modVoice_x3 (n v : Nat) (f : Voice → Voice) : (s.modVoice n v f).x3 = s.x3 := rfl
@[simp] theorem modVoice_res0 (n v : Nat) (f : Voice → Voice) : (s.modVoice n v f).res0 = s.res0 := rfl
@[simp] theorem modVoice_res1 (n v : Nat) (f : Voice → Voice) : (s.modVoice n v f).res1 = s.res1 := rfl
@[simp] theorem modVoice_cptr (n v : Nat) (f : Voice → Voice) : (s.modVoice n v f).cptr = s.cptr := rfl
@[simp] theorem modVoice_status (n v : Nat) (f : Voice → Voice) : (s.modVoice n v f).status = s.status := rfl
@[simp] theorem modVoice_err (n v : Nat) (f : Voice → Voice) : (s.modVoice n v f).err = s.err := rfl
@[simp] theorem modVoice_faultCode (n v : Nat) (f : Voice → Voice) : (s.modVoice n v f).faultCode = s.faultCode := rfl
@[simp] theorem modVoice_faultPtr (n v : Nat) (f : Voice → Voice) : (s.modVoice n v f).faultPtr = s.faultPtr := rfl
@[simp] theorem modVoice_faultInfo (n v : Nat) (f : Voice → Voice) : (s.modVoice n v f).faultInfo = s.faultInfo := rfl
@[simp] theorem modVoice_irqEn (n v : Nat) (f : Voice → Voice) : (s.modVoice n v f).irqEn = s.irqEn := rfl
@[simp] theorem modVoice_irqPend (n v : Nat) (f : Voice → Voice) : (s.modVoice n v f).irqPend = s.irqPend := rfl
@[simp] theorem modVoice_voiceCap (n v : Nat) (f : Voice → Voice) : (s.modVoice n v f).voiceCap = s.voiceCap := rfl
@[simp] theorem modVoice_nvoices (n v : Nat) (f : Voice → Voice) : (s.modVoice n v f).nvoices = s.nvoices := rfl
@[simp] theorem modVoice_ctl (n v : Nat) (f : Voice → Voice) : (s.modVoice n v f).ctl = s.ctl := rfl
@[simp] theorem modVoice_regenDone (n v : Nat) (f : Voice → Voice) : (s.modVoice n v f).regenDone = s.regenDone := rfl
@[simp] theorem modVoice_regenCanc (n v : Nat) (f : Voice → Voice) : (s.modVoice n v f).regenCanc = s.regenCanc := rfl
@[simp] theorem modVoice_oscs (n v : Nat) (f : Voice → Voice) : (s.modVoice n v f).oscs = s.oscs := rfl
@[simp] theorem modVoice_mem (n v : Nat) (f : Voice → Voice) : (s.modVoice n v f).mem = s.mem := rfl
@[simp] theorem modVoice_turns (n v : Nat) (f : Voice → Voice) : (s.modVoice n v f).turns = s.turns := rfl
@[simp] theorem modVoice_rdata (n v : Nat) (f : Voice → Voice) : (s.modVoice n v f).rdata = s.rdata := rfl
@[simp] theorem modVoice_busReads (n v : Nat) (f : Voice → Voice) : (s.modVoice n v f).busReads = s.busReads := rfl
@[simp] theorem modVoice_undefReads (n v : Nat) (f : Voice → Voice) : (s.modVoice n v f).undefReads = s.undefReads := rfl
@[simp] theorem modVoice_undefRead (n v : Nat) (f : Voice → Voice) : (s.modVoice n v f).undefRead = s.undefRead := rfl

/-! ## setRes0 -/

@[simp] theorem setRes0_x0 (a : Word) : (s.setRes0 a).x0 = s.x0 := rfl
@[simp] theorem setRes0_x1 (a : Word) : (s.setRes0 a).x1 = s.x1 := rfl
@[simp] theorem setRes0_x2 (a : Word) : (s.setRes0 a).x2 = s.x2 := rfl
@[simp] theorem setRes0_x3 (a : Word) : (s.setRes0 a).x3 = s.x3 := rfl
@[simp] theorem setRes0_res1 (a : Word) : (s.setRes0 a).res1 = s.res1 := rfl
@[simp] theorem setRes0_cptr (a : Word) : (s.setRes0 a).cptr = s.cptr := rfl
@[simp] theorem setRes0_status (a : Word) : (s.setRes0 a).status = s.status := rfl
@[simp] theorem setRes0_err (a : Word) : (s.setRes0 a).err = s.err := rfl
@[simp] theorem setRes0_faultCode (a : Word) : (s.setRes0 a).faultCode = s.faultCode := rfl
@[simp] theorem setRes0_faultPtr (a : Word) : (s.setRes0 a).faultPtr = s.faultPtr := rfl
@[simp] theorem setRes0_faultInfo (a : Word) : (s.setRes0 a).faultInfo = s.faultInfo := rfl
@[simp] theorem setRes0_irqEn (a : Word) : (s.setRes0 a).irqEn = s.irqEn := rfl
@[simp] theorem setRes0_irqPend (a : Word) : (s.setRes0 a).irqPend = s.irqPend := rfl
@[simp] theorem setRes0_voiceCap (a : Word) : (s.setRes0 a).voiceCap = s.voiceCap := rfl
@[simp] theorem setRes0_nvoices (a : Word) : (s.setRes0 a).nvoices = s.nvoices := rfl
@[simp] theorem setRes0_ctl (a : Word) : (s.setRes0 a).ctl = s.ctl := rfl
@[simp] theorem setRes0_regenDone (a : Word) : (s.setRes0 a).regenDone = s.regenDone := rfl
@[simp] theorem setRes0_regenCanc (a : Word) : (s.setRes0 a).regenCanc = s.regenCanc := rfl
@[simp] theorem setRes0_oscs (a : Word) : (s.setRes0 a).oscs = s.oscs := rfl
@[simp] theorem setRes0_notes (a : Word) : (s.setRes0 a).notes = s.notes := rfl
@[simp] theorem setRes0_mem (a : Word) : (s.setRes0 a).mem = s.mem := rfl
@[simp] theorem setRes0_turns (a : Word) : (s.setRes0 a).turns = s.turns := rfl
@[simp] theorem setRes0_rdata (a : Word) : (s.setRes0 a).rdata = s.rdata := rfl
@[simp] theorem setRes0_busReads (a : Word) : (s.setRes0 a).busReads = s.busReads := rfl
@[simp] theorem setRes0_undefReads (a : Word) : (s.setRes0 a).undefReads = s.undefReads := rfl
@[simp] theorem setRes0_undefRead (a : Word) : (s.setRes0 a).undefRead = s.undefRead := rfl

/-! ## setRes1 -/

@[simp] theorem setRes1_x0 (a : Word) : (s.setRes1 a).x0 = s.x0 := rfl
@[simp] theorem setRes1_x1 (a : Word) : (s.setRes1 a).x1 = s.x1 := rfl
@[simp] theorem setRes1_x2 (a : Word) : (s.setRes1 a).x2 = s.x2 := rfl
@[simp] theorem setRes1_x3 (a : Word) : (s.setRes1 a).x3 = s.x3 := rfl
@[simp] theorem setRes1_res0 (a : Word) : (s.setRes1 a).res0 = s.res0 := rfl
@[simp] theorem setRes1_cptr (a : Word) : (s.setRes1 a).cptr = s.cptr := rfl
@[simp] theorem setRes1_status (a : Word) : (s.setRes1 a).status = s.status := rfl
@[simp] theorem setRes1_err (a : Word) : (s.setRes1 a).err = s.err := rfl
@[simp] theorem setRes1_faultCode (a : Word) : (s.setRes1 a).faultCode = s.faultCode := rfl
@[simp] theorem setRes1_faultPtr (a : Word) : (s.setRes1 a).faultPtr = s.faultPtr := rfl
@[simp] theorem setRes1_faultInfo (a : Word) : (s.setRes1 a).faultInfo = s.faultInfo := rfl
@[simp] theorem setRes1_irqEn (a : Word) : (s.setRes1 a).irqEn = s.irqEn := rfl
@[simp] theorem setRes1_irqPend (a : Word) : (s.setRes1 a).irqPend = s.irqPend := rfl
@[simp] theorem setRes1_voiceCap (a : Word) : (s.setRes1 a).voiceCap = s.voiceCap := rfl
@[simp] theorem setRes1_nvoices (a : Word) : (s.setRes1 a).nvoices = s.nvoices := rfl
@[simp] theorem setRes1_ctl (a : Word) : (s.setRes1 a).ctl = s.ctl := rfl
@[simp] theorem setRes1_regenDone (a : Word) : (s.setRes1 a).regenDone = s.regenDone := rfl
@[simp] theorem setRes1_regenCanc (a : Word) : (s.setRes1 a).regenCanc = s.regenCanc := rfl
@[simp] theorem setRes1_oscs (a : Word) : (s.setRes1 a).oscs = s.oscs := rfl
@[simp] theorem setRes1_notes (a : Word) : (s.setRes1 a).notes = s.notes := rfl
@[simp] theorem setRes1_mem (a : Word) : (s.setRes1 a).mem = s.mem := rfl
@[simp] theorem setRes1_turns (a : Word) : (s.setRes1 a).turns = s.turns := rfl
@[simp] theorem setRes1_rdata (a : Word) : (s.setRes1 a).rdata = s.rdata := rfl
@[simp] theorem setRes1_busReads (a : Word) : (s.setRes1 a).busReads = s.busReads := rfl
@[simp] theorem setRes1_undefReads (a : Word) : (s.setRes1 a).undefReads = s.undefReads := rfl
@[simp] theorem setRes1_undefRead (a : Word) : (s.setRes1 a).undefRead = s.undefRead := rfl

/-! ## setRes -/

@[simp] theorem setRes_x0 (a b : Word) : (s.setRes a b).x0 = s.x0 := rfl
@[simp] theorem setRes_x1 (a b : Word) : (s.setRes a b).x1 = s.x1 := rfl
@[simp] theorem setRes_x2 (a b : Word) : (s.setRes a b).x2 = s.x2 := rfl
@[simp] theorem setRes_x3 (a b : Word) : (s.setRes a b).x3 = s.x3 := rfl
@[simp] theorem setRes_cptr (a b : Word) : (s.setRes a b).cptr = s.cptr := rfl
@[simp] theorem setRes_status (a b : Word) : (s.setRes a b).status = s.status := rfl
@[simp] theorem setRes_err (a b : Word) : (s.setRes a b).err = s.err := rfl
@[simp] theorem setRes_faultCode (a b : Word) : (s.setRes a b).faultCode = s.faultCode := rfl
@[simp] theorem setRes_faultPtr (a b : Word) : (s.setRes a b).faultPtr = s.faultPtr := rfl
@[simp] theorem setRes_faultInfo (a b : Word) : (s.setRes a b).faultInfo = s.faultInfo := rfl
@[simp] theorem setRes_irqEn (a b : Word) : (s.setRes a b).irqEn = s.irqEn := rfl
@[simp] theorem setRes_irqPend (a b : Word) : (s.setRes a b).irqPend = s.irqPend := rfl
@[simp] theorem setRes_voiceCap (a b : Word) : (s.setRes a b).voiceCap = s.voiceCap := rfl
@[simp] theorem setRes_nvoices (a b : Word) : (s.setRes a b).nvoices = s.nvoices := rfl
@[simp] theorem setRes_ctl (a b : Word) : (s.setRes a b).ctl = s.ctl := rfl
@[simp] theorem setRes_regenDone (a b : Word) : (s.setRes a b).regenDone = s.regenDone := rfl
@[simp] theorem setRes_regenCanc (a b : Word) : (s.setRes a b).regenCanc = s.regenCanc := rfl
@[simp] theorem setRes_oscs (a b : Word) : (s.setRes a b).oscs = s.oscs := rfl
@[simp] theorem setRes_notes (a b : Word) : (s.setRes a b).notes = s.notes := rfl
@[simp] theorem setRes_mem (a b : Word) : (s.setRes a b).mem = s.mem := rfl
@[simp] theorem setRes_turns (a b : Word) : (s.setRes a b).turns = s.turns := rfl
@[simp] theorem setRes_rdata (a b : Word) : (s.setRes a b).rdata = s.rdata := rfl
@[simp] theorem setRes_busReads (a b : Word) : (s.setRes a b).busReads = s.busReads := rfl
@[simp] theorem setRes_undefReads (a b : Word) : (s.setRes a b).undefReads = s.undefReads := rfl
@[simp] theorem setRes_undefRead (a b : Word) : (s.setRes a b).undefRead = s.undefRead := rfl

/-! ## advance -/

@[simp] theorem advance_x0 : (s.advance).x0 = s.x0 := rfl
@[simp] theorem advance_x1 : (s.advance).x1 = s.x1 := rfl
@[simp] theorem advance_x2 : (s.advance).x2 = s.x2 := rfl
@[simp] theorem advance_x3 : (s.advance).x3 = s.x3 := rfl
@[simp] theorem advance_res0 : (s.advance).res0 = s.res0 := rfl
@[simp] theorem advance_res1 : (s.advance).res1 = s.res1 := rfl
@[simp] theorem advance_status : (s.advance).status = s.status := rfl
@[simp] theorem advance_err : (s.advance).err = s.err := rfl
@[simp] theorem advance_faultCode : (s.advance).faultCode = s.faultCode := rfl
@[simp] theorem advance_faultPtr : (s.advance).faultPtr = s.faultPtr := rfl
@[simp] theorem advance_faultInfo : (s.advance).faultInfo = s.faultInfo := rfl
@[simp] theorem advance_irqEn : (s.advance).irqEn = s.irqEn := rfl
@[simp] theorem advance_irqPend : (s.advance).irqPend = s.irqPend := rfl
@[simp] theorem advance_voiceCap : (s.advance).voiceCap = s.voiceCap := rfl
@[simp] theorem advance_nvoices : (s.advance).nvoices = s.nvoices := rfl
@[simp] theorem advance_ctl : (s.advance).ctl = s.ctl := rfl
@[simp] theorem advance_regenDone : (s.advance).regenDone = s.regenDone := rfl
@[simp] theorem advance_regenCanc : (s.advance).regenCanc = s.regenCanc := rfl
@[simp] theorem advance_oscs : (s.advance).oscs = s.oscs := rfl
@[simp] theorem advance_notes : (s.advance).notes = s.notes := rfl
@[simp] theorem advance_mem : (s.advance).mem = s.mem := rfl
@[simp] theorem advance_turns : (s.advance).turns = s.turns := rfl
@[simp] theorem advance_rdata : (s.advance).rdata = s.rdata := rfl
@[simp] theorem advance_busReads : (s.advance).busReads = s.busReads := rfl
@[simp] theorem advance_undefReads : (s.advance).undefReads = s.undefReads := rfl
@[simp] theorem advance_undefRead : (s.advance).undefRead = s.undefRead := rfl

/-! ## latch -/

@[simp] theorem latch_res0 (c : Words) : (s.latch c).res0 = s.res0 := rfl
@[simp] theorem latch_res1 (c : Words) : (s.latch c).res1 = s.res1 := rfl
@[simp] theorem latch_cptr (c : Words) : (s.latch c).cptr = s.cptr := rfl
@[simp] theorem latch_status (c : Words) : (s.latch c).status = s.status := rfl
@[simp] theorem latch_err (c : Words) : (s.latch c).err = s.err := rfl
@[simp] theorem latch_faultCode (c : Words) : (s.latch c).faultCode = s.faultCode := rfl
@[simp] theorem latch_faultPtr (c : Words) : (s.latch c).faultPtr = s.faultPtr := rfl
@[simp] theorem latch_faultInfo (c : Words) : (s.latch c).faultInfo = s.faultInfo := rfl
@[simp] theorem latch_irqEn (c : Words) : (s.latch c).irqEn = s.irqEn := rfl
@[simp] theorem latch_irqPend (c : Words) : (s.latch c).irqPend = s.irqPend := rfl
@[simp] theorem latch_voiceCap (c : Words) : (s.latch c).voiceCap = s.voiceCap := rfl
@[simp] theorem latch_nvoices (c : Words) : (s.latch c).nvoices = s.nvoices := rfl
@[simp] theorem latch_ctl (c : Words) : (s.latch c).ctl = s.ctl := rfl
@[simp] theorem latch_regenDone (c : Words) : (s.latch c).regenDone = s.regenDone := rfl
@[simp] theorem latch_regenCanc (c : Words) : (s.latch c).regenCanc = s.regenCanc := rfl
@[simp] theorem latch_oscs (c : Words) : (s.latch c).oscs = s.oscs := rfl
@[simp] theorem latch_notes (c : Words) : (s.latch c).notes = s.notes := rfl
@[simp] theorem latch_mem (c : Words) : (s.latch c).mem = s.mem := rfl
@[simp] theorem latch_turns (c : Words) : (s.latch c).turns = s.turns := rfl
@[simp] theorem latch_rdata (c : Words) : (s.latch c).rdata = s.rdata := rfl
@[simp] theorem latch_busReads (c : Words) : (s.latch c).busReads = s.busReads := rfl
@[simp] theorem latch_undefReads (c : Words) : (s.latch c).undefReads = s.undefReads := rfl
@[simp] theorem latch_undefRead (c : Words) : (s.latch c).undefRead = s.undefRead := rfl

/-! ## raise -/

@[simp] theorem raise_x0 (k : FaultKind) (p : BitVec 13) (i : Word) : (s.raise k p i).x0 = s.x0 := rfl
@[simp] theorem raise_x1 (k : FaultKind) (p : BitVec 13) (i : Word) : (s.raise k p i).x1 = s.x1 := rfl
@[simp] theorem raise_x2 (k : FaultKind) (p : BitVec 13) (i : Word) : (s.raise k p i).x2 = s.x2 := rfl
@[simp] theorem raise_x3 (k : FaultKind) (p : BitVec 13) (i : Word) : (s.raise k p i).x3 = s.x3 := rfl
@[simp] theorem raise_res0 (k : FaultKind) (p : BitVec 13) (i : Word) : (s.raise k p i).res0 = s.res0 := rfl
@[simp] theorem raise_res1 (k : FaultKind) (p : BitVec 13) (i : Word) : (s.raise k p i).res1 = s.res1 := rfl
@[simp] theorem raise_cptr (k : FaultKind) (p : BitVec 13) (i : Word) : (s.raise k p i).cptr = s.cptr := rfl
@[simp] theorem raise_err (k : FaultKind) (p : BitVec 13) (i : Word) : (s.raise k p i).err = s.err := rfl
@[simp] theorem raise_irqEn (k : FaultKind) (p : BitVec 13) (i : Word) : (s.raise k p i).irqEn = s.irqEn := rfl
@[simp] theorem raise_voiceCap (k : FaultKind) (p : BitVec 13) (i : Word) : (s.raise k p i).voiceCap = s.voiceCap := rfl
@[simp] theorem raise_nvoices (k : FaultKind) (p : BitVec 13) (i : Word) : (s.raise k p i).nvoices = s.nvoices := rfl
@[simp] theorem raise_ctl (k : FaultKind) (p : BitVec 13) (i : Word) : (s.raise k p i).ctl = s.ctl := rfl
@[simp] theorem raise_regenDone (k : FaultKind) (p : BitVec 13) (i : Word) : (s.raise k p i).regenDone = s.regenDone := rfl
@[simp] theorem raise_regenCanc (k : FaultKind) (p : BitVec 13) (i : Word) : (s.raise k p i).regenCanc = s.regenCanc := rfl
@[simp] theorem raise_oscs (k : FaultKind) (p : BitVec 13) (i : Word) : (s.raise k p i).oscs = s.oscs := rfl
@[simp] theorem raise_notes (k : FaultKind) (p : BitVec 13) (i : Word) : (s.raise k p i).notes = s.notes := rfl
@[simp] theorem raise_mem (k : FaultKind) (p : BitVec 13) (i : Word) : (s.raise k p i).mem = s.mem := rfl
@[simp] theorem raise_turns (k : FaultKind) (p : BitVec 13) (i : Word) : (s.raise k p i).turns = s.turns := rfl
@[simp] theorem raise_rdata (k : FaultKind) (p : BitVec 13) (i : Word) : (s.raise k p i).rdata = s.rdata := rfl
@[simp] theorem raise_busReads (k : FaultKind) (p : BitVec 13) (i : Word) : (s.raise k p i).busReads = s.busReads := rfl
@[simp] theorem raise_undefReads (k : FaultKind) (p : BitVec 13) (i : Word) : (s.raise k p i).undefReads = s.undefReads := rfl
@[simp] theorem raise_undefRead (k : FaultKind) (p : BitVec 13) (i : Word) : (s.raise k p i).undefRead = s.undefRead := rfl

/-! ## raiseCmd -/

@[simp] theorem raiseCmd_x0 (k : FaultKind) : (s.raiseCmd k).x0 = s.x0 := rfl
@[simp] theorem raiseCmd_x1 (k : FaultKind) : (s.raiseCmd k).x1 = s.x1 := rfl
@[simp] theorem raiseCmd_x2 (k : FaultKind) : (s.raiseCmd k).x2 = s.x2 := rfl
@[simp] theorem raiseCmd_x3 (k : FaultKind) : (s.raiseCmd k).x3 = s.x3 := rfl
@[simp] theorem raiseCmd_res0 (k : FaultKind) : (s.raiseCmd k).res0 = s.res0 := rfl
@[simp] theorem raiseCmd_res1 (k : FaultKind) : (s.raiseCmd k).res1 = s.res1 := rfl
@[simp] theorem raiseCmd_cptr (k : FaultKind) : (s.raiseCmd k).cptr = s.cptr := rfl
@[simp] theorem raiseCmd_err (k : FaultKind) : (s.raiseCmd k).err = s.err := rfl
@[simp] theorem raiseCmd_irqEn (k : FaultKind) : (s.raiseCmd k).irqEn = s.irqEn := rfl
@[simp] theorem raiseCmd_voiceCap (k : FaultKind) : (s.raiseCmd k).voiceCap = s.voiceCap := rfl
@[simp] theorem raiseCmd_nvoices (k : FaultKind) : (s.raiseCmd k).nvoices = s.nvoices := rfl
@[simp] theorem raiseCmd_ctl (k : FaultKind) : (s.raiseCmd k).ctl = s.ctl := rfl
@[simp] theorem raiseCmd_regenDone (k : FaultKind) : (s.raiseCmd k).regenDone = s.regenDone := rfl
@[simp] theorem raiseCmd_regenCanc (k : FaultKind) : (s.raiseCmd k).regenCanc = s.regenCanc := rfl
@[simp] theorem raiseCmd_oscs (k : FaultKind) : (s.raiseCmd k).oscs = s.oscs := rfl
@[simp] theorem raiseCmd_notes (k : FaultKind) : (s.raiseCmd k).notes = s.notes := rfl
@[simp] theorem raiseCmd_mem (k : FaultKind) : (s.raiseCmd k).mem = s.mem := rfl
@[simp] theorem raiseCmd_turns (k : FaultKind) : (s.raiseCmd k).turns = s.turns := rfl
@[simp] theorem raiseCmd_rdata (k : FaultKind) : (s.raiseCmd k).rdata = s.rdata := rfl
@[simp] theorem raiseCmd_busReads (k : FaultKind) : (s.raiseCmd k).busReads = s.busReads := rfl
@[simp] theorem raiseCmd_undefReads (k : FaultKind) : (s.raiseCmd k).undefReads = s.undefReads := rfl
@[simp] theorem raiseCmd_undefRead (k : FaultKind) : (s.raiseCmd k).undefRead = s.undefRead := rfl

/-! ## faultAck -/

@[simp] theorem faultAck_x0 : (s.faultAck).x0 = s.x0 := rfl
@[simp] theorem faultAck_x1 : (s.faultAck).x1 = s.x1 := rfl
@[simp] theorem faultAck_x2 : (s.faultAck).x2 = s.x2 := rfl
@[simp] theorem faultAck_x3 : (s.faultAck).x3 = s.x3 := rfl
@[simp] theorem faultAck_res0 : (s.faultAck).res0 = s.res0 := rfl
@[simp] theorem faultAck_res1 : (s.faultAck).res1 = s.res1 := rfl
@[simp] theorem faultAck_cptr : (s.faultAck).cptr = s.cptr := rfl
@[simp] theorem faultAck_err : (s.faultAck).err = s.err := rfl
@[simp] theorem faultAck_faultCode : (s.faultAck).faultCode = s.faultCode := rfl
@[simp] theorem faultAck_faultPtr : (s.faultAck).faultPtr = s.faultPtr := rfl
@[simp] theorem faultAck_faultInfo : (s.faultAck).faultInfo = s.faultInfo := rfl
@[simp] theorem faultAck_irqEn : (s.faultAck).irqEn = s.irqEn := rfl
@[simp] theorem faultAck_irqPend : (s.faultAck).irqPend = s.irqPend := rfl
@[simp] theorem faultAck_voiceCap : (s.faultAck).voiceCap = s.voiceCap := rfl
@[simp] theorem faultAck_nvoices : (s.faultAck).nvoices = s.nvoices := rfl
@[simp] theorem faultAck_ctl : (s.faultAck).ctl = s.ctl := rfl
@[simp] theorem faultAck_regenDone : (s.faultAck).regenDone = s.regenDone := rfl
@[simp] theorem faultAck_regenCanc : (s.faultAck).regenCanc = s.regenCanc := rfl
@[simp] theorem faultAck_oscs : (s.faultAck).oscs = s.oscs := rfl
@[simp] theorem faultAck_notes : (s.faultAck).notes = s.notes := rfl
@[simp] theorem faultAck_mem : (s.faultAck).mem = s.mem := rfl
@[simp] theorem faultAck_turns : (s.faultAck).turns = s.turns := rfl
@[simp] theorem faultAck_rdata : (s.faultAck).rdata = s.rdata := rfl
@[simp] theorem faultAck_busReads : (s.faultAck).busReads = s.busReads := rfl
@[simp] theorem faultAck_undefReads : (s.faultAck).undefReads = s.undefReads := rfl
@[simp] theorem faultAck_undefRead : (s.faultAck).undefRead = s.undefRead := rfl

/-! ## give -/

@[simp] theorem give_x0 (w : Word) : (s.give w).x0 = s.x0 := rfl
@[simp] theorem give_x1 (w : Word) : (s.give w).x1 = s.x1 := rfl
@[simp] theorem give_x2 (w : Word) : (s.give w).x2 = s.x2 := rfl
@[simp] theorem give_x3 (w : Word) : (s.give w).x3 = s.x3 := rfl
@[simp] theorem give_res0 (w : Word) : (s.give w).res0 = s.res0 := rfl
@[simp] theorem give_res1 (w : Word) : (s.give w).res1 = s.res1 := rfl
@[simp] theorem give_cptr (w : Word) : (s.give w).cptr = s.cptr := rfl
@[simp] theorem give_status (w : Word) : (s.give w).status = s.status := rfl
@[simp] theorem give_err (w : Word) : (s.give w).err = s.err := rfl
@[simp] theorem give_faultCode (w : Word) : (s.give w).faultCode = s.faultCode := rfl
@[simp] theorem give_faultPtr (w : Word) : (s.give w).faultPtr = s.faultPtr := rfl
@[simp] theorem give_faultInfo (w : Word) : (s.give w).faultInfo = s.faultInfo := rfl
@[simp] theorem give_irqEn (w : Word) : (s.give w).irqEn = s.irqEn := rfl
@[simp] theorem give_irqPend (w : Word) : (s.give w).irqPend = s.irqPend := rfl
@[simp] theorem give_voiceCap (w : Word) : (s.give w).voiceCap = s.voiceCap := rfl
@[simp] theorem give_nvoices (w : Word) : (s.give w).nvoices = s.nvoices := rfl
@[simp] theorem give_ctl (w : Word) : (s.give w).ctl = s.ctl := rfl
@[simp] theorem give_regenDone (w : Word) : (s.give w).regenDone = s.regenDone := rfl
@[simp] theorem give_regenCanc (w : Word) : (s.give w).regenCanc = s.regenCanc := rfl
@[simp] theorem give_oscs (w : Word) : (s.give w).oscs = s.oscs := rfl
@[simp] theorem give_notes (w : Word) : (s.give w).notes = s.notes := rfl
@[simp] theorem give_mem (w : Word) : (s.give w).mem = s.mem := rfl
@[simp] theorem give_turns (w : Word) : (s.give w).turns = s.turns := rfl
@[simp] theorem give_busReads (w : Word) : (s.give w).busReads = s.busReads := rfl
@[simp] theorem give_undefReads (w : Word) : (s.give w).undefReads = s.undefReads := rfl
@[simp] theorem give_undefRead (w : Word) : (s.give w).undefRead = s.undefRead := rfl

/-! ## giveUnspecified -/

@[simp] theorem giveUnspecified_x0 : (s.giveUnspecified).x0 = s.x0 := rfl
@[simp] theorem giveUnspecified_x1 : (s.giveUnspecified).x1 = s.x1 := rfl
@[simp] theorem giveUnspecified_x2 : (s.giveUnspecified).x2 = s.x2 := rfl
@[simp] theorem giveUnspecified_x3 : (s.giveUnspecified).x3 = s.x3 := rfl
@[simp] theorem giveUnspecified_res0 : (s.giveUnspecified).res0 = s.res0 := rfl
@[simp] theorem giveUnspecified_res1 : (s.giveUnspecified).res1 = s.res1 := rfl
@[simp] theorem giveUnspecified_cptr : (s.giveUnspecified).cptr = s.cptr := rfl
@[simp] theorem giveUnspecified_status : (s.giveUnspecified).status = s.status := rfl
@[simp] theorem giveUnspecified_err : (s.giveUnspecified).err = s.err := rfl
@[simp] theorem giveUnspecified_faultCode : (s.giveUnspecified).faultCode = s.faultCode := rfl
@[simp] theorem giveUnspecified_faultPtr : (s.giveUnspecified).faultPtr = s.faultPtr := rfl
@[simp] theorem giveUnspecified_faultInfo : (s.giveUnspecified).faultInfo = s.faultInfo := rfl
@[simp] theorem giveUnspecified_irqEn : (s.giveUnspecified).irqEn = s.irqEn := rfl
@[simp] theorem giveUnspecified_irqPend : (s.giveUnspecified).irqPend = s.irqPend := rfl
@[simp] theorem giveUnspecified_voiceCap : (s.giveUnspecified).voiceCap = s.voiceCap := rfl
@[simp] theorem giveUnspecified_nvoices : (s.giveUnspecified).nvoices = s.nvoices := rfl
@[simp] theorem giveUnspecified_ctl : (s.giveUnspecified).ctl = s.ctl := rfl
@[simp] theorem giveUnspecified_regenDone : (s.giveUnspecified).regenDone = s.regenDone := rfl
@[simp] theorem giveUnspecified_regenCanc : (s.giveUnspecified).regenCanc = s.regenCanc := rfl
@[simp] theorem giveUnspecified_oscs : (s.giveUnspecified).oscs = s.oscs := rfl
@[simp] theorem giveUnspecified_notes : (s.giveUnspecified).notes = s.notes := rfl
@[simp] theorem giveUnspecified_mem : (s.giveUnspecified).mem = s.mem := rfl
@[simp] theorem giveUnspecified_turns : (s.giveUnspecified).turns = s.turns := rfl
@[simp] theorem giveUnspecified_undefReads : (s.giveUnspecified).undefReads = s.undefReads := rfl
@[simp] theorem giveUnspecified_undefRead : (s.giveUnspecified).undefRead = s.undefRead := rfl

/-! ## What the updates write -/

@[simp] theorem setRes0_res0 (a : Word) : (s.setRes0 a).res0 = a := rfl
@[simp] theorem setRes1_res1 (a : Word) : (s.setRes1 a).res1 = a := rfl
@[simp] theorem setRes_res0 (a b : Word) : (s.setRes a b).res0 = a := rfl
@[simp] theorem setRes_res1 (a b : Word) : (s.setRes a b).res1 = b := rfl
@[simp] theorem advance_cptr : s.advance.cptr = s.cptr + 16 := rfl
@[simp] theorem latch_x0 (c : Words) : (s.latch c).x0 = c.w0 := rfl
@[simp] theorem latch_x1 (c : Words) : (s.latch c).x1 = c.w1 := rfl
@[simp] theorem latch_x2 (c : Words) : (s.latch c).x2 = c.w2 := rfl
@[simp] theorem latch_x3 (c : Words) : (s.latch c).x3 = c.w3 := rfl
@[simp] theorem raise_faultCode (k : FaultKind) (p : BitVec 13) (i : Word) : (s.raise k p i).faultCode = k.code := rfl
@[simp] theorem raise_faultPtr (k : FaultKind) (p : BitVec 13) (i : Word) : (s.raise k p i).faultPtr = p := rfl
@[simp] theorem raise_faultInfo (k : FaultKind) (p : BitVec 13) (i : Word) : (s.raise k p i).faultInfo = i := rfl
@[simp] theorem raise_status (k : FaultKind) (p : BitVec 13) (i : Word) :
    (s.raise k p i).status = { busy := false, done := false, fault := true } := rfl
@[simp] theorem raise_irqPend (k : FaultKind) (p : BitVec 13) (i : Word) : (s.raise k p i).irqPend = s.irqPend ||| 2 := rfl
@[simp] theorem raiseCmd_faultCode (k : FaultKind) : (s.raiseCmd k).faultCode = k.code := rfl
@[simp] theorem raiseCmd_faultPtr (k : FaultKind) : (s.raiseCmd k).faultPtr = s.cptr := rfl
@[simp] theorem raiseCmd_faultInfo (k : FaultKind) : (s.raiseCmd k).faultInfo = s.x0 := rfl
@[simp] theorem raiseCmd_status (k : FaultKind) :
    (s.raiseCmd k).status = { busy := false, done := false, fault := true } := rfl
@[simp] theorem raiseCmd_irqPend (k : FaultKind) : (s.raiseCmd k).irqPend = s.irqPend ||| 2 := rfl
@[simp] theorem faultAck_status : s.faultAck.status = { s.status with fault := false } := rfl
@[simp] theorem setCells_mem (a : Nat) (ws : List Word) : (s.setCells a ws).mem = s.mem.splice a (bytesOf ws) := rfl
@[simp] theorem setCell_mem (a : Nat) (w : Word) : (s.setCell a w).mem = s.mem.splice a (bytesOfWord w) := rfl
@[simp] theorem eraseCells_mem (a n : Nat) : (s.eraseCells a n).mem = s.mem.erase a (4 * n) := rfl
@[simp] theorem setOsc_oscs (o : Nat) (x : Osc) : (s.setOsc o x).oscs = s.oscs.setIfInBounds o x := rfl
@[simp] theorem setNote_notes (n : Nat) (x : Note) : (s.setNote n x).notes = s.notes.setIfInBounds n x := rfl

/-! ## Indexed registers -/

theorem setNote_of_le (n : Nat) (x : Note) (h : 16 ≤ n) : s.setNote n x = s := by
  simp [State.setNote, Vector.setIfInBounds_eq_of_size_le, h]

theorem setOsc_of_le (o : Nat) (x : Osc) (h : 16 ≤ o) : s.setOsc o x = s := by
  simp [State.setOsc, Vector.setIfInBounds_eq_of_size_le, h]

theorem note_setNote (n m : Nat) (x : Note) :
    (s.setNote n x).note m = if n = m ∧ n < 16 then x else s.note m := by
  simp only [State.note, setNote_notes, Vector.getElem?_setIfInBounds]
  by_cases h : n = m
  · subst h; by_cases hn : n < 16 <;> simp [hn]
  · simp [h]

@[simp] theorem note_setNote_self (n : Nat) (x : Note) (h : n < 16) : (s.setNote n x).note n = x := by
  simp [note_setNote, h]

@[simp] theorem note_setNote_ne (n m : Nat) (x : Note) (h : n ≠ m) : (s.setNote n x).note m = s.note m := by
  simp [note_setNote, h]

theorem osc_setOsc (o p : Nat) (x : Osc) : (s.setOsc o x).osc p = if o = p ∧ o < 16 then x else s.osc p := by
  simp only [State.osc, setOsc_oscs, Vector.getElem?_setIfInBounds]
  by_cases h : o = p
  · subst h; by_cases hn : o < 16 <;> simp [hn]
  · simp [h]

@[simp] theorem osc_setOsc_self (o : Nat) (x : Osc) (h : o < 16) : (s.setOsc o x).osc o = x := by
  simp [osc_setOsc, h]

@[simp] theorem osc_setOsc_ne (o p : Nat) (x : Osc) (h : o ≠ p) : (s.setOsc o x).osc p = s.osc p := by
  simp [osc_setOsc, h]

@[simp] theorem note_modNote_self (n : Nat) (f : Note → Note) (h : n < 16) : (s.modNote n f).note n = f (s.note n) := by
  simp [State.modNote, h]

@[simp] theorem note_modNote_ne (n m : Nat) (f : Note → Note) (h : n ≠ m) : (s.modNote n f).note m = s.note m := by
  simp [State.modNote, h]

theorem modNote_modNote (n : Nat) (f g : Note → Note) : (s.modNote n f).modNote n g = s.modNote n fun x => g (f x) := by
  by_cases h : n < 16
  · simp [State.modNote, State.setNote, State.note, h]
  · simp [State.modNote, setNote_of_le, Nat.le_of_not_lt h]

/-- Envelope `k` after envelope `j` is replaced. -/
theorem Note.env_set (x : Note) (j k : Nat) (e : Env) :
    Note.env { x with envs := x.envs.setIfInBounds j e } k = if j = k ∧ j < 27 then e else x.env k := by
  simp only [Note.env, Vector.getElem?_setIfInBounds]
  by_cases h : j = k
  · subst h; by_cases hn : j < 27 <;> simp [hn]
  · simp [h]

/-- LFO `k` after LFO `j` is replaced. -/
theorem Note.lfo_set (x : Note) (j k : Nat) (l : Lfo) :
    Note.lfo { x with lfos := x.lfos.setIfInBounds j l } k = if j = k ∧ j < 27 then l else x.lfo k := by
  simp only [Note.lfo, Vector.getElem?_setIfInBounds]
  by_cases h : j = k
  · subst h; by_cases hn : j < 27 <;> simp [hn]
  · simp [h]

/-- Filter `k` after filter `j` is replaced. -/
theorem Note.flt_set (x : Note) (j k : Nat) (f : Flt) :
    Note.flt { x with flts := x.flts.setIfInBounds j f } k = if j = k ∧ j < 18 then f else x.flt k := by
  simp only [Note.flt, Vector.getElem?_setIfInBounds]
  by_cases h : j = k
  · subst h; by_cases hn : j < 18 <;> simp [hn]
  · simp [h]

/-- Voice `k` after voice `j` is replaced. -/
theorem Note.voice_set (x : Note) (j k : Nat) (y : Voice) :
    Note.voice { x with voices := x.voices.setIfInBounds j y } k = if j = k ∧ j < 8 then y else x.voice k := by
  simp only [Note.voice, Vector.getElem?_setIfInBounds]
  by_cases h : j = k
  · subst h; by_cases hn : j < 8 <;> simp [hn]
  · simp [h]

end Sys2Proof.Machine
end

