-- ==== Sys2Proof/Laws/Memory.lean ====
section
/-! SUPPORT. The laws of memory: what a byte reads as after a write, that every operation keeps the canonical form,
and what a word reads as after its block was written. -/

namespace Sys2Proof.Machine

/-! ## Bytes -/

/-- Reading from two memories, one after the other. -/
theorem byte?_append (m k : Mem) (x : Nat) : Mem.byte? (m ++ k) x = (m.byte? x).or (Mem.byte? k x) := by
  induction m with
  | nil => simp [Mem.byte?]
  | cons c m ih =>
    obtain ⟨a, b⟩ := c
    by_cases h : a = x <;> simp [Mem.byte?, h, ih]

/-- Reading from the cells that a condition on the address keeps. -/
theorem byte?_filter (p : Nat → Bool) (m : Mem) (x : Nat) :
    Mem.byte? (m.filter fun c => p c.1) x = if p x then m.byte? x else none := by
  induction m with
  | nil => simp [Mem.byte?]
  | cons c m ih =>
    obtain ⟨a, b⟩ := c
    by_cases hp : p a
    · by_cases h : a = x
      · subst h; simp [Mem.byte?, hp]
      · simp [Mem.byte?, hp, h, ih]
    · by_cases h : a = x
      · subst h; simp [hp, ih]
      · simp [Mem.byte?, hp, h, ih]

/-- Reading from consecutive cells. -/
theorem byte?_cells (bs : List Byte) (a x : Nat) :
    Mem.byte? (Mem.cells a bs) x = if a ≤ x then bs[x - a]? else none := by
  induction bs generalizing a with
  | nil => simp [Mem.cells, Mem.byte?]
  | cons b bs ih =>
    by_cases h : a = x
    · subst h; simp [Mem.cells, Mem.byte?]
    · by_cases hx : a ≤ x
      · have : x - a = (x - (a + 1)) + 1 := by omega
        simp [Mem.cells, Mem.byte?, h, ih, hx, this, show a + 1 ≤ x by omega]
      · simp [Mem.cells, Mem.byte?, h, ih, hx, show ¬ a + 1 ≤ x by omega]

/-- A byte after consecutive bytes were written: theirs inside, unchanged outside. -/
theorem byte?_splice (m : Mem) (a : Nat) (bs : List Byte) (x : Nat) :
    (m.splice a bs).byte? x = if a ≤ x ∧ x < a + bs.length then bs[x - a]? else m.byte? x := by
  have h1 := byte?_filter (fun y => decide (y < a)) m x
  have h2 := byte?_filter (fun y => decide (a + bs.length ≤ y)) m x
  simp only [Mem.splice, byte?_append, byte?_cells, h1, h2]
  by_cases hx : x < a
  · have : ¬ a ≤ x := by omega
    simp [hx, this, show ¬ a + bs.length ≤ x by omega]
  · by_cases hy : x < a + bs.length
    · have hl : x - a < bs.length := by omega
      simp [hx, hy, show a ≤ x by omega, List.getElem?_eq_getElem hl]
    · have hl : bs.length ≤ x - a := by omega
      simp [hx, hy, show a ≤ x by omega, List.getElem?_eq_none hl, show a + bs.length ≤ x by omega]

/-- A byte after consecutive bytes were forgotten. -/
theorem byte?_erase (m : Mem) (a n x : Nat) :
    (m.erase a n).byte? x = if a ≤ x ∧ x < a + n then none else m.byte? x := by
  have h := byte?_filter (fun y => decide (y < a) || decide (a + n ≤ y)) m x
  simp only [Mem.erase, h]
  by_cases h1 : x < a
  · simp [h1, show ¬ a ≤ x by omega]
  · by_cases h2 : a + n ≤ x
    · simp [h1, h2]
    · simp [h1, h2, show a ≤ x by omega, show x < a + n by omega]

/-- A byte of a window: unchanged inside, none outside. -/
theorem byte?_window (m : Mem) (a n x : Nat) :
    (m.window a n).byte? x = if a ≤ x ∧ x < a + n then m.byte? x else none := by
  have h := byte?_filter (fun y => decide (a ≤ y) && decide (y < a + n)) m x
  simp only [Mem.window, h, Bool.and_eq_true, decide_eq_true_eq]

/-! ## The canonical form -/

theorem wf_filter (p : Host.Cell → Bool) (m : Mem) (h : Mem.wf m = true) : Mem.wf (m.filter p) = true := by
  simp only [Mem.wf, decide_eq_true_eq] at *
  exact h.filter p

theorem mem_cells (a : Nat) (bs : List Byte) (c : Host.Cell) (h : c ∈ Mem.cells a bs) : a ≤ c.1 ∧ c.1 < a + bs.length := by
  induction bs generalizing a with
  | nil => simp [Mem.cells] at h
  | cons b bs ih =>
    simp only [Mem.cells, List.mem_cons] at h
    rcases h with rfl | h
    · simp
    · have := ih (a + 1) h; simp only [List.length_cons]; omega

theorem wf_cells (a : Nat) (bs : List Byte) : Mem.wf (Mem.cells a bs) = true := by
  simp only [Mem.wf, decide_eq_true_eq]
  induction bs generalizing a with
  | nil => simp [Mem.cells]
  | cons b bs ih =>
    refine List.pairwise_cons.2 ⟨fun c hc => ?_, ih (a + 1)⟩
    have := mem_cells _ _ _ hc
    show a < c.1
    omega

/-- Writing keeps the canonical form. -/
theorem wf_splice (m : Mem) (a : Nat) (bs : List Byte) (h : m.wf = true) : (m.splice a bs).wf = true := by
  have hc := wf_cells a bs
  simp only [Mem.wf, decide_eq_true_eq] at *
  refine List.pairwise_append.2 ⟨List.pairwise_append.2 ⟨h.filter _, hc, ?_⟩, h.filter _, ?_⟩
  · intro c hc d hd
    have h1 := (List.mem_filter.1 hc).2
    have h2 := mem_cells _ _ _ hd
    simp only [decide_eq_true_eq] at h1
    omega
  · intro c hc d hd
    have h2 := (List.mem_filter.1 hd).2
    simp only [decide_eq_true_eq] at h2
    rcases List.mem_append.1 hc with hc | hc
    · have h1 := (List.mem_filter.1 hc).2
      simp only [decide_eq_true_eq] at h1
      omega
    · have h1 := mem_cells _ _ _ hc
      omega

/-- Forgetting keeps the canonical form. -/
theorem wf_erase (m : Mem) (a n : Nat) (h : m.wf = true) : (m.erase a n).wf = true := wf_filter _ m h

/-- Cutting a window out keeps the canonical form. -/
theorem wf_window (m : Mem) (a n : Nat) (h : m.wf = true) : (m.window a n).wf = true := wf_filter _ m h

/-! ## Words -/

@[simp] theorem length_bytesOfWord (w : Word) : (bytesOfWord w).length = 4 := rfl

@[simp] theorem length_bytesOf (ws : List Word) : (bytesOf ws).length = 4 * ws.length := by
  induction ws with
  | nil => rfl
  | cons w ws ih => simp only [bytesOf, List.flatMap_cons, List.length_append] at *; simp [ih]; omega

/-- The bytes of a word make the word (R93). -/
theorem wordOfBytes_bytes (w : Word) :
    wordOfBytes (byteOfWord w 0) (byteOfWord w 1) (byteOfWord w 2) (byteOfWord w 3) = w := by
  simp only [wordOfBytes, byteOfWord]
  ext i hi
  simp only [BitVec.getElem_append, BitVec.getElem_extractLsb']
  split
  · simp [BitVec.getLsbD_eq_getElem hi]
  · split
    · rw [← BitVec.getLsbD_eq_getElem hi]; congr 1; omega
    · split <;> (rw [← BitVec.getLsbD_eq_getElem hi]; congr 1; omega)

/-- Byte j of word i in a block of words. -/
theorem bytesOf_getElem? (ws : List Word) (i j : Nat) (hj : j < 4) :
    (bytesOf ws)[4 * i + j]? = ws[i]?.map fun w => byteOfWord w j := by
  induction ws generalizing i with
  | nil => simp [bytesOf]
  | cons w ws ih =>
    cases i with
    | zero =>
      have h4 : bytesOf (w :: ws) = bytesOfWord w ++ bytesOf ws := by simp [bytesOf]
      rw [h4, List.getElem?_append_left (by simp; omega)]
      interval_cases j <;> rfl
    | succ i =>
      have h4 : bytesOf (w :: ws) = bytesOfWord w ++ bytesOf ws := by simp [bytesOf]
      rw [h4, List.getElem?_append_right (by simp; omega)]
      have : 4 * (i + 1) + j - (bytesOfWord w).length = 4 * i + j := by simp; omega
      rw [this, ih]; simp

/-- A word of a block after the block was written. -/
theorem word?_splice_bytesOf (m : Mem) (a : Nat) (ws : List Word) (i : Nat) (h : i < ws.length) :
    (m.splice a (bytesOf ws)).word? (a + 4 * i) = ws[i]? := by
  have hb : ∀ j, j < 4 → (m.splice a (bytesOf ws)).byte? (a + 4 * i + j) = ws[i]?.map fun w => byteOfWord w j := by
    intro j hj
    rw [byte?_splice, if_pos (by simp; omega)]
    rw [show a + 4 * i + j - a = 4 * i + j by omega, bytesOf_getElem? ws i j hj]
  have h0 := hb 0 (by omega); have h1 := hb 1 (by omega); have h2 := hb 2 (by omega); have h3 := hb 3 (by omega)
  simp only [Nat.add_zero] at h0
  simp only [Mem.word?, h0, h1, h2, h3, List.getElem?_eq_getElem h, Option.map_some, wordOfBytes_bytes]

/-- A word whose four bytes read as before reads as before. -/
theorem word?_congr (m k : Mem) (a : Nat) (h : ∀ x, a ≤ x → x < a + 4 → m.byte? x = k.byte? x) : m.word? a = k.word? a := by
  simp only [Mem.word?, h a (by omega) (by omega), h (a + 1) (by omega) (by omega), h (a + 2) (by omega) (by omega),
    h (a + 3) (by omega) (by omega)]

/-- A cell whose four bytes lie outside a written block reads as before. -/
theorem word?_splice_of_disjoint (m : Mem) (a : Nat) (bs : List Byte) (x : Nat)
    (h : x + 4 ≤ a ∨ a + bs.length ≤ x) : (m.splice a bs).word? x = m.word? x := by
  apply word?_congr
  intro y h1 h2
  rw [byte?_splice, if_neg (by omega)]

/-- A cell of a block after the block was written, as commands read it. -/
theorem cell_setCells (s : State) (a : Nat) (ws : List Word) (i : Nat) (h : i < ws.length) :
    (s.setCells a ws).cell (a + 4 * i) = ws.getD i 0 := by
  simp only [State.cell, cellOf, setCells_mem, word?_splice_bytesOf _ _ _ _ h, List.getElem?_eq_getElem h]
  simp [List.getD, List.getElem?_eq_getElem h]

/-- A cell outside a written block, as commands read it. -/
theorem cell_setCells_of_disjoint (s : State) (a : Nat) (ws : List Word) (x : Nat)
    (h : x + 4 ≤ a ∨ a + 4 * ws.length ≤ x) : (s.setCells a ws).cell x = s.cell x := by
  simp only [State.cell, cellOf, setCells_mem, setCells_undefReads]
  rw [word?_splice_of_disjoint _ _ _ _ (by simpa using h)]

/-- A word inside a window. -/
theorem word?_window (m : Mem) (a n x : Nat) (h : a ≤ x) (h' : x + 4 ≤ a + n) :
    (m.window a n).word? x = m.word? x := by
  apply word?_congr
  intro y h1 h2
  rw [byte?_window, if_pos (by omega)]

/-- The words of a block, as commands read them. -/
theorem cells_eq (s : State) (a n : Nat) : s.cells a n = (List.range n).map fun i => s.cell (a + 4 * i) := by
  simp only [State.cells, State.cell, cellOf]
  apply List.map_congr_left
  intro i hi
  have := List.mem_range.1 hi
  rw [word?_window _ _ _ _ (by omega) (by omega)]

@[simp] theorem length_cells (s : State) (a n : Nat) : (s.cells a n).length = n := by simp [State.cells]

@[simp] theorem length_signedCells (s : State) (a n : Nat) : (s.signedCells a n).length = n := by
  simp [State.signedCells]

/-- The words of a block right after it was written. -/
theorem cells_setCells (s : State) (a : Nat) (ws : List Word) : (s.setCells a ws).cells a ws.length = ws := by
  rw [cells_eq]
  apply List.ext_getElem
  · simp
  · intro i h1 h2
    simp only [List.getElem_map, List.getElem_range]
    rw [cell_setCells _ _ _ _ h2]
    simp [List.getD, List.getElem?_eq_getElem h2]

/-- A touch changes nothing where every word holds a value (R72). -/
theorem touch_of_defined (s : State) (a n : Nat) (h : definedIn s.mem a n = true) : s.touch a n = s := by
  simp [State.touch, h]

end Sys2Proof.Machine
end

