-- ==== Sys2Proof/Laws/Frames.lean ====
section
/-! SUPPORT. Frames: everything the shared operations leave as it was, said once for each, and composed. -/

namespace Sys2Proof.Machine

/-! ## The relation -/

/-- From `s` to `t` at most the notes `N`, the oscillators `O`, the memory bytes `A`, the flags `mask` with their
interrupt, RES0, RES1, NVOICES and the numbering of undef reads have changed, and memory keeps its canonical form. -/
structure Frame (mask : BitVec 8) (N O A : Nat → Prop) (s t : State) : Prop where
  control : SameControl s t
  flags : FlagsWithin mask s t
  outside : Outside N O A s t
  cptr : t.cptr = s.cptr
  wf : s.mem.wf = true → t.mem.wf = true

theorem SameControl.refl (s : State) : SameControl s s := by constructor <;> simp

theorem SameControl.trans {s t u : State} (h : SameControl s t) (k : SameControl t u) : SameControl s u := by
  obtain ⟨⟨a1, a2, a3, a4⟩, b, ⟨c1, c2, c3⟩, d, e, f, ⟨g1, g2⟩, ⟨i1, i2, i3⟩⟩ := h
  obtain ⟨⟨a1', a2', a3', a4'⟩, b', ⟨c1', c2', c3'⟩, d', e', f', ⟨g1', g2'⟩, ⟨i1', i2', i3'⟩⟩ := k
  constructor <;> simp [*]

theorem FlagsWithin.of_eq {mask : BitVec 8} {s t : State} (h : t.err = s.err) (k : t.irqPend = s.irqPend) :
    FlagsWithin mask s t := by
  constructor <;> simp [h, k]

theorem FlagsWithin.refl (mask : BitVec 8) (s : State) : FlagsWithin mask s s := .of_eq rfl rfl

theorem FlagsWithin.mono {m k : BitVec 8} {s t : State} (h : FlagsWithin m s t) (hm : m &&& k = m) :
    FlagsWithin k s t where
  kept := h.kept
  within := by
    have h1 : ∀ x : BitVec 8, (x &&& ~~~m) &&& ~~~k = x &&& ~~~k := by
      intro x
      ext i hi
      have hb : (m &&& k)[i] = m[i] := by rw [hm]
      simp only [BitVec.getElem_and, BitVec.getElem_not] at hb ⊢
      cases hx : x[i] <;> cases hmi : m[i] <;> cases hk : k[i] <;> simp_all
    rw [← h1 t.err, h.within, h1]
  pend := h.pend

theorem FlagsWithin.trans {mask : BitVec 8} {s t u : State} (h : FlagsWithin mask s t) (k : FlagsWithin mask t u) :
    FlagsWithin mask s u where
  kept := by
    ext i hi
    have h1 : (s.err &&& t.err)[i] = s.err[i] := by rw [h.kept]
    have h2 : (t.err &&& u.err)[i] = t.err[i] := by rw [k.kept]
    simp only [BitVec.getElem_and] at *
    cases hs : s.err[i] <;> cases ht : t.err[i] <;> cases hu : u.err[i] <;> simp_all
  within := k.within.trans h.within
  pend := by
    have hp := h.pend
    have kp := k.pend
    by_cases h1 : t.err = s.err
    · rw [if_pos h1] at hp; rw [kp, h1, hp]
    · have h2 : u.err ≠ s.err := by
        intro he
        apply h1
        have a := h.kept
        have b := k.kept
        rw [he, BitVec.and_comm, a] at b
        exact b.symm
      rw [if_neg h1] at hp
      rw [if_neg h2, kp, hp]
      split
      · rfl
      · rw [BitVec.or_assoc]; rfl

theorem Outside.refl (N O A : Nat → Prop) (s : State) : Outside N O A s s := ⟨fun _ _ => rfl, fun _ _ => rfl, fun _ _ => rfl⟩

theorem Outside.trans {N O A : Nat → Prop} {s t u : State} (h : Outside N O A s t) (k : Outside N O A t u) :
    Outside N O A s u :=
  ⟨fun n hn => (k.notes n hn).trans (h.notes n hn), fun o ho => (k.oscs o ho).trans (h.oscs o ho),
    fun a ha => (k.bytes a ha).trans (h.bytes a ha)⟩

theorem Outside.mono {N O A N' O' A' : Nat → Prop} {s t : State} (h : Outside N O A s t) (hN : ∀ n, N n → N' n)
    (hO : ∀ n, O n → O' n) (hA : ∀ n, A n → A' n) : Outside N' O' A' s t :=
  ⟨fun n hn => h.notes n fun k => hn (hN n k), fun o ho => h.oscs o fun k => ho (hO o k),
    fun a ha => h.bytes a fun k => ha (hA a k)⟩

/-- An update that leaves notes, oscillators and memory alone. -/
theorem Outside.of_eq {N O A : Nat → Prop} {s t : State} (hn : t.notes = s.notes) (ho : t.oscs = s.oscs)
    (hm : t.mem = s.mem) : Outside N O A s t := by
  constructor <;> intros <;> simp [State.note, State.osc, hn, ho, hm]

section
variable {mask : BitVec 8} {N O A : Nat → Prop}

theorem Frame.refl (s : State) : Frame mask N O A s s := ⟨.refl s, .refl mask s, .refl N O A s, rfl, id⟩

theorem Frame.trans {s t u : State} (h : Frame mask N O A s t) (k : Frame mask N O A t u) : Frame mask N O A s u :=
  ⟨h.control.trans k.control, h.flags.trans k.flags, h.outside.trans k.outside, k.cptr.trans h.cptr,
    fun w => k.wf (h.wf w)⟩

theorem Frame.mono {mask' : BitVec 8} {N' O' A' : Nat → Prop} {s t : State} (h : Frame mask N O A s t)
    (hm : mask &&& mask' = mask) (hN : ∀ n, N n → N' n) (hO : ∀ n, O n → O' n) (hA : ∀ n, A n → A' n) :
    Frame mask' N' O' A' s t :=
  ⟨h.control, h.flags.mono hm, h.outside.mono hN hO hA, h.cptr, h.wf⟩

/-- A fold of framed steps. -/
theorem Frame.foldl {α : Type} (f : State → α → State) (h : ∀ s a, Frame mask N O A s (f s a)) (l : List α) (s : State) :
    Frame mask N O A s (l.foldl f s) := by
  induction l generalizing s with
  | nil => exact .refl s
  | cons a l ih => exact (h s a).trans (ih _)

/-! ## The primitive updates -/

theorem frame_setErrIf (b : Bool) (e : ErrBit) (h : mask.getLsbD e.pos = true) (s : State) :
    Frame mask N O A s (s.setErrIf b e) := by
  refine ⟨by constructor <;> simp, ?_, .of_eq rfl rfl rfl, rfl, id⟩
  cases b with
  | false => exact .of_eq rfl rfl
  | true =>
    have hp : e.pos < 8 := by cases e <;> decide
    refine ⟨?_, ?_, ?_⟩
    · show s.err &&& (s.err ||| BitVec.twoPow 8 e.pos) = s.err
      ext i hi
      simp only [BitVec.getElem_and, BitVec.getElem_or]
      cases s.err[i] <;> simp
    · show (s.err ||| BitVec.twoPow 8 e.pos) &&& ~~~mask = s.err &&& ~~~mask
      ext i hi
      simp only [BitVec.getElem_and, BitVec.getElem_or, BitVec.getElem_not, BitVec.getElem_twoPow]
      by_cases hie : i = e.pos
      · subst hie
        rw [BitVec.getLsbD_eq_getElem hi] at h
        simp [h]
      · simp [hie]
    · show (if true && !s.err.getLsbD e.pos then s.irqPend ||| BitVec.twoPow 5 IrqBit.err.pos else s.irqPend) =
        if s.err ||| BitVec.twoPow 8 e.pos = s.err then s.irqPend else s.irqPend ||| 4
      have h4 : BitVec.twoPow 5 IrqBit.err.pos = 4 := by decide
      rw [h4]
      by_cases hb : s.err.getLsbD e.pos = true
      · have : s.err ||| BitVec.twoPow 8 e.pos = s.err := by
          ext i hi
          simp only [BitVec.getElem_or, BitVec.getElem_twoPow]
          by_cases hie : i = e.pos
          · subst hie; rw [BitVec.getLsbD_eq_getElem hi] at hb; simp [hb]
          · simp [hie]
        rw [if_pos this]; simp only [hb, Bool.not_true, Bool.and_false, Bool.false_eq_true, ↓reduceIte]
      · have : s.err ||| BitVec.twoPow 8 e.pos ≠ s.err := by
          intro he
          apply hb
          have := congrArg (·.getLsbD e.pos) he
          simpa [hp] using this.symm
        rw [if_neg this]; simp [hb]

theorem frame_setErr (e : ErrBit) (h : mask.getLsbD e.pos = true) (s : State) : Frame mask N O A s (s.setErr e) :=
  frame_setErrIf true e h s

theorem frame_noteSat (b : Bool) (h : mask.getLsbD 3 = true) (s : State) : Frame mask N O A s (s.noteSat b) :=
  frame_setErrIf b .sat h s

theorem frame_touch (a n : Nat) (s : State) : Frame mask N O A s (s.touch a n) :=
  ⟨by constructor <;> simp, .of_eq rfl rfl, .of_eq rfl rfl rfl, rfl, id⟩

theorem frame_setRes0 (a : Word) (s : State) : Frame mask N O A s (s.setRes0 a) :=
  ⟨by constructor <;> simp, .of_eq rfl rfl, .of_eq rfl rfl rfl, rfl, id⟩

theorem frame_setRes (a b : Word) (s : State) : Frame mask N O A s (s.setRes a b) :=
  ⟨by constructor <;> simp, .of_eq rfl rfl, .of_eq rfl rfl rfl, rfl, id⟩

theorem frame_nvoices (x : BitVec 8) (s : State) : Frame mask N O A s { s with nvoices := x } :=
  ⟨by constructor <;> simp, .of_eq rfl rfl, .of_eq rfl rfl rfl, rfl, id⟩

theorem frame_splice (a : Nat) (bs : List Byte) (h : ∀ x, a ≤ x → x < a + bs.length → A x) (s : State) :
    Frame mask N O A s { s with mem := s.mem.splice a bs } :=
  ⟨by constructor <;> simp, .of_eq rfl rfl,
    ⟨fun _ _ => rfl, fun _ _ => rfl, fun x hx => by
      show (s.mem.splice a bs).byte? x = _
      rw [byte?_splice, if_neg fun k => hx (h x k.1 k.2)]⟩,
    rfl, fun w => wf_splice _ _ _ w⟩

theorem frame_setCells (a : Nat) (ws : List Word) (h : ∀ x, wordsAt a ws.length x → A x) (s : State) :
    Frame mask N O A s (s.setCells a ws) :=
  frame_splice a (bytesOf ws) (fun x h1 h2 => h x ⟨h1, by simpa using h2⟩) s

theorem frame_setCell (a : Nat) (w : Word) (h : ∀ x, wordsAt a 1 x → A x) (s : State) :
    Frame mask N O A s (s.setCell a w) :=
  frame_splice a (bytesOfWord w) (fun x h1 h2 => h x ⟨h1, by simpa using h2⟩) s

theorem frame_setSignedCells (a : Nat) (xs : List Int) (h : ∀ x, wordsAt a xs.length x → A x) (s : State) :
    Frame mask N O A s (s.setSignedCells a xs) :=
  frame_setCells a (xs.map toWord) (by simpa using h) s

theorem frame_setNote (n : Nat) (x : Note) (h : N n) (s : State) : Frame mask N O A s (s.setNote n x) :=
  ⟨by constructor <;> simp, .of_eq rfl rfl,
    ⟨fun m hm => note_setNote_ne _ _ _ _ fun he => hm (he ▸ h), fun _ _ => rfl, fun _ _ => rfl⟩, rfl, id⟩

theorem frame_modNote (n : Nat) (f : Note → Note) (h : N n) (s : State) : Frame mask N O A s (s.modNote n f) :=
  frame_setNote n _ h s

theorem frame_setEnv (n k : Nat) (e : Env) (h : N n) (s : State) : Frame mask N O A s (s.setEnv n k e) :=
  frame_setNote n _ h s

theorem frame_setLfo (n k : Nat) (l : Lfo) (h : N n) (s : State) : Frame mask N O A s (s.setLfo n k l) :=
  frame_setNote n _ h s

theorem frame_setFlt (n f : Nat) (x : Flt) (h : N n) (s : State) : Frame mask N O A s (s.setFlt n f x) :=
  frame_setNote n _ h s

theorem frame_setVoice (n v : Nat) (x : Voice) (h : N n) (s : State) : Frame mask N O A s (s.setVoice n v x) :=
  frame_setNote n _ h s

theorem frame_modVoice (n v : Nat) (f : Voice → Voice) (h : N n) (s : State) : Frame mask N O A s (s.modVoice n v f) :=
  frame_setNote n _ h s

theorem frame_setRng (n : Nat) (r : Word) (h : N n) (s : State) : Frame mask N O A s (s.setRng n r) :=
  frame_setNote n _ h s

theorem frame_setOsc (o : Nat) (x : Osc) (h : O o) (s : State) : Frame mask N O A s (s.setOsc o x) :=
  ⟨by constructor <;> simp, .of_eq rfl rfl,
    ⟨fun _ _ => rfl, fun p hp => osc_setOsc_ne _ _ _ _ fun he => hp (he ▸ h), fun _ _ => rfl⟩, rfl, id⟩

theorem frame_touchAll (rs : List (Nat × Nat)) (s : State) : Frame mask N O A s (s.touchAll rs) :=
  Frame.foldl _ (fun t r => frame_touch r.1 r.2 t) rs s

end

/-! ## Envelopes, LFOs, filters -/

section
variable {mask : BitVec 8} {N O A : Nat → Prop} (n k : Nat)

theorem frame_envReset (hn : N n) (hc : mask.getLsbD 2 = true) (hg : mask.getLsbD 1 = true) (s : State) :
    Frame mask N O A s (envReset n k s) :=
  (((frame_touch _ _ s).trans (frame_setErrIf _ .clamp hc _)).trans (frame_setErrIf _ .cfg hg _)).trans
    (frame_setEnv n k _ hn _)

theorem frame_performCall (r : EnvCall) (hn : N n) (hs : mask.getLsbD 3 = true) (s : State) :
    Frame mask N O A s (performCall n k r s).st :=
  ((frame_noteSat _ hs s).trans (frame_touchAll _ _)).trans (frame_setEnv n k _ hn _)

theorem frame_runEnvStep (hn : N n) (hs : mask.getLsbD 3 = true) (s : State) :
    Frame mask N O A s (runEnvStep n k s).st := frame_performCall n k _ hn hs s

theorem frame_runEnvOutDb (hn : N n) (hs : mask.getLsbD 3 = true) (s : State) :
    Frame mask N O A s (runEnvOutDb n k s).st := frame_performCall n k _ hn hs s

theorem frame_lfoReset (hn : N n) (hg : mask.getLsbD 1 = true) (s : State) : Frame mask N O A s (lfoReset n k s) :=
  (frame_setErrIf _ .cfg hg s).trans (frame_setLfo n k _ hn _)

theorem frame_runLfoStep (hn : N n) (hs : mask.getLsbD 3 = true) (s : State) :
    Frame mask N O A s (runLfoStep n k s).st := (frame_noteSat _ hs s).trans (frame_setLfo n k _ hn _)

theorem frame_setCoef (freq : Nat) (q : Int) (hn : N n) (hc : mask.getLsbD 2 = true) (hg : mask.getLsbD 1 = true)
    (s : State) : Frame mask N O A s (setCoef n k freq q s) :=
  ((frame_setErrIf _ .clamp hc s).trans (frame_setErrIf _ .cfg hg _)).trans (frame_setFlt n k _ hn _)

theorem frame_cleanup (hn : N n) (hg : mask.getLsbD 1 = true) (s : State) : Frame mask N O A s (cleanup n k s) :=
  (frame_setErrIf _ .cfg hg s).trans (frame_setFlt n k _ hn _)

theorem frame_filterBlock (b : List Int) (hn : N n) (hs : mask.getLsbD 3 = true) (s : State) :
    Frame mask N O A s (filterBlock n k b s).st := by
  unfold filterBlock
  dsimp only
  split
  · exact .refl s
  · exact (frame_noteSat _ hs s).trans (frame_setFlt n k _ hn _)

end

end Sys2Proof.Machine
end

