-- ==== Sys2Proof/Laws/PerInstr.lean ====
section
/-! SUPPORT. Laws of the commands as syntax, one lemma per constructor: what `encode` writes is a legal command, with every
field that its format does not use zero (spec/30_encoding.md R132, R134, R135). -/

namespace Sys2Proof.Laws

open Sys2Proof.Machine

/-- Bit i of a first word, by field (R131). -/
theorem mkW0_getLsbD (op a b c : Byte) (i : Nat) : (mkW0 op a b c).getLsbD i =
    if i < 8 then op.getLsbD i else if i < 16 then a.getLsbD (i - 8) else if i < 24 then b.getLsbD (i - 16)
      else c.getLsbD (i - 24) := by
  simp only [mkW0, BitVec.getLsbD_append]
  split_ifs <;> first | rfl | omega

/-- The opcode of a first word. -/
theorem mkW0_op (op a b c : Byte) : (mkW0 op a b c).toNat % 256 = op.toNat := by
  have h : (mkW0 op a b c).toNat % 2 ^ 8 = ((mkW0 op a b c).setWidth 8).toNat := by simp
  have k : (mkW0 op a b c).setWidth 8 = op := by
    ext i hi
    rw [BitVec.getElem_setWidth, mkW0_getLsbD, if_pos hi]
    simp [BitVec.getLsbD_eq_getElem hi]
  have e : (256 : Nat) = 2 ^ 8 := rfl
  rw [e, h, k]

/-- Only the opcode field is used. -/
theorem mkW0_and_low (op : Byte) : mkW0 op 0 0 0 &&& 0xFFFFFF00 = 0 := by
  ext i hi
  have h := mkW0_getLsbD op 0 0 0 i
  rw [BitVec.getLsbD_eq_getElem hi] at h
  rw [BitVec.getElem_and, h]
  interval_cases i <;> simp

/-- Opcode and first index are used. -/
theorem mkW0_and_one (op a : Byte) : mkW0 op a 0 0 &&& 0xFFFF0000 = 0 := by
  ext i hi
  have h := mkW0_getLsbD op a 0 0 i
  rw [BitVec.getLsbD_eq_getElem hi] at h
  rw [BitVec.getElem_and, h]
  interval_cases i <;> simp

/-- Opcode and two indices are used. -/
theorem mkW0_and_two (op a b : Byte) : mkW0 op a b 0 &&& 0xFF000000 = 0 := by
  ext i hi
  have h := mkW0_getLsbD op a b 0 i
  rw [BitVec.getLsbD_eq_getElem hi] at h
  rw [BitVec.getElem_and, h]
  interval_cases i <;> simp

/-- Bits [7:5] of the C byte of format G are zero, by bit. -/
theorem mkGetC_high : ∀ (v : BitVec 3) (sel useres : Bool), (mkGetC v sel useres).getLsbD 5 = false ∧
    (mkGetC v sel useres).getLsbD 6 = false ∧ (mkGetC v sel useres).getLsbD 7 = false := by decide

/-- Bits [7:5] of the C byte of format G are zero (R132). -/
theorem mkW0_and_get (op a b : Byte) (v : BitVec 3) (sel useres : Bool) :
    mkW0 op a b (mkGetC v sel useres) &&& 0xE0000000 = 0 := by
  ext i hi
  have h := mkW0_getLsbD op a b (mkGetC v sel useres) i
  rw [BitVec.getLsbD_eq_getElem hi] at h
  rw [BitVec.getElem_and, h]
  obtain ⟨h5, h6, h7⟩ := mkGetC_high v sel useres
  interval_cases i <;> simp [h5, h6, h7, -BitVec.getLsbD_eq_getElem]

/-- The upper half of P1 of format M is zero (R132). -/
theorem mask_and (m : BitVec 16) : (0#16 ++ m : Word) &&& 0xFFFF0000 = 0 := by
  ext i hi
  rw [BitVec.getElem_and, BitVec.getElem_append]
  interval_cases i <;> simp

/-- A command is legal when its format's must-be-zero bits are zero. -/
theorem legal_mk {op a b c : Byte} {w1 w2 w3 : Word} (m : Words) (hm : mustBeZero op.toNat = some m)
    (h0 : mkW0 op a b c &&& m.w0 = 0) (h1 : w1 &&& m.w1 = 0) (h2 : w2 &&& m.w2 = 0) (h3 : w3 &&& m.w3 = 0) :
    Legal ⟨mkW0 op a b c, w1, w2, w3⟩ :=
  ⟨m, by rw [mkW0_op]; exact hm, h0, h1, h2, h3⟩

namespace Encoding

/-- What is written for the command is legal. -/
def Statement (i : Instr) : Prop := Legal (encode i)

theorem nop : Statement .nop :=
  legal_mk _ rfl (mkW0_and_low _) BitVec.zero_and BitVec.zero_and BitVec.zero_and

theorem halt : Statement .halt :=
  legal_mk _ rfl (mkW0_and_low _) BitVec.zero_and BitVec.zero_and BitVec.zero_and

theorem oscPrepare (o : Byte) : Statement (.oscPrepare o) :=
  legal_mk _ rfl (mkW0_and_one _ _) BitVec.zero_and BitVec.zero_and BitVec.zero_and

theorem oscGet (o n : Byte) (v : BitVec 3) (sel useres : Bool) (freq : Word) : Statement (.oscGet o n v sel useres freq) :=
  legal_mk _ rfl (mkW0_and_get _ _ _ _ _ _) BitVec.and_zero BitVec.zero_and BitVec.zero_and

theorem oscRegen (o : Byte) : Statement (.oscRegen o) :=
  legal_mk _ rfl (mkW0_and_one _ _) BitVec.zero_and BitVec.zero_and BitVec.zero_and

theorem oscCancel (o : Byte) : Statement (.oscCancel o) :=
  legal_mk _ rfl (mkW0_and_one _ _) BitVec.zero_and BitVec.zero_and BitVec.zero_and

theorem envReset (n k : Byte) : Statement (.envReset n k) :=
  legal_mk _ rfl (mkW0_and_two _ _ _) BitVec.zero_and BitVec.zero_and BitVec.zero_and

theorem envOut (n k : Byte) : Statement (.envOut n k) :=
  legal_mk _ rfl (mkW0_and_two _ _ _) BitVec.zero_and BitVec.zero_and BitVec.zero_and

theorem envOutdb (n k : Byte) : Statement (.envOutdb n k) :=
  legal_mk _ rfl (mkW0_and_two _ _ _) BitVec.zero_and BitVec.zero_and BitVec.zero_and

theorem envRelease (n k : Byte) : Statement (.envRelease n k) :=
  legal_mk _ rfl (mkW0_and_two _ _ _) BitVec.zero_and BitVec.zero_and BitVec.zero_and

theorem envFinish (n k : Byte) : Statement (.envFinish n k) :=
  legal_mk _ rfl (mkW0_and_two _ _ _) BitVec.zero_and BitVec.zero_and BitVec.zero_and

theorem lfoReset (n k : Byte) : Statement (.lfoReset n k) :=
  legal_mk _ rfl (mkW0_and_two _ _ _) BitVec.zero_and BitVec.zero_and BitVec.zero_and

theorem lfoOut (n k : Byte) : Statement (.lfoOut n k) :=
  legal_mk _ rfl (mkW0_and_two _ _ _) BitVec.zero_and BitVec.zero_and BitVec.zero_and

theorem fltSetfreq (n f : Byte) (freq : Word) : Statement (.fltSetfreq n f freq) :=
  legal_mk _ rfl (mkW0_and_two _ _ _) BitVec.and_zero BitVec.zero_and BitVec.zero_and

theorem fltSetfq (n f : Byte) (freq q : Word) : Statement (.fltSetfq n f freq q) :=
  legal_mk _ rfl (mkW0_and_two _ _ _) BitVec.and_zero BitVec.and_zero BitVec.zero_and

theorem fltOut (n f buf : Byte) : Statement (.fltOut n f buf) :=
  legal_mk _ rfl (by simp) BitVec.zero_and BitVec.zero_and BitVec.zero_and

theorem fltCleanup (n f : Byte) : Statement (.fltCleanup n f) :=
  legal_mk _ rfl (mkW0_and_two _ _ _) BitVec.zero_and BitVec.zero_and BitVec.zero_and

theorem noteInit (n : Byte) : Statement (.noteInit n) :=
  legal_mk _ rfl (mkW0_and_one _ _) BitVec.zero_and BitVec.zero_and BitVec.zero_and

theorem noteOut (n : Byte) : Statement (.noteOut n) :=
  legal_mk _ rfl (mkW0_and_one _ _) BitVec.zero_and BitVec.zero_and BitVec.zero_and

theorem noteRelease (n : Byte) : Statement (.noteRelease n) :=
  legal_mk _ rfl (mkW0_and_one _ _) BitVec.zero_and BitVec.zero_and BitVec.zero_and

theorem noteKill (n : Byte) : Statement (.noteKill n) :=
  legal_mk _ rfl (mkW0_and_one _ _) BitVec.zero_and BitVec.zero_and BitVec.zero_and

theorem noteLegato (n : Byte) (pitch velocity : Word) : Statement (.noteLegato n pitch velocity) :=
  legal_mk _ rfl (mkW0_and_one _ _) BitVec.and_zero BitVec.and_zero BitVec.zero_and

theorem noteSetvel (n : Byte) (value : Word) : Statement (.noteSetvel n value) :=
  legal_mk _ rfl (mkW0_and_one _ _) BitVec.and_zero BitVec.zero_and BitVec.zero_and

theorem noteSetpitch (n : Byte) (value : Word) : Statement (.noteSetpitch n value) :=
  legal_mk _ rfl (mkW0_and_one _ _) BitVec.and_zero BitVec.zero_and BitVec.zero_and

theorem noteSetcut (n : Byte) (value : Word) : Statement (.noteSetcut n value) :=
  legal_mk _ rfl (mkW0_and_one _ _) BitVec.and_zero BitVec.zero_and BitVec.zero_and

theorem noteFin (n : Byte) : Statement (.noteFin n) :=
  legal_mk _ rfl (mkW0_and_one _ _) BitVec.zero_and BitVec.zero_and BitVec.zero_and

theorem mixAll (mask : BitVec 16) : Statement (.mixAll mask) :=
  legal_mk _ rfl (mkW0_and_low _) (mask_and _) BitVec.zero_and BitVec.zero_and

theorem mixClear : Statement .mixClear :=
  legal_mk _ rfl (mkW0_and_low _) BitVec.zero_and BitVec.zero_and BitVec.zero_and

end Encoding

end Sys2Proof.Laws
end

