-- ==== Sys2Proof/Laws/Spectra.lean ====
section
/-! SUPPORT. What the shared operations over spectra and jobs do: bins of a list made over a range, `mapBins`, `zeroDC`,
the spectrum's words, `isqrt` at 0, the stage order, reads of undef cells, and the set of done units. -/

namespace Sys2Proof.Machine

/-! ## Spectra -/

theorem Spectrum.bin_map_range (f : Nat → Int × Int) (n k : Nat) (h : k < n) :
    Spectrum.bin ((List.range n).map f) k = f k := by
  simp [Spectrum.bin, List.getD, h]

theorem outOfRange32_iff (x : Int) : outOfRange32 x = true ↔ x ≠ narrowed x := by
  simp only [outOfRange32, narrowed, clamp, Bool.or_eq_true, decide_eq_true_eq]
  omega

theorem pairSat_sat32 (a b : Int) :
    pairSat (sat32 a) (sat32 b) = ⟨(narrowed a, narrowed b), outOfRange32 a || outOfRange32 b⟩ := rfl

/-- A spectrum made bin by bin from narrowed pairs. -/
theorem mapSat_binsAre (g : Nat → Sat (Int × Int)) (f : Nat → Int × Int) (n : Nat) (hn : n = 512) (h0 : g 0 = .ok (0, 0))
    (h : ∀ k, 1 ≤ k → k ≤ 511 → g k = pairSat (sat32 (f k).1) (sat32 (f k).2)) :
    BinsAre (mapSat g (List.range n)) f := by
  have hlen : (mapSat g (List.range n)).val.length = n := by simp [mapSat]
  have hb : ∀ k, k < n → Spectrum.bin (mapSat g (List.range n)).val k = (g k).val := by
    intro k hk
    simp only [mapSat, List.map_map]
    rw [Spectrum.bin_map_range _ _ _ hk]; rfl
  have hs : (mapSat g (List.range n)).sat = true ↔ ∃ k, k < n ∧ (g k).sat = true := by
    simp [mapSat, List.any_map]
  refine ⟨hlen.trans hn, ?_, ?_, hs.trans ⟨?_, ?_⟩⟩
  · rw [hb _ (by omega), h0]; rfl
  · intro k h1 h2
    rw [hb _ (by omega), h k h1 h2, pairSat_sat32]
  · rintro ⟨k, hk, hs⟩
    have h1 : 1 ≤ k := by
      rcases Nat.eq_zero_or_pos k with rfl | hp
      · simp [h0, Sat.ok] at hs
      · exact hp
    rw [h k h1 (by omega), pairSat_sat32] at hs
    exact ⟨k, h1, by omega, by simpa [outOfRange32_iff] using hs⟩
  · rintro ⟨k, h1, h2, hs⟩
    refine ⟨k, by omega, ?_⟩
    rw [h k h1 h2, pairSat_sat32]
    simpa [outOfRange32_iff] using hs

/-- Bins 1..511 changed by narrowed pairs, bin 0 kept at (0, 0). -/
theorem mapBins_binsAre (S : Spectrum) (g : Nat → Int × Int → Sat (Int × Int)) (f : Nat → Int × Int)
    (h0 : S.bin 0 = (0, 0))
    (h : ∀ k, 1 ≤ k → k ≤ 511 → g k (S.bin k) = pairSat (sat32 (f k).1) (sat32 (f k).2)) : BinsAre (mapBins S g) f := by
  apply mapSat_binsAre _ _ _ rfl
  · exact (if_pos rfl).trans (by rw [h0])
  · intro k h1 h2
    rw [if_neg (by omega)]; exact h k h1 h2

/-- `zeroDC` clears bin 0 and keeps the others. -/
theorem zeroDC_bins (S : Spectrum) : (zeroDC S).length = 512 ∧ Spectrum.bin (zeroDC S) 0 = (0, 0) ∧
    ∀ k, 1 ≤ k → k ≤ 511 → Spectrum.bin (zeroDC S) k = S.bin k := by
  unfold zeroDC cutAbove
  refine ⟨by simp only [List.length_map, List.length_range], ?_, fun k h1 h2 => ?_⟩
  · rw [Spectrum.bin_map_range _ _ _ (by decide)]; rfl
  · rw [Spectrum.bin_map_range _ _ _ (by simp only [Config.HB]; omega), if_pos ⟨h1, h2⟩]

@[simp] theorem length_prepareSpectrum (c : OscCfg) (hmag hphase : List Nat) :
    (prepareSpectrum c hmag hphase).val.length = 512 := by
  simp only [prepareSpectrum, Sat.bind, Sat.map, zeroDC, cutAbove, List.length_map, List.length_range]

@[simp] theorem length_spectrumWords (S : Spectrum) : (spectrumWords S).length = 2 * S.length := by
  induction S with
  | nil => rfl
  | cons c S ih =>
    simp only [spectrumWords, List.flatMap_cons, List.length_append, List.length_cons] at *
    rw [ih]; simp; omega

theorem isqrtFrom_ge (n b r : Nat) : r ≤ isqrtFrom n b r := by
  induction b generalizing r with
  | zero => exact le_rfl
  | succ b ih =>
    unfold isqrtFrom
    split
    · exact le_trans (Nat.le_add_right _ _) (ih _)
    · exact ih _

/-- The root of a positive number is positive. -/
theorem isqrt_eq_zero (n : Nat) (h : isqrt n = 0) : n = 0 := by
  by_contra hn
  have key : ∀ b, isqrtFrom n (b + 1) 0 ≠ 0 := by
    intro b
    induction b with
    | zero => simp [isqrtFrom, Nat.one_le_iff_ne_zero.2 hn]
    | succ b ih =>
      unfold isqrtFrom
      split
      · have := isqrtFrom_ge n (b + 1) (0 + 2 ^ (b + 1))
        have : 0 < 2 ^ (b + 1) := by positivity
        omega
      · exact ih
  exact key _ h

/-- The order applied is that of `stageAt`, position by position (R180). -/
theorem stageOrder_eq (c : OscCfg) : c.stageOrder = [stageAt c 0, stageAt c 1, stageAt c 2, stageAt c 3] := by
  have key : ∀ x : BitVec 8,
      (if ([x.toNat % 4, x.toNat / 4 % 4, x.toNat / 16 % 4, x.toNat / 64 % 4] : List Nat).Nodup
        then [x.toNat % 4, x.toNat / 4 % 4, x.toNat / 16 % 4, x.toNat / 64 % 4] else [0, 1, 2, 3]) =
      (if ∀ id ∈ List.range 4, ∃ q ∈ List.range 4, x.toNat / 4 ^ q % 4 = id then
        [x.toNat / 4 ^ 0 % 4, x.toNat / 4 ^ 1 % 4, x.toNat / 4 ^ 2 % 4, x.toNat / 4 ^ 3 % 4] else [0, 1, 2, 3]) := by
    decide +kernel
  refine (show c.stageOrder = _ from key c.stageorder).trans ?_
  by_cases h : ∀ id ∈ List.range 4, ∃ q ∈ List.range 4, c.stageorder.toNat / 4 ^ q % 4 = id
  · rw [if_pos h]; simp only [stageAt, if_pos h]
  · rw [if_neg h]; simp only [stageAt, if_neg h]

/-! ## Jobs -/

theorem mem_insertUnit (u : Nat) (us : List Nat) (w : Nat) : w ∈ insertUnit u us ↔ w = u ∨ w ∈ us := by
  induction us with
  | nil => simp [insertUnit]
  | cons a us ih =>
    unfold insertUnit
    split
    · simp
    · split
      · rename_i h; subst h; simp
      · simp [ih]; tauto

/-- Some cell of a block holds no value (R72). -/
theorem definedIn_eq_false (m : Mem) (a n : Nat) : definedIn m a n = false ↔ ∃ i, i < n ∧ m.word? (a + 4 * i) = none := by
  simp only [definedIn, List.all_eq_false, List.mem_range]
  refine exists_congr fun i => and_congr_right fun h => ?_
  rw [word?_window _ _ _ _ (by omega) (by omega)]
  simp

end Sys2Proof.Machine
end

