-- ==== Sys2Proof/Laws/VoiceFrames.lean ====
section
/-! SUPPORT. Frames of the voice and note procedures: NOTE.OUT changes nothing outside its note slot. -/

namespace Sys2Proof.Machine

/-! ## Lengths -/

@[simp] theorem length_mapSat {α β : Type} (f : α → Sat β) (xs : List α) : (mapSat f xs).val.length = xs.length := by
  simp [mapSat]

@[simp] theorem length_scaleBy (g : Nat → Int) (b : List Int) : (scaleBy g b).val.length = b.length := by
  simp [scaleBy]

@[simp] theorem length_unisonMix (u : Int) (ws : List Int) (bs : List (List Int)) :
    (unisonMix u ws bs).val.length = 256 := by simp [unisonMix]

@[simp] theorem length_fadeInBuf (b : List Int) : (fadeInBuf b).val.length = b.length := by
  simp only [fadeInBuf, Sat.map, List.length_append, length_scaleBy, List.length_take, List.length_drop]
  omega

theorem length_filterSamples (x : Flt) (gs : List FltStage) (us : List Int) :
    (filterSamples x gs us).val.1.length = us.length := by
  induction us generalizing gs with
  | nil => rfl
  | cons u us ih => simp [filterSamples, Sat.bind, Sat.map, ih]

@[simp] theorem length_filterBlock (n f : Nat) (b : List Int) (s : State) : (filterBlock n f b s).buf.length = b.length := by
  unfold filterBlock
  dsimp only
  split
  · rfl
  · exact length_filterSamples _ _ _

@[simp] theorem length_zeros (n : Nat) : (zeros n).length = n := by simp [zeros]

@[simp] theorem length_rngDraws (n : Nat) (r : Word) : (rngDraws n r).length = n := by
  induction n generalizing r with
  | zero => rfl
  | succ n ih => simp [rngDraws, ih]

theorem length_startIndices (off cnt : Nat) (r : Word) : (startIndices off cnt r).length ≤ cnt + 1 := by
  simp [startIndices]

/-- Both channels hold a block. -/
def Stereo.Len (x : Stereo) : Prop := x.l.length = 256 ∧ x.r.length = 256

theorem len_scale (g : Nat → Int) (x : Stereo) (h : x.Len) : (x.scale g).Len := by
  simpa [Stereo.Len, Stereo.scale] using h

theorem len_fadeIn (x : Stereo) (h : x.Len) : x.fadeIn.Len := by simpa [Stereo.Len, Stereo.fadeIn] using h

theorem len_filter (n f freq : Nat) (q : Int) (x : Stereo) (h : x.Len) : (Stereo.filter n f freq q x).Len := by
  simpa [Stereo.Len, Stereo.filter] using h

/-! ## Cells of a note slot -/

section
variable {mask : BitVec 8} {N O A : Nat → Prop}

theorem frame_touchUni (n v cnt : Nat) (f : UniField) (s : State) : Frame mask N O A s (s.touchUni n v cnt f) :=
  frame_touchAll _ s

theorem frame_touchPhases (n v cnt : Nat) (hi lo : UniField) (s : State) :
    Frame mask N O A s (s.touchPhases n v cnt hi lo) :=
  (frame_touchUni n v cnt hi s).trans (frame_touchUni n v cnt lo _)

theorem uni_inNote (n v k : Nat) (f : UniField) (hv : v < 8) (hk : k < 64) :
    ∀ x, wordsAt (uniAddr n v k + f.offset) 1 x → noteBytes n x := by
  intro x hx
  have hf : f.offset < 0x40 := by cases f <;> decide
  simp only [wordsAt, noteBytes, uniAddr, voiceBase] at *
  omega

theorem frame_setUni (n v : Nat) (f : UniField) (ws : List Word) (hv : v < 8) (hl : ws.length ≤ 64)
    (hA : ∀ x, noteBytes n x → A x) (s : State) : Frame mask N O A s (s.setUni n v f ws) := by
  unfold State.setUni
  have : ∀ l : List Nat, (∀ k ∈ l, k < 64) → ∀ s : State, Frame mask N O A s
      (l.foldl (fun t k => t.setCell (uniAddr n v k + f.offset) (ws.getD k 0)) s) := by
    intro l
    induction l with
    | nil => intro _ s; exact .refl s
    | cons k l ih =>
      intro hk s
      exact (frame_setCell _ _ (fun x hx => hA x (uni_inNote n v k f hv (hk k (by simp)) x hx)) s).trans
        (ih (fun j hj => hk j (by simp [hj])) _)
  exact this _ (fun k hk => by have := List.mem_range.1 hk; omega) s

theorem frame_setPhases (n v : Nat) (hi lo : UniField) (ps : List Nat) (hv : v < 8) (hl : ps.length ≤ 64)
    (hA : ∀ x, noteBytes n x → A x) (s : State) : Frame mask N O A s (s.setPhases n v hi lo ps) := by
  unfold State.setPhases
  have : ∀ l : List Nat, (∀ k ∈ l, k < 64) → ∀ s : State, Frame mask N O A s
      (l.foldl (fun t k => t.setPhase n v k hi lo (ps.getD k 0)) s) := by
    intro l
    induction l with
    | nil => intro _ s; exact .refl s
    | cons k l ih =>
      intro hk s
      exact ((frame_setCell _ _ (fun x hx => hA x (uni_inNote n v k hi hv (hk k (by simp)) x hx)) s).trans
        (frame_setCell _ _ (fun x hx => hA x (uni_inNote n v k lo hv (hk k (by simp)) x hx)) _)).trans
        (ih (fun j hj => hk j (by simp [hj])) _)
  exact this _ (fun k hk => by have := List.mem_range.1 hk; omega) s

theorem frame_vout (n v : Nat) (xs : List Int) (hv : v < 8) (hl : xs.length ≤ 256)
    (hA : ∀ x, noteBytes n x → A x) (s : State) : Frame mask N O A s (s.setSignedCells (voutAddr n v) xs) :=
  frame_setSignedCells _ _ (fun x hx => hA x (by
    simp only [wordsAt, noteBytes, voutAddr, voiceBase] at *; omega)) s

theorem frame_vwave (n v : Nat) (sel : Bool) (xs : List Word) (hv : v < 8) (hl : xs.length ≤ 1024)
    (hA : ∀ x, noteBytes n x → A x) (s : State) : Frame mask N O A s (s.setCells (vwaveAddr n v sel) xs) :=
  frame_setCells _ _ (fun x hx => hA x (by
    simp only [wordsAt, noteBytes, vwaveAddr, voiceBase] at *; split at hx <;> omega)) s

theorem frame_setOut (n : Nat) (l r : List Int) (hl : l.length ≤ 256) (hr : r.length ≤ 256)
    (hA : ∀ x, noteBytes n x → A x) (s : State) : Frame mask N O A s (s.setOut n l r) :=
  (frame_setSignedCells _ _ (fun x hx => hA x (by
    simp only [wordsAt, noteBytes, outlAddr] at *; omega)) s).trans
    (frame_setSignedCells _ _ (fun x hx => hA x (by
      simp only [wordsAt, noteBytes, outrAddr] at *; omega)) _)

/-! ## A voice's block -/

section
variable (n v : Nat) (hn : N n) (hs : mask.getLsbD 3 = true) (hc : mask.getLsbD 2 = true) (hg : mask.getLsbD 1 = true)
  (hv : v < 8) (hA : ∀ x, noteBytes n x → A x)

include hs in
theorem frame_scale (g : Nat → Int) (x : Stereo) : Frame mask N O A x.st (x.scale g).st := frame_noteSat _ hs _

include hn hs in
theorem frame_runSources (base : Nat) (s : State) : Frame mask N O A s (runSources n base s).st :=
  (((((frame_runEnvOutDb n base hn hs s).trans (frame_runLfoStep n base hn hs _)).trans
    (frame_runEnvStep n _ hn hs _)).trans (frame_runLfoStep n _ hn hs _)).trans
      (frame_runEnvStep n _ hn hs _)).trans (frame_runLfoStep n _ hn hs _)

include hn hs hc hg in
theorem frame_stereoFilter (f freq : Nat) (q : Int) (x : Stereo) :
    Frame mask N O A x.st (Stereo.filter n f freq q x).st :=
  (((frame_setCoef n f freq q hn hc hg x.st).trans (frame_setCoef n (f + 1) freq q hn hc hg _)).trans
    (frame_filterBlock n f x.l hn hs _)).trans (frame_filterBlock n (f + 1) x.r hn hs _)

/-- The lengths of what R334 hands on. -/
theorem length_blockRatios (s : State) :
    (blockRatios s n v).val.pos.length ≤ 63 ∧ (blockRatios s n v).val.step.length ≤ 63 ∧
      (blockRatios s n v).val.ratio.length ≤ 63 := by
  have hu : (s.voice n v).usize.toNat ≤ 63 := by have := (s.voice n v).usize.isLt; omega
  unfold blockRatios
  dsimp only
  split
  · simp [Sat.ok]
  · simp [Sat.bind, Sat.map]; omega

include hv hA in
theorem frame_storeRatios (r : Ratios) (h1 : r.pos.length ≤ 63) (h2 : r.step.length ≤ 63) (h3 : r.ratio.length ≤ 63)
    (s : State) : Frame mask N O A s (storeRatios n v r s) :=
  (((((frame_touchUni n v _ _ s).trans (frame_touchUni n v _ _ _)).trans (frame_touchUni n v _ _ _)).trans
    (frame_setUni n v _ _ hv (by simp; omega) hA _)).trans (frame_setUni n v _ _ hv (by simp; omega) hA _)).trans
      (frame_setUni n v _ _ hv (by simp; omega) hA _)

theorem frame_touchOscillators (s : State) : Frame mask N O A s (touchOscillators n v s) := by
  have h0 : Frame mask N O A s ((((s.touch (vwaveAddr n v false) 1024).touchPhases n v (s.voice n v).usize.toNat .phhi
      .phlo).touchUni n v (s.voice n v).usize.toNat .pos).touchUni n v (s.voice n v).usize.toNat .invert) :=
    (((frame_touch _ _ s).trans (frame_touchPhases n v _ _ _ _)).trans (frame_touchUni n v _ _ _)).trans
      (frame_touchUni n v _ _ _)
  unfold touchOscillators
  dsimp only
  split_ifs
  · exact h0.trans (frame_touchPhases n v _ _ _ _)
  · exact (h0.trans (frame_touch _ _ _)).trans (frame_touchPhases n v _ _ _ _)
  · exact (h0.trans ((frame_touch _ _ _).trans (frame_touchPhases n v _ _ _ _))).trans (frame_touchPhases n v _ _ _ _)
  · exact h0
  · exact h0.trans (frame_touch _ _ _)
  · exact h0.trans ((frame_touch _ _ _).trans (frame_touchPhases n v _ _ _ _))

include hv hA in
theorem frame_storePhases (ps : List SubPhase) (hl : ps.length ≤ 63) (s : State) :
    Frame mask N O A s (storePhases n v ps s) := by
  have h (t : State) (hi lo : UniField) (f : SubPhase → Nat) : Frame mask N O A t (t.setPhases n v hi lo (ps.map f)) :=
    frame_setPhases n v hi lo _ hv (by simp; omega) hA t
  unfold storePhases
  dsimp only
  split_ifs
  · exact (h _ _ _ _).trans (h _ _ _ _)
  · exact ((h _ _ _ _).trans (h _ _ _ _)).trans (h _ _ _ _)
  · exact h _ _ _ _
  · exact (h _ _ _ _).trans (h _ _ _ _)

theorem length_subBlocks (s : State) (fv fmv : Nat) (rs : List Int) : (subBlocks s n v fv fmv rs).val.length ≤ 63 := by
  have := (s.voice n v).usize.isLt
  simp [subBlocks]; omega

include hs hv hA in
theorem frame_voiceOscillators (fv fmv : Nat) (rs : List Int) (s : State) :
    Frame mask N O A s (voiceOscillators n v fv fmv rs s).st :=
  ((frame_touchOscillators n v s).trans (frame_noteSat _ hs _)).trans
    (frame_storePhases n v hv hA _ (by simpa using length_subBlocks n v s fv fmv rs) _)

theorem len_voiceOscillators (fv fmv : Nat) (rs : List Int) (s : State) : (voiceOscillators n v fv fmv rs s).Len := by
  simp [Stereo.Len, voiceOscillators]

include hn hs in
theorem frame_voiceAmp (a al : Int) (s : State) : Frame mask N O A s (voiceAmp n v a al s) :=
  (frame_noteSat _ hs s).trans (frame_setVoice n v _ hn _)

include hn hs hc hv hA in
theorem frame_voiceSignal (gpitch : Int) (m : Sources) : Frame mask N O A m.st (voiceSignal n v gpitch m).st := by
  have hr := length_blockRatios n v m.st
  exact ((((frame_setErrIf _ .clamp hc m.st).trans (frame_noteSat _ hs _)).trans
    (frame_storeRatios n v hv hA _ hr.1 hr.2.1 hr.2.2 _)).trans (frame_voiceAmp n v hn hs _ _ _)).trans
      (frame_voiceOscillators n v hs hv hA _ _ _ _)

include hs in
theorem frame_voiceFadeIn (x : Stereo) : Frame mask N O A x.st (voiceFadeIn n v x).st := by
  unfold voiceFadeIn
  split
  · exact frame_noteSat _ hs _
  · exact .refl _

theorem len_voiceFadeIn (x : Stereo) (h : x.Len) : (voiceFadeIn n v x).Len := by
  unfold voiceFadeIn
  split
  · exact len_fadeIn x h
  · exact h

include hn hs hc hg in
theorem frame_voiceFilter (a b : Int) (x : Stereo) : Frame mask N O A x.st (voiceFilter n v a b x).st := by
  unfold voiceFilter
  dsimp only
  split
  · exact (frame_noteSat _ hs _).trans (frame_stereoFilter n hn hs hc hg _ _ _ { x with st := _ })
  · exact .refl _

theorem len_voiceFilter (a b : Int) (x : Stereo) (h : x.Len) : (voiceFilter n v a b x).Len := by
  unfold voiceFilter
  dsimp only
  split
  · exact len_filter _ _ _ _ _ h
  · exact h

include hn hs in
theorem frame_voiceFadeOut (x : Stereo) : Frame mask N O A x.st (voiceFadeOut n v x).st := by
  unfold voiceFadeOut
  dsimp only
  split
  · exact (frame_scale hs fadeOutGain x).trans (frame_modVoice n v (fun w => { w with finished := true }) hn _)
  · exact .refl _

theorem len_voiceAmpApply (x : Stereo) (h : x.Len) : (voiceAmpApply n v x).Len := len_scale _ _ h

theorem len_voiceFadeOut (x : Stereo) (h : x.Len) : (voiceFadeOut n v x).Len := by
  unfold voiceFadeOut
  split
  · exact len_scale _ _ h
  · exact h

include hs hv hA in
theorem frame_deposit (acc : Sums) (x : Stereo) (h : x.Len) : Frame mask N O A x.st (deposit n v acc x).st := by
  unfold deposit
  dsimp only
  split
  · exact (frame_noteSat _ hs _).trans (frame_vout n v _ hv (by simp [h.1, h.2]) hA _)
  · exact frame_vout n v _ hv (by simp) hA _

include hn hs hc hg hv hA in
theorem frame_liveVoice (gpitch : Int) (acc : Sums) : Frame mask N O A acc.st (liveVoice n v gpitch acc).st := by
  have l1 := len_voiceOscillators n v
  unfold liveVoice
  dsimp only
  refine Frame.trans ?_ (frame_modVoice n v _ hn _)
  refine Frame.trans ?_ (frame_deposit n v hs hv hA _ _ ?_)
  · exact (((((frame_runSources n hn hs _ _).trans (frame_voiceSignal n v hn hs hc hv hA _ _)).trans
      (frame_voiceFadeIn n v hs _)).trans (frame_voiceFilter n v hn hs hc hg _ _ _)).trans (frame_scale hs _ _)).trans
        (frame_voiceFadeOut n v hn hs _)
  · exact len_voiceFadeOut n v _ (len_scale _ _ (len_voiceFilter n v _ _ _ (len_voiceFadeIn n v _ (l1 _ _ _ _))))

include hn hs hc hg hv hA in
theorem frame_voiceBlock (gpitch : Int) (acc : Sums) : Frame mask N O A acc.st (voiceBlock n gpitch acc v).st := by
  unfold voiceBlock
  dsimp only
  split
  · exact .refl _
  · split
    · exact frame_vout n v _ hv (by simp) hA _
    · exact frame_liveVoice n v hn hs hc hg hv hA gpitch acc

end

/-! ## NOTE.OUT -/

section
variable (n : Nat) (hn : N n) (hs : mask.getLsbD 3 = true) (hc : mask.getLsbD 2 = true) (hg : mask.getLsbD 1 = true)
  (hA : ∀ x, noteBytes n x → A x)

include hn hs in
theorem frame_noteAmp (a b : Int) (s : State) : Frame mask N O A s (noteAmp n a b s) :=
  (frame_noteSat _ hs s).trans (frame_setNote n _ hn _)

include hn hs in
theorem frame_phaseA (s : State) : Frame mask N O A s (phaseA n s).st :=
  ((frame_runSources n hn hs 0 s).trans (frame_noteSat _ hs _)).trans (frame_noteAmp n hn hs _ _ _)

include hn hs hc hg hA in
theorem frame_phaseB (gpitch : Int) (s : State) : Frame mask N O A s (phaseB n gpitch s).st := by
  have : ∀ l : List Nat, (∀ v ∈ l, v < 8) → ∀ acc : Sums,
      Frame mask N O A acc.st (l.foldl (voiceBlock n gpitch) acc).st := by
    intro l
    induction l with
    | nil => intro _ acc; exact .refl _
    | cons v l ih =>
      intro hv acc
      exact (frame_voiceBlock n v hn hs hc hg (hv v (by simp)) hA gpitch acc).trans
        (ih (fun w hw => hv w (by simp [hw])) _)
  exact this _ (fun v hv => List.mem_range.1 hv) ⟨zeros 256, zeros 256, s⟩

include hn hs hc hg in
theorem frame_globalFilter (gff : Nat) (x : Stereo) : Frame mask N O A x.st (globalFilter n gff x).st := by
  unfold globalFilter
  split
  · exact frame_stereoFilter n hn hs hc hg _ _ _ x
  · exact .refl _

theorem len_globalFilter (gff : Nat) (x : Stereo) (h : x.Len) : (globalFilter n gff x).Len := by
  unfold globalFilter
  split
  · exact len_filter _ _ _ _ _ h
  · exact h

include hn hA hs in
theorem frame_finishNote (x : Stereo) (h : x.Len) : Frame mask N O A x.st (finishNote n x) :=
  (((frame_scale hs _ x).trans (frame_setOut n _ _ (by simp [Stereo.scale, h.1]) (by simp [Stereo.scale, h.2]) hA _)).trans
    (frame_nvoices _ _)).trans (frame_modNote n _ hn _)

include hn in
theorem frame_releaseVoice (s : State) (v : Nat) : Frame mask N O A s (releaseVoice n s v) := by
  unfold releaseVoice
  dsimp only
  split
  · exact (frame_nvoices _ s).trans (frame_setVoice n v _ hn _)
  · exact .refl _

include hn hA hs in
theorem frame_noteEnd (x : Stereo) (h : x.Len) : Frame mask N O A x.st (noteEnd n x) := by
  unfold noteEnd
  dsimp only
  split
  · exact (frame_finishNote n hn hs hA x h).trans (frame_setRes _ _ _)
  · exact ((frame_setOut n _ _ (by simp [h.1]) (by simp [h.2]) hA _).trans
      (Frame.foldl _ (frame_releaseVoice n hn) _ _)).trans (frame_setRes _ _ _)

theorem length_phaseB (gpitch : Int) (s : State) :
    (phaseB n gpitch s).l.length = 256 ∧ (phaseB n gpitch s).r.length = 256 := by
  have : ∀ l : List Nat, ∀ acc : Sums, acc.l.length = 256 → acc.r.length = 256 →
      (l.foldl (voiceBlock n gpitch) acc).l.length = 256 ∧ (l.foldl (voiceBlock n gpitch) acc).r.length = 256 := by
    intro l
    induction l with
    | nil => intro acc h1 h2; exact ⟨h1, h2⟩
    | cons v l ih =>
      intro acc h1 h2
      have l1 := len_voiceOscillators n v
      refine ih _ ?_ ?_ <;>
      · unfold voiceBlock liveVoice deposit
        dsimp only
        split
        · assumption
        · split
          · assumption
          · have hl := len_voiceFadeOut n v _ (len_voiceAmpApply n v _ (len_voiceFilter n v
              (runSources n (3 + 3 * v) acc.st).c (runSources n (3 + 3 * v) acc.st).cl _
              (len_voiceFadeIn n v (voiceSignal n v gpitch (runSources n (3 + 3 * v) acc.st)) (l1 _ _ _ _))))
            have e1 := hl.1
            have e2 := hl.2
            split
            · assumption
            · simp only [addWeighted, List.length_zipWith, e1, e2, h1, h2, Nat.min_self]
  exact this _ ⟨zeros 256, zeros 256, s⟩ (by simp) (by simp)

theorem len_noteChannels (gpitch : Int) (s : State) : (noteChannels (phaseB n gpitch s)).Len := by
  have := length_phaseB n gpitch s
  simp [Stereo.Len, noteChannels, noteSum, this.1, this.2]

theorem len_notePan (x : Stereo) (h : x.Len) : (notePan n x).Len := by simpa [Stereo.Len, notePan] using h

theorem len_noteLegatoApply (x : Stereo) (h : x.Len) : (noteLegatoApply n x).Len := by
  unfold noteLegatoApply
  dsimp only
  generalize Legato.gains 256 _ = gs
  exact len_scale _ _ h

include hn hs in
theorem frame_noteLegatoApply (x : Stereo) : Frame mask N O A x.st (noteLegatoApply n x).st := by
  unfold noteLegatoApply
  dsimp only
  generalize Legato.gains 256 _ = gs
  generalize Legato.after 256 _ = g
  exact (frame_scale hs (fun i => gs.getD i 0) x).trans (frame_modNote n (fun z => z.withLegato g) hn _)

include hn hs hc hg hA in
theorem frame_noteRender (s : State) : Frame mask N O A s (noteRender n s) := by
  unfold noteRender
  dsimp only
  refine Frame.trans ?_ (frame_modNote n _ hn _)
  refine Frame.trans ?_ (frame_noteEnd n hn hs hA _ ?_)
  · exact (((((frame_phaseA n hn hs s).trans (frame_phaseB n hn hs hc hg hA _ _)).trans
      (frame_noteSat _ hs (phaseB n (phaseA n s).gpitch (phaseA n s).st).st)).trans
        (frame_globalFilter n hn hs hc hg _ (noteChannels _))).trans (frame_scale hs _ _)).trans
          ((frame_noteSat _ hs (noteAmpApply n (globalFilter n _ (noteChannels _))).st).trans
            (frame_noteLegatoApply n hn hs (notePan n _)))
  · exact len_noteLegatoApply n _ (len_notePan n _ (len_scale _ _ (len_globalFilter n _ _ (len_noteChannels n _ _))))

include hn hs hc hg hA in
/-- NOTE.OUT changes nothing outside its note slot but flags, results, NVOICES and the numbering of undef reads. -/
theorem frame_noteOut (s : State) : Frame mask N O A s (noteOut n s) := by
  unfold noteOut
  split
  · exact frame_noteRender n hn hs hc hg hA s
  · exact (frame_setOut n _ _ (by simp) (by simp) hA s).trans (frame_setRes _ _ _)

end

end

end Sys2Proof.Machine
end

