-- ==== Sys2Proof/Tests/Slice0.lean ====
section
/-! SUPPORT. Tests: ill-formed commands, decoding of words written out from the encoding tables (spec/30_encoding.md
R131 to R135, R141), single steps from the worked vectors of spec/95_test_vectors.md (each test names its vector), and one
witness for the hypotheses of every statement that has any. -/

namespace Sys2Proof.Tests

open Sys2Proof.Machine

-- One theorem at a time: each waits for the kernel, and a hundred waiting at once need a hundred threads.
set_option Elab.async false

/-! ## Helpers -/

/-- The result is a next state with a property. -/
def next (r : Result) (p : State → Bool) : Bool :=
  match r with
  | .next t => p t
  | _ => false

/-- One step, from a state with one command placed where SEQ fetches it. -/
def run (w : Nat) (s : State) : Result := step (s.withFetchWord 128 w)

/-- A state whose only memory is a run of words from an address on. -/
def withWords (a : Nat) (ws : List Word) (s : State) : State := { s with mem := Mem.splice s.mem a (bytesOf ws) }

/-- A state after HOST wrote words: pairs of address and word, in order. -/
def hostWrites (l : List (Nat × Word)) (s : State) : State :=
  l.foldl (fun t p => hostStep (.write .w32 (BitVec.ofNat 32 p.1) p.2) t) s

/-- An active note `n`. -/
def activeNote (n : Nat) (f : Note → Note) : State :=
  State.reset.setNote n (f { Note.reset with
    nstat := ⟨true, false, false, false, false⟩, log2freq := 0x09000000, velocity := 0x01000000 })

/-- Note 0 with one envelope in slot 7. -/
def withEnv (e : Env) : State := State.reset.setEnv 0 7 e

/-- One oscillator in slot 0. -/
def withOsc (x : Osc) : State := State.reset.setOsc 0 x

/-! ## Ill-formed commands (R104, R105) -/

theorem test_osc_index : oscIndexOk 15 = true ∧ oscIndexOk 16 = false ∧ (Instr.oscPrepare 16).wellFormed = false := by decide
theorem test_note_index : noteIndexOk 15 = true ∧ noteIndexOk 16 = false ∧ (Instr.noteKill 20).wellFormed = false := by decide
theorem test_slot_index : slotIndexOk 26 = true ∧ slotIndexOk 27 = false ∧ (Instr.envOut 0 27).wellFormed = false := by decide
theorem test_filter_index :
    filterIndexOk 17 = true ∧ filterIndexOk 18 = false ∧ (Instr.fltSetfreq 0 18 0).wellFormed = false := by decide
theorem test_voice_index : ∀ v : BitVec 3, voiceIndexOk v = true := by decide
theorem test_buffer_id : bufferIdOk 0 = true ∧ bufferIdOk 1 = true ∧ bufferIdOk 2 = false ∧ bufferIdOk 15 = false ∧
    bufferIdOk 16 = true ∧ bufferIdOk 23 = true ∧ bufferIdOk 24 = false ∧ (Instr.fltOut 0 0 2).wellFormed = false := by decide

/-! ## Decoding, from words written out from R131, R132 and R134 -/

theorem test_decode_system : decode ⟨0x00000000, 0, 0, 0⟩ = .ok .nop ∧ decode ⟨0x00000001, 0, 0, 0⟩ = .ok .halt := by decide
theorem test_decode_osc : decode ⟨0x00000F10, 0, 0, 0⟩ = .ok (.oscPrepare 15) ∧
    decode ⟨0x0D020111, 0x01B80000, 0, 0⟩ = .ok (.oscGet 1 2 5 true false 0x01B80000) ∧
    decode ⟨0x12050311, 0x56220000, 0, 0⟩ = .ok (.oscGet 3 5 2 false true 0x56220000) ∧
    decode ⟨0x00000812, 0, 0, 0⟩ = .ok (.oscRegen 8) ∧ decode ⟨0x00000313, 0, 0, 0⟩ = .ok (.oscCancel 3) := by decide
theorem test_decode_env : decode ⟨0x001A0120, 0, 0, 0⟩ = .ok (.envReset 1 26) ∧
    decode ⟨0x001A0121, 0, 0, 0⟩ = .ok (.envOut 1 26) ∧ decode ⟨0x00060222, 0, 0, 0⟩ = .ok (.envOutdb 2 6) ∧
    decode ⟨0x001A0123, 0, 0, 0⟩ = .ok (.envRelease 1 26) ∧ decode ⟨0x00020C24, 0, 0, 0⟩ = .ok (.envFinish 12 2) := by decide
theorem test_decode_lfo : decode ⟨0x001A0128, 0, 0, 0⟩ = .ok (.lfoReset 1 26) ∧
    decode ⟨0x001A0129, 0, 0, 0⟩ = .ok (.lfoOut 1 26) := by decide
theorem test_decode_flt : decode ⟨0x00120030, 0x03E80000, 0, 0⟩ = .ok (.fltSetfreq 0 18 0x03E80000) ∧
    decode ⟨0x00020031, 0x03E80000, 0x00B50481, 0⟩ = .ok (.fltSetfq 0 2 0x03E80000 0x00B50481) ∧
    decode ⟨0x17110232, 0, 0, 0⟩ = .ok (.fltOut 2 17 23) ∧ decode ⟨0x00040933, 0, 0, 0⟩ = .ok (.fltCleanup 9 4) := by decide
theorem test_decode_note : decode ⟨0x00000140, 0, 0, 0⟩ = .ok (.noteInit 1) ∧ decode ⟨0x00000341, 0, 0, 0⟩ = .ok (.noteOut 3) ∧
    decode ⟨0x00000242, 0, 0, 0⟩ = .ok (.noteRelease 2) ∧ decode ⟨0x00000343, 0, 0, 0⟩ = .ok (.noteKill 3) ∧
    decode ⟨0x00000048, 0, 0, 0⟩ = .ok (.noteFin 0) := by decide
theorem test_decode_note_operands :
    decode ⟨0x00000044, 0x0A000000, 0x00800000, 0⟩ = .ok (.noteLegato 0 0x0A000000 0x00800000) ∧
    decode ⟨0x00000245, 0x00800000, 0, 0⟩ = .ok (.noteSetvel 2 0x00800000) ∧
    decode ⟨0x00000146, 0x0A000000, 0, 0⟩ = .ok (.noteSetpitch 1 0x0A000000) ∧
    decode ⟨0x00000047, 0xFF000000, 0, 0⟩ = .ok (.noteSetcut 0 0xFF000000) := by decide
theorem test_decode_mix : decode ⟨0x00000050, 0x00000005, 0, 0⟩ = .ok (.mixAll 0x0005) ∧
    decode ⟨0x00000051, 0, 0, 0⟩ = .ok .mixClear := by decide

/-- V-SYS-2, V-SYS-3, V-SYS-7, V-SYS-11, V-SYS-12: illegal words, refused by name. -/
theorem test_decode_illegal : decode ⟨0, 0, 0, 5⟩ = .error .mustBeZero ∧ decode ⟨2, 0, 0, 0⟩ = .error .badOpcode ∧
    decode ⟨0x00001443, 0, 0, 7⟩ = .error .mustBeZero ∧ decode ⟨0x20000011, 0x01B80000, 0, 0⟩ = .error .mustBeZero ∧
    decode ⟨0x00000050, 0x00010000, 0, 0⟩ = .error .mustBeZero ∧ decodeBytes [0, 0, 0] = .error .truncated := by decide

/-- Byte order (R93): W0 first, its lowest byte first. -/
theorem test_decode_bytes :
    decodeBytes [0x31, 0x00, 0x02, 0x00, 0x00, 0x00, 0xE8, 0x03, 0x81, 0x04, 0xB5, 0x00, 0, 0, 0, 0, 0xAA] =
      .ok (.fltSetfq 0 2 0x03E80000 0x00B50481, [0xAA]) := by decide

/-- The table's numbering: bit 0 is bit 0 of W0, W1 begins at bit 32. -/
theorem test_table_word : decodeTableWord 128 0x0000000001B800000D020111 = some (.oscGet 1 2 5 true false 0x01B80000) := by decide

/-! ## System and faults (section 2.3) -/

/-- V-SYS-1, first step. -/
theorem test_nop : next (run 0 State.reset) (fun t => t.cptr = 0x10 && t.status = ⟨true, false, false⟩ && t.irqPend = 0) =
    true := by decide +kernel
/-- V-SYS-1, second step: the pointer stays. -/
theorem test_halt : next (run 1 { State.reset with cptr := 0x10 }) (fun t => t.cptr = 0x10 && t.status.word = 0x2 &&
    t.irqPend = 0x01) = true := by decide +kernel
/-- V-SYS-2: an illegal NOP. -/
theorem test_illegal : next (run (5 * 2 ^ 96) State.reset) (fun t => t.faultCode = 1 && t.faultPtr = 0 && t.faultInfo = 0 &&
    t.status.word = 0x4 && t.cptr = 0 && t.irqPend = 0x02) = true := by decide +kernel
/-- V-SYS-9: ENV.OUT 0, 27. -/
theorem test_index_range : next (run 0x001B0021 State.reset) (fun t => t.faultCode = 2 && t.faultInfo = 0x001B0021 &&
    t.cptr = 0) = true := by decide +kernel
/-- V-SYS-14: NOTE.KILL 3 on an inactive note. -/
theorem test_note_inactive : next (run 0x00000343 State.reset) (fun t => t.faultCode = 3 && t.faultInfo = 0x00000343 &&
    t.notes = State.reset.notes) = true := by decide +kernel
/-- V-SYS-15, second command: NOTE.INIT of an active note. -/
theorem test_slot_busy : next (run 0x00000040 (activeNote 0 id)) (fun t => t.faultCode = 4 && t.status.word = 0x4) = true := by
  decide +kernel
/-- V-SYS-6, second step: past the end of command memory. -/
theorem test_cmd_ptr : next (step { State.reset with cptr := 0x1000, status := ⟨true, false, false⟩ })
    (fun t => t.faultCode = 5 && t.faultPtr = 0x1000 && t.faultInfo = 0 && t.cptr = 0x1000) = true := by decide +kernel
/-- V-SYS-4 and V-SYS-5: a bad start pointer; DONE is 0 afterwards (R45). -/
theorem test_bad_start : (cmdStart 0x8 State.reset).faultPtr = 0x008 ∧ (cmdStart 0x8 State.reset).status.word = 0x4 ∧
    (cmdStart 0x8 { State.reset with status := ⟨false, true, false⟩ }).status.word = 0x4 ∧
    (cmdStart 0x1000 State.reset).faultPtr = 0x1000 ∧ (cmdStart 0x1000 State.reset).faultInfo = 0x1000 := by decide +kernel
/-- V-SYS-16 and V-SYS-17: a start while FAULT = 1, then the acknowledge. -/
theorem test_start_while_fault :
    let s := { State.reset with status := ⟨false, false, true⟩, faultCode := 1, irqPend := 0x02 }
    let t := hostWrites [(0x40, 0x20)] s
    t.err = 0x20 ∧ t.irqPend = 0x06 ∧ t.status = s.status ∧ (hostWrites [(0x5C, 0)] t).status.word = 0 ∧
      (hostWrites [(0x5C, 0)] t).faultCode = 1 := by decide +kernel

/-- R9: L is 2 to the power LOG2L, and CAPS0 shows LOG2L in its low byte (R41). -/
theorem test_parameters : Config.L = 2 ^ Config.LOG2L ∧ resetWord 0x008 % 256 = BitVec.ofNat 32 Config.LOG2L := by decide

/-- V-PRIM-6 and V-PRIM-7; and R15's formula with its flag where b - a leaves the 32-bit range. -/
theorem test_lerp : lerp 0 16777216 0x00800000 = ⟨0x00800000, false⟩ ∧ lerp 16777216 (-16777216) 0x00555555 = ⟨0x00555556, false⟩ ∧
    lerp (-2147483648) 2147483647 16777216 = ⟨-1, true⟩ := by decide

/-! ## The HOST bus -/

/-- V-BUS-2, V-BUS-3 and V-BUS-7. -/
theorem test_bus_global :
    (hostWrites [(0, 7)] State.reset).err = 0x20 ∧ (hostStep (.read .w32 0x00C) State.reset).rdata = 0x05288032 ∧
    (hostWrites [(0x4C, 4)] { State.reset with err := 0x24, irqPend := 4 }).err = 0x20 ∧
    (hostWrites [(0x4C, 4)] { State.reset with err := 0x24, irqPend := 4 }).irqPend = 4 := by decide +kernel
/-- V-BUS-5 and V-BUS-6: accesses while BUSY = 1. -/
theorem test_bus_busy :
    let s := { State.reset with status := ⟨true, false, false⟩, res0 := 3 }
    (hostStep (.read .w32 0x68) s).err = 0x10 ∧ (hostStep (.read .w32 0x68) s).res0 = 3 ∧
    (hostStep (.read .w32 0x48) s).rdata = 1 ∧ (hostWrites [(0x60, 0x1F)] s).irqEn = 0x1F ∧
    (hostWrites [(0x60, 0x1F)] s).err = 0 := by decide +kernel
/-- V-BUS-8: two writes of a harmonic code. -/
theorem test_bus_version :
    let t := hostWrites [(0x00012014, 64), (0x00012014, 64)] State.reset
    (t.osc 2).cfgver = 2 ∧ (t.osc 2).ostat = 0x01 ∧ t.cell 0x00012014 = 64 := by decide +kernel

/-! ## Oscillators (section 2.4) -/

/-- V-OSC-6: a composite bin, and the normalised spectrum. -/
theorem test_prepare : (sineBin 0 [127, 96] [64, 96] 2).val = (0x00800000, 0) ∧
    (normaliseSum [(0, 0), (0, 0x00FC0000), (0x00800000, 0)]).val.take 3 = [(0, 0), (0, 0x00A9C4B7), (0x00563B48, 0)] := by
  decide +kernel
/-- V-OSC-13: OSC.PREPARE while a job runs. -/
theorem test_osc_prepare_busy : next (exec (.oscPrepare 0) (startJob 0 State.reset)) (fun t => t.res0 = 2 && t.oscs =
    (startJob 0 State.reset).oscs) = true := by decide +kernel
/-- V-OSC-8: a copy and the start offset. -/
theorem test_osc_get : next (exec (.oscGet 0 0 0 false false 0x01B80000)
    (withWords 0x200000 (List.replicate 1024 7) ((withOsc { Osc.reset with
      cfg := { OscCfg.reset with normmode := 1, randmode := 1, randdepth := 127 }, dirty := false, valid := true }).setNote 0
        { Note.reset with rng := 1 }))) (fun t => t.res0 = 521 && t.res1 = 511 && (t.note 0).rng = 0x41C67EA6 && t.err = 0) =
    true := by decide +kernel
/-- V-OSC-13: OSC.GET with a job running and nothing published. -/
theorem test_osc_get_none : next (exec (.oscGet 0 0 0 false false 0x01B80000) (startJob 0 State.reset))
    (fun t => t.err = 0x40 && t.res1 = 0 && t.cell 0x1013000 = 0) = true := by decide +kernel
/-- V-OSC-13: OSC.REGEN, and again; its snapshot of tables that nothing has written marks the run (R72, R476). -/
theorem test_osc_regen : next (exec (.oscRegen 0) State.reset) (fun t => t.res0 = 1 && (t.osc 0).ostat = 0x09 &&
    t.undefRead && t.regenRun = 1 && next (exec (.oscRegen 0) t) (fun u => u.res0 = 0 && u.err = 0x80)) = true := by decide +kernel
/-- V-OSC-15: OSC.CANCEL, then the worker's step. -/
theorem test_osc_cancel :
    let s := startJob 3 (State.reset.setOsc 3 { Osc.reset with dirty := false, pubsel := true, valid := true })
    next (exec (.oscCancel 3) s) (fun t => t.res0 = 1 && (t.osc 3).ostat = 0x1E &&
      ((regenStep 3 0 t).osc 3).ostat = 0x06 && (regenStep 3 0 t).regenCanc = 8 && (regenStep 3 0 t).irqPend = 0x10) = true := by
  decide +kernel

/-! ## Envelopes (section 2.5) -/

/-- The instance of V-ENV-1 after its reset, with its tables. -/
def env1 (f : Env → Env) : State :=
  withWords (valAddr 0 7 0) [0, 0x01000000, 0] (withWords (dtAddr 0 7 0) [0, 0x00400000, 0x00800000]
    (withEnv (f { Env.reset with npts := 3, sust := 1, enpts := 3, esust := 1, ecur := 1 })))

/-- V-ENV-7 (b). -/
theorem test_env_reset : next (exec (.envReset 0 7) (withWords (valAddr 0 7 0) [0x00123456]
    (withEnv { Env.reset with npts := 41, sust := 5 }))) (fun t => (t.env 0 7).enpts = 40 && (t.env 0 7).esust = 5 &&
    t.err = 0x04 && (t.env 0 7).ev0 = 0x00123456) = true := by decide +kernel
/-- V-ENV-7 (c): a sustain index out of range. -/
theorem test_env_reset_sustain : next (exec (.envReset 0 7) (withWords (valAddr 0 7 0) [0]
    (withEnv { Env.reset with npts := 3, sust := 3 }))) (fun t => (t.env 0 7).esust = 0xFF && t.err = 0x02) = true := by
  decide +kernel
/-- V-ENV-1, fourth call. -/
theorem test_env_out : next (exec (.envOut 0 7) (env1 fun e => { e with et := 0x00C00000 })) (fun t => t.res0 = 0x00C00000 &&
    t.res1 = 0 && (t.env 0 7).ecur = 2 && (t.env 0 7).et = 0) = true := by decide +kernel
/-- V-ENV-2, second call after the release. -/
theorem test_env_out_finish : next (exec (.envOut 0 7) (env1 fun e => { e with ecur := 2, et := 0x00800000, released := true }))
    (fun t => t.res0 = 0x00800000 && t.res1 = 1 && (t.env 0 7).finished) = true := by decide +kernel
/-- V-ENV-4, first call. -/
theorem test_env_outdb : next (exec (.envOutdb 0 7) (withWords (valAddr 0 7 0) [0x9C000000, 0, 0x9C000000]
    (withWords (dtAddr 0 7 0) [0, 0x00800000, 0x00400000] (withEnv { Env.reset with
      npts := 3, sust := 1, eflags := 2, enpts := 3, esust := 1, ecur := 1, ev0 := 0x9C000000, eout := 0x9C000000 }))))
    (fun t => t.res0 = 0 && t.res1 = 0 && (t.env 0 7).eout = 0x9C000000 && (t.env 0 7).et = 0x00800000) = true := by
  decide +kernel
/-- V-ENV-3: a release with FRPEND set. -/
theorem test_env_release : next (exec (.envRelease 0 7) (withEnv { Env.reset with
    enpts := 4, esust := 2, ecur := 1, et := 0x00800000, eout := 0x00400000, frpend := true })) (fun t =>
    (t.env 0 7).estat = 5 && (t.env 0 7).erelval = 0x00400000 && (t.env 0 7).et = 0) = true := by decide +kernel
/-- V-ENV-10: ENV.FINISH. -/
theorem test_env_finish : next (exec (.envFinish 0 7) (env1 fun e => { e with ecur := 2, eout := 0x01000000 })) (fun t =>
    (t.env 0 7).estat = 2 && (t.env 0 7).ecur = 2 && (t.env 0 7).eout = 0x01000000) = true := by decide +kernel

/-! ## LFOs (section 2.6) -/

/-- V-LFO-3: the reset. -/
theorem test_lfo_reset : next (exec (.lfoReset 0 7) (State.reset.setLfo 0 7 { Lfo.reset with
    lphase0 := 0xF00000, ldelay := 2, lshape := 3 })) (fun t => (t.lfo 0 7).lphase = 0xF00000 && (t.lfo 0 7).ldcnt = 2 &&
    t.err = 0) = true := by decide +kernel
/-- V-LFO-3, third call: the phase wraps. -/
theorem test_lfo_out : next (exec (.lfoOut 0 7) (State.reset.setLfo 0 7 { Lfo.reset with
    lphase := 0xF00000, linc := 0x200000, ldepth := 0x00800000, lshape := 3 })) (fun t => t.res0 = 0x00700000 &&
    (t.lfo 0 7).lphase = 0x100000) = true := by decide +kernel
/-- V-LFO-2: a triangle. -/
theorem test_lfo_triangle : lfoShape 1 0x200000 = 0x00800000 ∧ lfoShape 1 0x600000 = 0x00800000 ∧
    lfoShape 1 0xC00000 = -16777216 ∧ lfoShape 4 0xFFFFFF = -16777214 := by decide

/-! ## Filters (section 2.7) -/

/-- A filter in slot 2 of note 0 and a buffer in OUTL that starts with one sample. -/
def withFlt (x : Flt) (u : Word) : State :=
  withWords (outlAddr 0) (u :: List.replicate 255 0) (State.reset.setFlt 0 2 x)

/-- V-FLT-5: the setter clamps. -/
theorem test_flt_setfq : next (exec (.fltSetfq 0 2 0x75300000 0xFF000000) (withFlt { Flt.reset with fstages := 1 } 0)) (fun t =>
    (t.flt 0 2).ffreq = 0x56220000 && (t.flt 0 2).fq = 0x00028F5C && (t.flt 0 2).fnst = 1 && t.err = 0x04) = true := by
  decide +kernel
/-- V-FLT-5: FLT.SETFREQ on an instance at reset. -/
theorem test_flt_setfreq : next (exec (.fltSetfreq 0 2 0) State.reset) (fun t => (t.flt 0 2).ffreq = 0x0000199A &&
    (t.flt 0 2).fq = 0x00028F5C && (t.flt 0 2).fnst = 1 && t.err = 0x06) = true := by decide +kernel
/-- V-FLT-3: saturation of a biquad. -/
theorem test_flt_out : next (exec (.fltOut 0 2 0) (withFlt { Flt.reset with fnst := 1, fc := #v[0x7F000000, 0, 0, 0, 0] }
    0x02000000)) (fun t => t.cell (outlAddr 0) = 0x7FFFFFFF && t.cell (outlAddr 0 + 4) = 0 && t.err = 0x08) = true := by
  decide +kernel
/-- V-FLT-4: the state-variable stage at samples 1 and 2. -/
theorem test_svf : (filterSamples { Flt.reset with fkind := 1, ftype := 0x42, fc := #v[0x00800000, 0x01000000, 0x01000000, 0, 0] }
    [⟨0, 0, 0, 0⟩] [16777216, 0, 0]).val =
      ([0x00800000, 0x00200000, -0x00180000], [⟨0x00500000, 0xFFE80000, 0xFF900000, 0xFFE00000⟩]) := by decide +kernel
/-- V-FLT-6: seven stages, cleanup. -/
theorem test_flt_cleanup : next (exec (.fltCleanup 0 2) (withFlt { Flt.reset with
    fstages := 7, fst := Vector.replicate 5 ⟨1, 2, 3, 4⟩ } 0)) (fun t => (t.flt 0 2).fnst = 5 && t.err = 0x02 &&
    (t.flt 0 2).fst = Vector.replicate 5 ⟨0, 0, 0, 0⟩) = true := by decide +kernel

/-! ## Notes (section 2.8) -/

/-- V-NOTE-2: construction without a voice. -/
theorem test_note_init : next (exec (.noteInit 0) State.reset) (fun t => t.res0 = 0 && t.res1 = 0 &&
    (t.note 0).nstat.word = 0x09 && t.nvoices = 0) = true := by decide +kernel
/-- V-NOTE-3: VOICE_CAP = 0 drops both voices. -/
theorem test_note_init_cap : next (exec (.noteInit 0) ((({ State.reset with voiceCap := 0 } : State).setVoice 0 0
    { Voice.reset with vctrl := 1 }).setVoice 0 1 { Voice.reset with vctrl := 1 }))
    (fun t => t.res0 = 0 && t.res1 = 2 && t.nvoices = 0 && t.err.getLsbD 0) = true := by decide +kernel
/-- V-NOTE-14: an inactive slot is silent. -/
theorem test_note_out_inactive : next (exec (.noteOut 5) State.reset) (fun t => t.cell (outlAddr 5) = 0 &&
    t.res0 = 0 && t.res1 = 0) = true := by decide +kernel
/-- V-NOTE-2, first NOTE.OUT. -/
theorem test_note_out : next (exec (.noteOut 0) (activeNote 0 id)) (fun t => (t.note 0).nstat.word = 0x02 && t.res0 = 0 &&
    t.res1 = 0 && t.cell (outlAddr 0) = 0) = true := by decide +kernel
/-- V-NOTE-5, the bounce at +1; and in record 1 the bounce of -2^31, whose step saturates (R14, decision D2). -/
theorem test_unison_vibrato :
    let r := blockRatios (withWords (uniAddr 0 0 0) [0x01010000, 0x00800000, 0x00800000]
      (withWords (uniAddr 0 0 1) [0x01010000, 0, 0x80000000]
        (State.reset.setVoice 0 0 { Voice.reset with usize := 2, vibamp := 0x00010000 }))) 0 0
    r.val.pos = [16777216, -16777216] ∧ r.val.step = [-8388608, 2147483647] ∧ r.val.ratio.getD 0 0 = 0x01020000 ∧
      r.sat = true := by decide +kernel
/-- V-NOTE-15: NOTE.RELEASE. -/
theorem test_note_release : next (exec (.noteRelease 0) ((activeNote 0 id).setEnv 0 3 { Env.reset with
    enpts := 3, esust := 1, ecur := 2, eout := 0x01000000 })) (fun t => (t.note 0).nstat.word = 0x11 && (t.env 0 3).estat = 1 &&
    (t.env 0 3).erelval = 0x01000000 && (t.env 0 6).estat = 0) = true := by decide +kernel
/-- V-NOTE-15: NOTE.KILL. -/
theorem test_note_kill : next (exec (.noteKill 0) ((activeNote 0 id).setEnv 0 3 { Env.reset with enpts := 3 })) (fun t =>
    (t.note 0).nstat.word = 0x05 && (t.env 0 3).estat = 2 && (t.env 0 6).estat = 0) = true := by decide +kernel
/-- V-NOTE-13, first row. -/
theorem test_note_legato : next (exec (.noteLegato 0 0x0A000000 0x00800000) (activeNote 0 id)) (fun t =>
    (t.note 0).legstat = 2 && (t.note 0).legcount = 220 && (t.note 0).log2freq = 0x09000000 &&
    (t.note 0).legpitch = 0x0A000000) = true := by decide +kernel
/-- V-NOTE-13, second row, with the clamped velocity. -/
theorem test_note_legato_muted : next (exec (.noteLegato 0 0x0A000000 0x01800000) (activeNote 0 fun x => { x with
    silent := true })) (fun t => (t.note 0).legstat = 1 && (t.note 0).log2freq = 0x0A000000 &&
    (t.note 0).velocity = 0x01000000 && t.err = 0x04) = true := by decide +kernel
/-- V-NOTE-14: NOTE.SETVEL 1 with −0.25. -/
theorem test_note_setvel : next (exec (.noteSetvel 1 0xFFC00000) State.reset) (fun t => (t.note 1).velocity = 0 &&
    t.err = 0x04) = true := by decide +kernel
/-- V-NOTE-14: NOTE.SETPITCH 0. -/
theorem test_note_setpitch : next (exec (.noteSetpitch 0 0x09000000) State.reset) (fun t => (t.note 0).log2freq = 0x09000000) =
    true := by decide +kernel
/-- V-NOTE-14: NOTE.SETCUT 0. -/
theorem test_note_setcut : next (exec (.noteSetcut 0 0xFF000000) State.reset) (fun t => (t.note 0).cutoff = 0xFF000000) =
    true := by decide +kernel
/-- V-NOTE-14: NOTE.FIN 5, and of an active note. -/
theorem test_note_fin : next (exec (.noteFin 5) State.reset) (fun t => t.res0 = 1 && t.res1 = 0) = true ∧
    next (exec (.noteFin 0) (activeNote 0 id)) (fun t => t.res0 = 0 && t.res1 = 1) = true := by decide +kernel
/-- V-NOTE-12: legato gains. -/
theorem test_legato_gains : (Legato.gain ⟨.fadeOut, false, 219, false⟩, Legato.gain ⟨.fadeOut, false, 110, false⟩,
    Legato.gain ⟨.fadeIn, false, 220, false⟩, Legato.gain ⟨.catchUp, true, 50, false⟩) = (0x00FED61B, 0x00800000, 0, 0) := by
  decide
/-- V-NOTE-6: phase increments. -/
theorem test_increment : increment 0x02000000 0x01000000 = 199457891 ∧ increment 0x02000000 0x01010000 = 200237024 ∧
    increment 0x04000000 0x01000000 = 398915783 ∧ increment 0x02000000 (-5) = 0 := by decide

/-! ## Mix (section 2.9) -/

/-- V-MIX-1: saturation at the end only. -/
theorem test_mix_sums : (mixBuffers [[0x7FFFFFFF], [1]]).val.head? = some 0x7FFFFFFF ∧ (mixBuffers [[0x7FFFFFFF], [1]]).sat = true ∧
    (mixBuffers [[0x7FFFFFFF], [-0x80000000]]).val.head? = some (-1) ∧
    (mixBuffers [[0x7FFFFFFF], [-0x80000000]]).sat = false := by decide +kernel
/-- V-MIX-2: MIX.ALL of no note. -/
theorem test_mix_all : next (exec (.mixAll 0) State.reset) (fun t => t.cell mixlAddr = 0 &&
    t.err = 0 && !t.undefRead) = true := by decide +kernel
/-- V-MIX-2: MIX.CLEAR. -/
theorem test_mix_clear : next (exec .mixClear State.reset) (fun t => t.cell mixlAddr = 0 &&
    t.res0 = 0 && t.err = 0) = true := by decide +kernel

/-! ## Witnesses: concrete inputs that meet the hypotheses of the statements, clause by clause -/

/-- A checked next state. -/
theorem next_eq {r : Result} {u : State} (h : next r (fun t => decide (t = u)) = true) : r = .next u := by
  cases r with
  | next t => rw [of_decide_eq_true h]
  | _ => cases h

/-- A running state with one NOP at the pointer. -/
def nopState : State := { withWords 0x1000 [0, 0, 0, 0] State.reset with status := ⟨true, false, false⟩ }
/-- What the NOP leaves. -/
def nopDone : State := { nopState with cptr := 16 }

theorem nopState_step : step nopState = .next nopDone := next_eq (by decide +kernel)

theorem witness_EncodeDecode : decode ⟨0x00000341, 0, 0, 0⟩ = .ok (.noteOut 3) := by decide

theorem witness_IllegalCommands : ¬ Legal ⟨2, 0, 0, 0⟩ ∧ ¬ Legal ⟨0, 0, 0, 5⟩ ∧ ¬ Legal ⟨0x52, 0, 0, 0⟩ ∧
    (Instr.noteKill 16).wellFormed = false ∧ (Instr.envOut 0 27).wellFormed = false ∧
    (Instr.fltOut 0 0 24).wellFormed = false := by
  refine ⟨?_, ?_, ?_, by decide, by decide, by decide⟩ <;> rintro ⟨m, hm, -, -, -, h3⟩ <;> simp [mustBeZero] at hm
  subst hm
  exact absurd h3 (by decide)

theorem witness_StepRunsCommand :
    (SeqNext nopState [] ∧ nopState.cptr.toNat < 0x1000 ∧ nopState.cptr.toNat % 16 = 0 ∧
      nopState.mem.word? 0x1000 = some 0 ∧ nopState.mem.word? 0x1004 = some 0 ∧ nopState.mem.word? 0x1008 = some 0 ∧
      nopState.mem.word? 0x100C = some 0 ∧ decode ⟨0, 0, 0, 0⟩ = .ok .nop) ∧
    (let s := { withWords 0x1FF0 [2, 0, 0, 0] State.reset with
        cptr := 0xFF0, status := ⟨true, false, false⟩, turns := [.seq, .seq] };
      SeqNext s [.seq] ∧ s.cptr.toNat < 0x1000 ∧ s.cptr.toNat % 16 = 0 ∧ s.mem.word? 0x1FF0 = some 2 ∧
      s.mem.word? 0x1FF4 = some 0 ∧ s.mem.word? 0x1FF8 = some 0 ∧ s.mem.word? 0x1FFC = some 0 ∧
      decode ⟨2, 0, 0, 0⟩ = .error .badOpcode) :=
  ⟨⟨⟨rfl, .inr ⟨rfl, rfl⟩⟩, by decide⟩, ⟨rfl, .inl rfl⟩, by decide⟩

theorem witness_RunsOffTheEnd :
    let s := { State.reset with cptr := 0x1000, status := ⟨true, false, false⟩ }
    SeqNext s [] ∧ s.cptr = 0x1000 := ⟨⟨rfl, .inr ⟨rfl, rfl⟩⟩, rfl⟩

theorem witness_CommandFrames : (Instr.noteSetcut 15 7) ≠ .halt ∧ faultOf (.noteSetcut 15 7) State.reset = none ∧
    ∃ t, exec (.noteSetcut 15 7) State.reset = .next t := ⟨by decide, by decide, _, rfl⟩

theorem witness_ConfigurationKept : ∃ t, exec (.noteInit 15) State.reset = .next t := ⟨_, rfl⟩

theorem witness_FaultEntryAndReturn :
    ({ State.reset with status := ⟨false, false, true⟩, turns := [.host (.write .w32 0x5C 0)] } : State).turns =
      .host (.write .w32 0x5C 0) :: [] := rfl

theorem witness_ListStart :
    let s := fun (b f : Bool) (w : Word) =>
      { State.reset with status := ⟨b, false, f⟩, turns := [.host (.write .w32 0x40 w)] }
    ((s true false 0).turns = [.host (.write .w32 0x40 0)] ∧ (s true false 0).status.busy = true) ∧
    ((s false true 0).status.busy = false ∧ (s false true 0).status.fault = true) ∧
    ((s false false 0x1000).status.fault = false ∧ 0x1000 ≤ (0x1000 : Word).toNat ∧ (0xFF8 : Word).toNat % 16 ≠ 0) ∧
    ((s false false 0xFF0).status.fault = false ∧ (0xFF0 : Word).toNat % 16 = 0 ∧ (0xFF0 : Word).toNat < 0x1000) := by
  decide

theorem witness_NopRule : ((⟨0x100, 0, 0, 0⟩ : Words).w0.extractLsb' 0 8 = 0x00#8 ∧ (⟨0x100, 0, 0, 0⟩ : Words) ≠ ⟨0, 0, 0, 0⟩) ∧
    ∃ s : State, s.turns = [] ∧ s.status.busy = true ∧ s.cptr = 0 ∧ ∀ w, w < 1024 → s.mem.word? (0x1000 + 4 * w) = some 0 := by
  refine ⟨by decide, { withWords 0x1000 (List.replicate 1024 0) State.reset with status := ⟨true, false, false⟩ },
    rfl, rfl, rfl, fun w hw => ?_⟩
  have h : w < (List.replicate 1024 (0 : Word)).length := by rw [List.length_replicate]; exact hw
  exact (word?_splice_bytesOf [] 0x1000 _ w h).trans (by rw [List.getElem?_replicate, if_pos hw])

theorem witness_HaltRule : (⟨0x101, 0, 0, 0⟩ : Words).w0.extractLsb' 0 8 = 0x01#8 ∧
    (⟨0x101, 0, 0, 0⟩ : Words) ≠ ⟨0x00000001, 0, 0, 0⟩ := by decide

theorem witness_MemoryStaysCanonical : nopState.mem.wf = true ∧ step nopState = .next nopDone :=
  ⟨by decide, nopState_step⟩

theorem witness_SequencerKept : SequencerInv nopState ∧ step nopState = .next nopDone :=
  ⟨⟨by decide, by decide, by decide, by decide⟩, nopState_step⟩

theorem nopState_note (n : Nat) (h : n < 16) : nopState.note n = Note.reset := by
  simp [nopState, withWords, State.note, State.reset, h]

theorem witness_BudgetKept : BudgetInv nopState ∧ step nopState = .next nopDone :=
  ⟨⟨by decide +kernel, fun n h _ => by rw [nopState_note n h]; decide⟩, nopState_step⟩

theorem witness_LegatoKept : LegatoInv nopState ∧ step nopState = .next nopDone :=
  ⟨fun n h => by rw [nopState_note n h]; refine ⟨?_, ?_, ?_, ?_⟩ <;> decide, nopState_step⟩

/-- The NOP's state with a job running in slot 15 whose snapshot is the present configuration. -/
def jobState : State := nopState.setOsc 15 { Osc.reset with job := some ⟨.reset, [], 0, false, false, []⟩ }

theorem jobState_osc (o : Nat) (h : o < 16) :
    jobState.osc o = if o = 15 then { Osc.reset with job := some ⟨.reset, [], 0, false, false, []⟩ } else Osc.reset := by
  rcases Nat.lt_or_ge o 15 with k | k
  · have : 15 ≠ o := by omega
    simp [jobState, nopState, withWords, State.setOsc, State.osc, State.reset, h, this, this.symm]
  · obtain rfl : o = 15 := by omega
    rfl

theorem jobState_banks : BanksInv jobState := by
  refine ⟨fun o h hv => ?_, fun o h hd => ?_, fun o j h hj => ?_⟩ <;> rw [jobState_osc o h] at * <;> split at *
  · cases hv
  · cases hv
  · cases hd
  · cases hd
  · rename_i ho
    subst ho
    obtain rfl := Option.some.inj hj
    refine ⟨fun _ => ⟨by rw [jobState_osc 15 h]; rfl, fun a ha => ?_⟩, nofun, nofun⟩
    have ha' : ¬ (0x1000 ≤ a ∧ a < 0x1000 + 16) := fun hb => absurd ha.1 (by simp [hmagAddr, oscBase]; omega)
    exact (byte?_splice [] 0x1000 (bytesOf [0, 0, 0, 0]) a |>.trans (if_neg ha')).symm
  · cases hj

theorem witness_FreshKept :
    (let s := { nopState with oscs := Vector.replicate 16 { Osc.reset with dirty := false, valid := true } };
      FreshInv s ∧ step s = .next { s with cptr := 16 }) ∧
    BanksInv jobState ∧ step jobState = .next { jobState with cptr := 16 } ∧
    ∀ o j, o < 16 → (({ jobState with cptr := 16 } : State).osc o).job = some j →
      (({ jobState with cptr := 16 } : State).osc o).cfgver ≠ (jobState.osc o).cfgver →
        (({ jobState with cptr := 16 } : State).osc o).cfgver ≠ j.snapVer := by
  refine ⟨⟨fun o h _ => ?_, next_eq (by decide +kernel)⟩, jobState_banks, next_eq (by decide +kernel),
    fun o j _ _ h => absurd rfl h⟩
  simp [State.osc, h, Osc.reset]

theorem witness_EnvelopesKept : EnvelopeInv nopState ∧ step nopState = .next nopDone := by
  refine ⟨fun n k hn hk => .inl ?_, nopState_step⟩
  simp [State.env, nopState_note n hn, Note.env, Note.reset, hk, Env.reset]

theorem witness_VoicesKept :
    let s := nopState.setVoice 15 7 { Voice.reset with created := true, usize := 50, topo := 4 }
    (s.voice 15 7).created = true ∧ (s.voice 15 7).usize = 50 ∧ (s.voice 15 7).topo = 4 ∧
      step s = .next { s with cptr := 16 } :=
  ⟨by decide +kernel, by decide +kernel, by decide +kernel, next_eq (by decide +kernel)⟩

theorem witness_PublishedBankKept : 15 < 16 ∧ nopState.turns = [] ∧ step nopState = .next nopDone ∧
    bankBytes 15 (nopState.osc 15).pubsel 0x0021E000 :=
  ⟨by decide, rfl, nopState_step, .inr ⟨by decide, by decide⟩⟩

theorem witness_ErrInterrupt :
    let s := { State.reset with turns := [.host (.write .w32 0x0 7)] }
    (∃ t, step s = .next t ∧ s.err.getLsbD 5 = false ∧ t.err.getLsbD 5 = true) ∧
    ({ s with turns := [.host (.write .w32 0x4C 0xFF)] } : State).turns = [.host (.write .w32 0x4C 0xFF)] ∧
    (∃ t, step { s with turns := [.host (.write .w32 0x60 0x10)] } = .next t ∧ t.irqEn ≠ s.irqEn) :=
  ⟨⟨_, rfl, by decide +kernel⟩, rfl, _, rfl, by decide +kernel⟩

theorem witness_ResetMap : (0x1000 % 4 = 0 ∧ (locate 0x1000).isSome = true ∧ undefAfterReset 0x1000 = true) ∧
    ((locate 0x1042C).isSome = true ∧ undefAfterReset 0x1042C = false ∧ resetWord 0x1042C = 0xE4) ∧
    ((locate 0x020007FC).isSome = true ∧ undefAfterReset 0x020007FC = true) ∧
    ({ State.reset with turns := [.reset] } : State).turns = .reset :: [] := by decide +kernel

/-- The largest indices: of EnvResetResult, EnvOutResult, EnvOutdbResult, EnvReleaseFinish and LfoResult; of
FltConfigResult; of OscPrepareResult, OscRegenCancel and NoteControl. -/
theorem witness_indices : ((15 : Byte).toNat < 16 ∧ (26 : Byte).toNat < 27) ∧ ((15 : Byte).toNat < 16 ∧ (17 : Byte).toNat < 18) ∧
    (15 : Byte).toNat < 16 := by decide

theorem witness_FinishedConstant :
    let s := withWords (valAddr 0 7 39) [5] (withEnv { Env.reset with enpts := 40, ecur := 40, finished := true })
    (s.env 0 7).enpts ≠ 0 ∧ (s.env 0 7).finished = true ∧ s.mem.word? (valAddr 0 7 39) = some 5 := by decide +kernel

/-- The ends of the range, and values whose difference just fits 32 bits. -/
theorem witness_LerpBetween : (-2147483648 : Int) ≤ -2147483648 ∧ (2147483647 : Int) ≤ 2147483647 ∧ (0 : Int) ≤ 16777216 ∧
    (2147483646 : Int) - (-1) ≤ 2147483647 := by decide

theorem witness_FltOutResult : (15 : Byte).toNat < 16 ∧ (17 : Byte).toNat < 18 ∧ (0 : Byte).toNat = 0 ∧ (1 : Byte).toNat = 1 ∧
    16 ≤ (16 : Byte).toNat ∧ (23 : Byte).toNat ≤ 23 := by decide

theorem witness_StageRecurrences :
    (Flt.reset.fkind = 0 ∧ ∀ u ∈ [2147483647, (-2147483648 : Int)], -2147483648 ≤ u ∧ u ≤ 2147483647) ∧
    ({ Flt.reset with fkind := 1 } : Flt).fkind = 1 ∧
    ((∀ g ∈ [(⟨0, 0, 0, 0⟩ : FltStage)], g = ⟨0, 0, 0, 0⟩) ∧ ∀ u ∈ [(0 : Int)], u = 0) := by decide

theorem witness_PureHarmonic :
    (∀ i, i ≠ 1 - 1 → ([65] : List Nat).getD i 64 = 64) ∧ ([65] : List Nat).getD 0 64 ≠ 64 ∧
    (∀ i, i ≠ 128 - 1 → (List.replicate 127 64 ++ [0]).getD i 64 = 64) ∧ (List.replicate 127 64 ++ [0]).getD 127 64 ≠ 64 ∧
    OscCfg.reset.basefunc = 0 ∧ OscCfg.reset.wstype = 0 ∧ OscCfg.reset.sftype = 0 ∧ OscCfg.reset.satype = 0 ∧
    OscCfg.reset.hshift = 0 ∧ OscCfg.reset.adapt = 0 := by
  refine ⟨fun i h => ?_, by decide, fun i h => ?_, by decide, rfl, rfl, rfl, rfl, rfl, rfl⟩
  · cases i with
    | zero => exact absurd rfl h
    | succ i => rfl
  · rcases Nat.lt_or_ge i 127 with k | k
    · rw [List.getD_eq_getElem?_getD, List.getElem?_append_left (by rw [List.length_replicate]; exact k),
        List.getElem?_replicate, if_pos k]
      rfl
    · have : 127 < i := by omega
      rw [List.getD_eq_getElem?_getD, List.getElem?_eq_none (by rw [List.length_append, List.length_replicate]; exact this)]
      rfl

theorem witness_DisabledHarmonics :
    (∀ i, i < 128 → ([65] : List Nat).getD i 64 ≠ 64 → ([9, 3] : List Nat).getD i 64 = ([9, 5] : List Nat).getD i 64) ∧
    ((∀ i, ([64] : List Nat).getD i 64 = 64) ∧ OscCfg.reset.adapt = 0) := by
  refine ⟨by decide, fun i => ?_, rfl⟩
  cases i <;> rfl

/-- An oscillator that publishes, in slot 15. -/
def published (f : Osc → Osc) : State := State.reset.setOsc 15 (f { Osc.reset with dirty := false, valid := true })

theorem witness_OscGetPlain :
    (let x := (published fun x => { x with dirty := true, valid := false, job := some default }).osc 15;
      x.dirty = true ∧ x.job.isSome = true ∧ x.valid = false) ∧
    (let x := (published id).osc 15;
      x.dirty = false ∧ x.valid = true ∧ x.cfg.aa = 0) := by decide +kernel

theorem witness_OscGetAntiAliased :
    let x := (published fun x => { x with cfg := { x.cfg with aa := 1 } }).osc 15
    x.dirty = false ∧ x.valid = true ∧ x.cfg.aa = 1 := by decide +kernel

theorem witness_OscGetPrepares : (State.reset.osc 15).dirty = true ∧ (State.reset.osc 15).job = none := by decide +kernel

theorem witness_RegenEnds :
    (let s := { published fun x => { x with job := some { (default : Job) with cancel := true } } with
        turns := [.regen 15 0] };
      s.turns = .regen 15 0 :: [] ∧ (s.osc 15).job = some { (default : Job) with cancel := true }) ∧
    (let s := { published fun x => { x with job := some default } with turns := [.regen 15 0] };
      s.turns = .regen 15 0 :: [] ∧ (s.osc 15).job = some default ∧ (default : Job).cancel = false ∧
      (default : Job).specDone = false) ∧
    (let j := { (default : Job) with specDone := true, unitDone := [0, 1022] };
      j.cancel = false ∧ j.specDone = true ∧ 1023 < 1024 ∧ 1023 ∉ j.unitDone) ∧
    ∃ j : Job, j.cancel = false ∧ j.specDone = true ∧ ∀ w, w < 1024 → w ∈ j.unitDone := by
  have h : ∀ us : List Nat, (∀ w, w < 1024 → w ∈ us) →
      ∃ j : Job, j.cancel = false ∧ j.specDone = true ∧ ∀ w, w < 1024 → w ∈ j.unitDone :=
    fun us hus => ⟨{ (default : Job) with specDone := true, unitDone := us }, rfl, rfl, hus⟩
  exact ⟨by decide +kernel, by decide +kernel, by decide, h _ fun w hw => List.mem_range.mpr hw⟩

theorem witness_RegenPublishesPrepare :
    let s := { startJob 15 State.reset with turns := (0 :: List.range 1024 ++ [0]).map (Turn.regen 15) }
    ∃ j, (s.osc 15).job = some j ∧ j.cancel = false ∧ j.specDone = false ∧ j.unitDone = [] ∧
      (List.range 1024).Perm (List.range 1024) :=
  ⟨_, rfl, rfl, rfl, rfl, .refl _⟩

/-- Every word of a block of zeros is written. -/
theorem written_zeros (a m b k : Nat) (s : State) (h : ∃ d, b = a + 4 * d ∧ d + k ≤ m) :
    (withWords a (List.replicate m 0) s).Written b k := by
  obtain ⟨d, rfl, hk⟩ := h
  intro i hi
  have hl : d + i < (List.replicate m (0 : Word)).length := by rw [List.length_replicate]; omega
  rw [show a + 4 * d + 4 * i = a + 4 * (d + i) by omega]
  exact (congrArg Option.isSome (word?_splice_bytesOf s.mem a _ (d + i) hl)).trans (by simp; omega)

/-- Words written elsewhere stay written. -/
theorem written_withWords (a b k : Nat) (ws : List Word) (s : State) (h : s.Written b k)
    (hd : b + 4 * k ≤ a ∨ a + 4 * ws.length ≤ b) : (withWords a ws s).Written b k := fun i hi =>
  (congrArg Option.isSome (word?_splice_of_disjoint s.mem a (bytesOf ws) (b + 4 * i)
    (by rw [length_bytesOf]; omega))).trans (h i hi)

/-- A published bank and harmonic tables of zeros in slot 15, the one dirty oscillator, and a written first value of the
envelope in slot 26 of note 15. -/
def bankState : State :=
  withWords (valAddr 15 26 0) [0] (withWords (waveAddr 15 false) (List.replicate 1024 0)
    (withWords (specAddr 15 false) (List.replicate 1024 0) (withWords (hmagAddr 15) (List.replicate 256 0)
      ({ State.reset with oscs := Vector.replicate 16 { Osc.reset with dirty := false } }.setOsc 15
        { Osc.reset with valid := true }))))

theorem bankState_valid : ∀ o, o < 16 → (bankState.osc o).valid = true → o = 15 := by decide +kernel

theorem bankState_dirty : ∀ o, o < 16 → (bankState.osc o).dirty = true → o = 15 := by decide +kernel

theorem witness_NoteInitResult : (15 : Byte).toNat < 16 ∧ bankState.active 15 = false ∧
    bankState.Written (valAddr 15 26 0) 1 ∧
    (∀ o, o < 16 → (bankState.osc o).valid = true →
      bankState.Written (specAddr o (bankState.osc o).pubsel) 1024 ∧
      bankState.Written (waveAddr o (bankState.osc o).pubsel) 1024) ∧
    ∀ o, o < 16 → (bankState.osc o).dirty = true → (bankState.osc o).job = none → bankState.Written (hmagAddr o) 256 := by
  refine ⟨by decide, by decide +kernel, written_zeros _ 1 _ _ _ ⟨0, rfl, le_rfl⟩, fun o h hv => ?_, fun o h hd _ => ?_⟩
  · obtain rfl := bankState_valid o h hv
    have hp : (bankState.osc 15).pubsel = false := by decide +kernel
    rw [hp]
    exact ⟨written_withWords _ _ _ _ _ (written_withWords _ _ _ _ _ (written_zeros _ 1024 _ _ _ ⟨0, rfl, le_rfl⟩)
      (.inl (by decide))) (.inl (by decide)),
      written_withWords _ _ _ _ _ (written_zeros _ 1024 _ _ _ ⟨0, rfl, le_rfl⟩) (.inl (by decide))⟩
  · obtain rfl := bankState_dirty o h hd
    exact written_withWords _ _ _ _ _ (written_withWords _ _ _ _ _ (written_withWords _ _ _ _ _
      (written_zeros _ 256 _ _ _ ⟨0, rfl, le_rfl⟩) (.inl (by decide))) (.inl (by decide))) (.inl (by decide))

theorem witness_NoteOutInactive : (15 : Byte).toNat < 16 ∧ State.reset.active 15 = false := by decide +kernel

/-- An active note 15 whose voice 0 is finished, voice 6 is driven by it, and voice 7 is a Frequency voice of 50
sub-voices; the cells of voices 6 and 7 hold zeros. -/
def playing : State :=
  withWords (uniAddr 15 6 0) (List.replicate 12288 0) (activeNote 15 fun x => { x with
    voices := (((x.voices.set 0 { Voice.reset with created := true, finished := true }).set 6
      { Voice.reset with created := true, usize := 1, topo := 1, modext := true }).set 7
      { Voice.reset with created := true, usize := 50, topo := 4 }) })

theorem playing_live : ∀ v, v < 8 → playing.live 15 v = true → v = 6 ∨ v = 7 := by decide +kernel

theorem playing_records (v k j m : Nat) (hv : v = 6 ∨ v = 7) (hk : k < 50) (hm : j + m ≤ 16) :
    playing.Written (uniAddr 15 v k + 4 * j) m := by
  refine written_zeros _ _ _ _ _ ⟨(v - 6) * 8192 + 16 * k + j, ?_, by rcases hv with rfl | rfl <;> omega⟩
  rcases hv with rfl | rfl <;> simp only [uniAddr, voiceBase, noteBase] <;> omega

theorem playing_waves (v : Nat) (sel : Bool) (hv : v = 6 ∨ v = 7) : playing.Written (vwaveAddr 15 v sel) 1024 := by
  refine written_zeros _ _ _ _ _ ⟨(v - 6) * 8192 + 2048 + 1024 * sel.toNat, ?_, ?_⟩ <;>
    rcases hv with rfl | rfl <;> cases sel <;>
    simp only [vwaveAddr, uniAddr, voiceBase, noteBase, Bool.toNat_true, Bool.toNat_false] <;> first | rfl | omega

theorem playing_envs : ∀ k, k < 27 → (playing.env 15 k).enpts = 0 := by decide +kernel

theorem witness_NoteOutActive : (15 : Byte).toNat < 16 ∧ playing.active 15 = true ∧ playing.live 15 7 = true ∧
    playing.live 15 0 = false ∧ (playing.voice 15 0).created = true ∧ NoteReady playing 15 := by
  have h6 : (playing.voice 15 6).usize = 1 ∧ (playing.voice 15 6).modvoice = 0 := by decide +kernel
  have h7 : (playing.voice 15 7).usize = 50 ∧ (playing.voice 15 7).modext = false := by decide +kernel
  have hu : ∀ v, v = 6 ∨ v = 7 → (playing.voice 15 v).usize.toNat ≤ 50 := by
    rintro v (rfl | rfl) <;> decide +kernel
  refine ⟨by decide, by decide +kernel, by decide +kernel, by decide +kernel, by decide +kernel, ?_, ?_, ?_, ?_⟩
  · intro k hk _
    have h := playing_envs k hk
    refine ⟨.inl h, ?_, ?_⟩ <;> rw [h] <;> exact fun i hi => absurd hi (Nat.not_lt_zero i)
  · exact fun v hv hl => ⟨playing_waves v _ (playing_live v hv hl), fun _ _ => playing_waves v _ (playing_live v hv hl)⟩
  · intro v hv hl _ he
    rcases playing_live v hv hl with rfl | rfl
    · rw [h6.2]; exact ⟨by decide, by decide +kernel⟩
    · rw [h7.2] at he; cases he
  · intro v k hv hl hk
    have hv' := playing_live v hv hl
    have hk' : k < 50 := lt_of_lt_of_le hk (hu v hv')
    exact ⟨fun _ => playing_records v k 0 3 hv' hk' (by decide), playing_records v k 3 2 hv' hk' (by decide),
      playing_records v k 6 2 hv' hk' (by decide), fun _ _ => playing_records v k 8 2 hv' hk' (by decide),
      fun _ => playing_records v k 10 2 hv' hk' (by decide)⟩

/-- Of KillThenOut, NoteReleaseKill and NoteLegatoResult. -/
theorem witness_active : (15 : Byte).toNat < 16 ∧ (activeNote 15 id).active 15 = true := by decide +kernel

theorem witness_MutedNoteSilent :
    let s := activeNote 15 fun x => { x with silent := true }
    s.active 15 = true ∧ (s.note 15).legstate = .normal ∧ (s.note 15).silent = true := by decide +kernel

theorem witness_LegatoWindow : 439 < 440 ∧ Note.reset.LegatoInv ∧
    ({ Note.reset with legstate := .catchUp, legcount := 1, silent := true } : Note).LegatoInv ∧
    ({ Note.reset with legstate := .fadeOut, legcount := 220 } : Note).LegatoInv := by
  refine ⟨by decide, ⟨?_, ?_, ?_, ?_⟩, ⟨?_, ?_, ?_, ?_⟩, ⟨?_, ?_, ?_, ?_⟩⟩ <;> decide

theorem witness_BusRefusals :
    ((2 : Word).toNat % 4 ≠ 0 ∧ locate 0x03000000 = none) ∧
    (busyWritable 0x60 = true ∧ busyWritable 0x70 = false ∧ busyReadable 0x48 = true ∧ busyReadable 0x68 = false) ∧
    ((locate 0x48).isSome = true ∧ (locate 0x00).map (·.access) = some .ro) ∧
    (State.reset.status.busy = false ∧ State.reset.Shows 0x74 0 ∧ State.reset.Shows 0x01F48054 0 ∧
      State.reset.shadowCell 0x0011FFFC ∧ ¬ State.reset.shadowCell 0x02000000) ∧
    ((accessAt 0x0011FFFC).isSome = true ∧ undefAfterReset 0x0011FFFC = true ∧ (accessAt 0x020007FC).isSome = true ∧
      undefAfterReset 0x020007FC = true) ∧
    ((withWords 0x02000000 [5] State.reset).mem.word? 0x02000000 = some 5 ∧ State.reset.mem.word? 0x020007FC = none) := by
  refine ⟨⟨by decide, ?_⟩, by decide +kernel, by decide +kernel,
    ⟨rfl, .inl (by decide +kernel), .inr (.inr ⟨15, by decide, .inr (.inr (.inr ⟨7, by decide, (0x54, 0), by decide +kernel, rfl⟩))⟩),
      ⟨15, by decide, .inl ⟨by decide +kernel, by decide +kernel⟩⟩, ?_⟩, by decide +kernel, by decide +kernel⟩
  swap
  · rintro ⟨o, ho, h⟩
    have hs : ∀ o, o < 16 → (State.reset.osc o).pubsel = false := by decide +kernel
    simp only [bankBytes, wordsAt, specAddr, waveAddr, hs o ho] at h
    simp at h
    omega
  have h : (locate 0x03000000).isNone = true := by decide +kernel
  exact Option.isNone_iff_eq_none.mp h

theorem witness_HostWrites :
    (15 < 16 ∧ 0x44C ≤ 0x44C ∧ 0x44C % 4 = 0 ∧ 0 % 4 = 0 ∧ State.reset.status.busy = false) ∧
    ((locate 0x60).map (·.access) = some .rw ∧ busyWritable 0x60 = true ∧
      (locate 0x1FFC).map (·.access) = some .rw ∧ (locate 0x01F49C50).map (·.access) = some .rw) ∧
    (locate 0x64).isSome = true ∧ ¬ (0x10000 ≤ 0x60 ∧ 0x60 < 0x20000) := by decide +kernel

/-- The access columns of R43, R57, R61, R66 and R68 at the ends of their regions. -/
theorem test_accessAt : accessAt 0x0A0 = some .w1c ∧ accessAt 0x09C = none ∧ accessAt 0x01F00048 = some .rw ∧
    accessAt 0x01F0004C = none ∧ accessAt 0x010045D0 = some .ro ∧ accessAt 0x01011C6C = some .ro ∧ accessAt 0x01011C70 = none ∧
    accessAt 0x020007FC = some .ro ∧ accessAt 0x02000800 = none := by decide

theorem witness_ConfigFunctions : (-16 : Int) ≤ 15 ∧ (15 : Int) ≤ 15 ∧ (2147483647 : Int) ≤ 2147483647 ∧ 511 < 512 ∧ 512 ≤ 512 ∧
    (1 : Nat) ≠ 0 ∧ 64 < 65 ∧ 63 < 64 ∧ 127 ≤ 127 ∧
    (((127 : Nat) : Int) - 64).natAbs ≤ (((0 : Nat) : Int) - 64).natAbs ∧
    (((65 : Nat) : Int) - 64).natAbs ≤ (((63 : Nat) : Int) - 64).natAbs := by decide

theorem witness_PhaseContinuity :
    ((17179869183 : Nat) < Config.PHMOD ∧ ∀ topo ≤ 4, (⟨topo, false, [], [], 0, 0, 0⟩ : SubCfg).topo = topo) ∧
    255 < 256 ∧ (zeros 256).length = 256 ∧ (∀ y ∈ zeros 256, -2147483648 ≤ y ∧ y ≤ 2147483647) ∧
    (let s := State.reset.setVoice 15 7 { Voice.reset with vctrl := 2 };
      (s.voice 15 7).dest = true ∧ (State.reset.voice 15 7).dest = false) := by decide +kernel

end Sys2Proof.Tests
end

section
/-! PROOFS. The configuration functions: what `bisect` keeps, and the required properties of R18, R19, R175 and R232. -/

namespace Sys2Proof.Machine

/-! ## `bisect` -/

section
variable (raw : Nat → Nat → Nat)

theorem bisect_bounds (b : Nat) : ∀ lo hi x : Nat, lo ≤ hi → lo ≤ bisect raw b lo hi x ∧ bisect raw b lo hi x ≤ hi := by
  induction b with
  | zero => exact fun lo hi x h => ⟨le_rfl, h⟩
  | succ b ih =>
    intro lo hi x h
    have hmid : lo + min (raw b (x / 2 ^ (b + 1))) (hi - lo) ≤ hi := by omega
    simp only [bisect]
    split
    · exact ⟨(ih _ _ x (Nat.le_add_right _ _)).1, (ih _ _ x (Nat.le_add_right _ _)).2.trans hmid⟩
    · exact ⟨(Nat.le_add_right _ _).trans (ih _ _ x hmid).1, (ih _ _ x hmid).2⟩

/-- The first value of a range is its lower end. -/
theorem bisect_zero (b lo hi : Nat) : bisect raw b lo hi 0 = lo := by
  induction b generalizing hi with
  | zero => rfl
  | succ b ih => simpa [bisect] using ih _

/-- Numbers with one and the same bits from `b` up are mapped in their order. -/
theorem bisect_mono (b : Nat) : ∀ lo hi x y : Nat, lo ≤ hi → x ≤ y → x / 2 ^ b = y / 2 ^ b →
    bisect raw b lo hi x ≤ bisect raw b lo hi y := by
  induction b with
  | zero => exact fun lo hi x y _ _ _ => le_rfl
  | succ b ih =>
    intro lo hi x y h hxy hp
    have hlo : lo ≤ lo + min (raw b (x / 2 ^ (b + 1))) (hi - lo) := Nat.le_add_right _ _
    have hhi : lo + min (raw b (x / 2 ^ (b + 1))) (hi - lo) ≤ hi := by omega
    have hx : x / 2 ^ b / 2 = x / 2 ^ (b + 1) := by rw [Nat.div_div_eq_div_mul, pow_succ]
    have hy : y / 2 ^ b / 2 = y / 2 ^ (b + 1) := by rw [Nat.div_div_eq_div_mul, pow_succ]
    have hle : x / 2 ^ b ≤ y / 2 ^ b := Nat.div_le_div_right hxy
    simp only [bisect, ← hp]
    by_cases hbx : x / 2 ^ b % 2 = 0 <;> by_cases hby : y / 2 ^ b % 2 = 0
    · rw [if_pos hbx, if_pos hby]; exact ih _ _ x y hlo hxy (by omega)
    · rw [if_pos hbx, if_neg hby]; exact (bisect_bounds raw b _ _ x hlo).2.trans (bisect_bounds raw b _ _ y hhi).1
    · omega
    · rw [if_neg hbx, if_neg hby]; exact ih _ _ x y hhi hxy (by omega)

theorem bisect_mono_of_lt {b lo hi x y : Nat} (h : lo ≤ hi) (hxy : x ≤ y) (hy : y < 2 ^ b) :
    bisect raw b lo hi x ≤ bisect raw b lo hi y :=
  bisect_mono raw b lo hi x y h hxy (by rw [Nat.div_eq_of_lt hy, Nat.div_eq_of_lt (hxy.trans_lt hy)])

end

/-! ## The sine table (R18) -/

theorem sinQuarter_natAbs_le (j : Nat) : (sinQuarter j).natAbs ≤ 16777216 := by
  unfold sinQuarter
  split_ifs
  · decide
  · decide
  · simp only [clamp, Config.ONE]; omega

theorem sinRom_natAbs_le (i : Nat) : (sinRom i).natAbs ≤ 16777216 := by
  unfold sinRom
  dsimp only
  split_ifs
  all_goals simp only [Int.natAbs_neg, sinQuarter_natAbs_le]

/-- The second half of the period is the first one negated. -/
theorem sinRom_half (i : Nat) (h : i < 512) : sinRom (512 + i) = -sinRom i := by
  have h1 : (512 + i) % 512 = i % 512 := by omega
  simp only [sinRom, h1, show ¬ (512 + i) % 1024 < 512 by omega, show i % 1024 < 512 by omega, if_true, if_false]

theorem sinRom_of_lt (i : Nat) (h : i < 512) : sinRom i = sinQuarter (if i ≤ 256 then i else 512 - i) := by
  simp only [sinRom, Nat.mod_eq_of_lt h, show i % 1024 < 512 by omega, if_true]

theorem sinRom_zero : sinRom 0 = 0 := sinRom_of_lt 0 (by decide)

theorem sinRom_512 : sinRom 512 = 0 := by simpa [sinRom_zero] using sinRom_half 0 (by decide)

theorem sinRom_256 : sinRom 256 = 16777216 := sinRom_of_lt 256 (by decide)

/-- The first half of the period is its own mirror image. -/
theorem sinRom_mirror (i : Nat) (h : i ≤ 512) : sinRom (512 - i) = sinRom i := by
  rcases Nat.eq_zero_or_pos i with rfl | h0
  · rw [Nat.sub_zero, sinRom_zero, sinRom_512]
  · rcases Nat.lt_or_eq_of_le h with h1 | rfl
    · rw [sinRom_of_lt _ (by omega), sinRom_of_lt i h1]
      congr 1
      split_ifs <;> omega
    · rw [Nat.sub_self, sinRom_zero, sinRom_512]

/-! ## `exp2` (R19) -/

/-- The octaves of `exp2`, with the bounds of each. -/
theorem exp2_octave (n : Int) (x : Int) (hn : fdiv x 16777216 = n) (h1 : -16 ≤ n) (h2 : n < 15) :
    exp2 x = bisect (Config.exp2Raw n) 24 (2 ^ (n + 16).toNat) (2 ^ (n + 17).toNat) (x - n * 16777216).toNat := by
  unfold exp2
  simp only [hn, if_neg (not_lt.2 h1), if_pos h2]

theorem exp2_top (x : Int) (h : 15 ≤ fdiv x 16777216) :
    exp2 x = bisect (Config.exp2Raw 15) 31 2147483648 4294967295 (x - 15 * 16777216).toNat := by
  unfold exp2
  rw [if_neg (by show ¬ fdiv x 16777216 < -16; omega), if_neg (by show ¬ fdiv x 16777216 < 15; omega)]

theorem exp2_tail (x : Int) (h : fdiv x 16777216 < -16) : exp2 x = if x < Config.exp2Tail then 0 else 1 := by
  unfold exp2
  exact if_pos h

theorem exp2_octave_bounds (x : Int) (h1 : -16 ≤ fdiv x 16777216) (h2 : fdiv x 16777216 < 15) :
    2 ^ (fdiv x 16777216 + 16).toNat ≤ exp2 x ∧ exp2 x ≤ 2 ^ (fdiv x 16777216 + 17).toNat := by
  rw [exp2_octave _ x rfl h1 h2]
  exact bisect_bounds _ _ _ _ _ (Nat.pow_le_pow_right (by decide) (by omega))

theorem exp2_le (x : Int) : exp2 x ≤ 4294967295 := by
  rcases lt_or_ge (fdiv x 16777216) (-16) with h | h1
  · rw [exp2_tail x h]; split <;> omega
  · rcases lt_or_ge (fdiv x 16777216) 15 with h2 | h2
    · calc exp2 x ≤ 2 ^ (fdiv x 16777216 + 17).toNat := (exp2_octave_bounds x h1 h2).2
        _ ≤ 2 ^ 31 := Nat.pow_le_pow_right (by decide) (by omega)
        _ ≤ 4294967295 := by decide
    · rw [exp2_top x h2]; exact (bisect_bounds _ _ _ _ _ (by decide)).2

theorem exp2_whole (m : Int) (h1 : -16 ≤ m) (h2 : m ≤ 15) : exp2 (m * 16777216) = 2 ^ (m + 16).toNat := by
  have hn : fdiv (m * 16777216) 16777216 = m := Int.mul_ediv_cancel _ (by decide)
  rcases Int.lt_or_eq_of_le h2 with h | rfl
  · rw [exp2_octave m _ hn h1 h, Int.sub_self]; exact bisect_zero _ _ _ _
  · rw [exp2_top _ (by rw [hn]), Int.sub_self]; exact bisect_zero _ _ _ _

theorem exp2_mono (x y : Int) (hxy : x ≤ y) (hy : y ≤ 2147483647) : exp2 x ≤ exp2 y := by
  have hle : fdiv x 16777216 ≤ fdiv y 16777216 := Int.ediv_le_ediv (by decide) hxy
  have hX : x - fdiv x 16777216 * 16777216 < 16777216 ∧ 0 ≤ x - fdiv x 16777216 * 16777216 := by unfold fdiv; omega
  have hY : y - fdiv y 16777216 * 16777216 < 16777216 ∧ 0 ≤ y - fdiv y 16777216 * 16777216 := by unfold fdiv; omega
  rcases lt_or_ge (fdiv y 16777216) (-16) with hy1 | hy1
  · rw [exp2_tail x (by omega), exp2_tail y hy1]
    split_ifs <;> omega
  have pos : 1 ≤ exp2 y := by
    rcases lt_or_ge (fdiv y 16777216) 15 with hy2 | hy2
    · exact Nat.one_le_two_pow.trans (exp2_octave_bounds y hy1 hy2).1
    · rw [exp2_top y hy2]; exact le_trans (by decide) (bisect_bounds _ _ _ _ _ (by decide)).1
  rcases lt_or_ge (fdiv x 16777216) (-16) with hx1 | hx1
  · rw [exp2_tail x hx1]; split <;> omega
  rcases lt_or_ge (fdiv y 16777216) 15 with hy2 | hy2
  · rcases Int.lt_or_eq_of_le hle with hlt | heq
    · calc exp2 x ≤ 2 ^ (fdiv x 16777216 + 17).toNat := (exp2_octave_bounds x hx1 (by omega)).2
        _ ≤ 2 ^ (fdiv y 16777216 + 16).toNat := Nat.pow_le_pow_right (by decide) (by omega)
        _ ≤ exp2 y := (exp2_octave_bounds y hy1 hy2).1
    · rw [exp2_octave _ x heq hy1 hy2, exp2_octave _ y rfl hy1 hy2]
      exact bisect_mono_of_lt _ (Nat.pow_le_pow_right (by decide) (by omega)) (by omega) (by omega)
  · rw [exp2_top y hy2]
    rcases lt_or_ge (fdiv x 16777216) 15 with hx2 | hx2
    · calc exp2 x ≤ 2 ^ (fdiv x 16777216 + 17).toNat := (exp2_octave_bounds x hx1 hx2).2
        _ ≤ 2 ^ 31 := Nat.pow_le_pow_right (by decide) (by omega)
        _ ≤ _ := (bisect_bounds _ _ _ _ _ (by decide)).1
    · rw [exp2_top x hx2]
      exact bisect_mono_of_lt _ (by decide) (by omega) (by omega)

/-! ## Decibels (R232) -/

theorem db2lin_floor (x : Int) (h : x ≤ -1677721600) : db2lin x = 0 := if_pos h

theorem db2lin_below (x : Int) (h1 : -1677721600 < x) (h2 : x < 0) :
    db2lin x = bisect (Config.db2linRaw false) 31 0 16777216 (x + 1677721600).toNat := by
  unfold db2lin
  rw [if_neg (not_le.2 h1), if_pos h2, show x - Config.MIN_DB = x + 1677721600 from Int.sub_neg ..]

theorem db2lin_above (x : Int) (h : 0 ≤ x) :
    db2lin x = bisect (Config.db2linRaw true) 31 16777216 2147483647 x.toNat := by
  unfold db2lin
  rw [if_neg (by show ¬ x ≤ -1677721600; omega), if_neg (not_lt.2 h)]

theorem db2lin_zero : db2lin 0 = 16777216 := by
  rw [db2lin_above 0 le_rfl, Int.toNat_zero, bisect_zero]; rfl

theorem db2lin_bounds (x : Int) : 0 ≤ db2lin x ∧ db2lin x ≤ 2147483647 := by
  rcases le_or_gt x (-1677721600) with h | h
  · rw [db2lin_floor x h]; decide
  rcases lt_or_ge x 0 with h0 | h0
  · have := bisect_bounds (Config.db2linRaw false) 31 0 16777216 (x + 1677721600).toNat (by decide)
    rw [db2lin_below x h h0]; omega
  · have := bisect_bounds (Config.db2linRaw true) 31 16777216 2147483647 x.toNat (by decide)
    rw [db2lin_above x h0]; omega

theorem db2lin_mono (x y : Int) (hxy : x ≤ y) (hy : y ≤ 2147483647) : db2lin x ≤ db2lin y := by
  rcases le_or_gt x (-1677721600) with hx | hx
  · rw [db2lin_floor x hx]; exact (db2lin_bounds y).1
  rcases lt_or_ge y 0 with hy0 | hy0
  · rw [db2lin_below x hx (by omega), db2lin_below y (by omega) hy0]
    exact Int.ofNat_le.2 (bisect_mono_of_lt _ (by decide) (by omega) (by omega))
  rw [db2lin_above y hy0]
  rcases lt_or_ge x 0 with hx0 | hx0
  · rw [db2lin_below x hx hx0]
    exact Int.ofNat_le.2 ((bisect_bounds _ _ _ _ _ (by decide)).2.trans (bisect_bounds _ _ _ _ _ (by decide)).1)
  · rw [db2lin_above x hx0]
    exact Int.ofNat_le.2 (bisect_mono_of_lt _ (by decide) (by omega) (by omega))

theorem lin2db_floor (v : Int) (h : v ≤ 0) : lin2db v = -1677721600 := if_pos h

theorem lin2db_below (v : Int) (h1 : 0 < v) (h2 : v < 16777216) :
    lin2db v = -1677721600 + bisect (Config.lin2dbRaw false) 24 0 1677721600 v.toNat := by
  unfold lin2db
  rw [if_neg (not_le.2 h1), if_pos h2]

theorem lin2db_above (v : Int) (h : 16777216 ≤ v) :
    lin2db v = bisect (Config.lin2dbRaw true) 31 0 2147483647 (v - 16777216).toNat := by
  unfold lin2db
  rw [if_neg (by omega), if_neg (not_lt.2 h)]

theorem lin2db_one : lin2db 16777216 = 0 := by
  rw [lin2db_above _ le_rfl, Int.sub_self, Int.toNat_zero, bisect_zero]; rfl

theorem lin2db_ge (v : Int) : -1677721600 ≤ lin2db v := by
  rcases le_or_gt v 0 with h | h
  · rw [lin2db_floor v h]
  rcases lt_or_ge v 16777216 with h1 | h1
  · rw [lin2db_below v h h1]; omega
  · rw [lin2db_above v h1]; omega

theorem lin2db_mono (x y : Int) (hxy : x ≤ y) (hy : y ≤ 2147483647) : lin2db x ≤ lin2db y := by
  rcases le_or_gt x 0 with hx | hx
  · rw [lin2db_floor x hx]; exact lin2db_ge y
  rcases lt_or_ge y 16777216 with hy0 | hy0
  · rw [lin2db_below x hx (by omega), lin2db_below y (by omega) hy0]
    have := bisect_mono_of_lt (Config.lin2dbRaw false) (b := 24) (lo := 0) (hi := 1677721600) (x := x.toNat)
      (y := y.toNat) (by decide) (by omega) (by omega)
    omega
  rw [lin2db_above y hy0]
  rcases lt_or_ge x 16777216 with hx0 | hx0
  · have := bisect_bounds (Config.lin2dbRaw false) 24 0 1677721600 x.toNat (by decide)
    rw [lin2db_below x hx hx0]; omega
  · rw [lin2db_above x hx0]
    exact Int.ofNat_le.2 (bisect_mono_of_lt _ (by decide) (by omega) (by omega))

/-! ## Magnitudes (R175) -/

theorem magAbs_bounds (t d : Nat) : 1 ≤ magAbs t d ∧ magAbs t d ≤ 16777216 := by
  have h := bisect_bounds (Config.magRaw t) 6 (1 + min (Config.magRaw t 6 0) 16777215) 16777216 (d - 1) (by omega)
  unfold magAbs
  omega

theorem magAbs_mono (t c d : Nat) (h : c ≤ d) (hd : d ≤ 64) : magAbs t c ≤ magAbs t d :=
  bisect_mono_of_lt _ (by omega) (by omega) (by omega)

theorem magMap_linear (c : Nat) : magMap 0 c = ((c : Int) - 64) * 262144 := if_pos rfl

theorem magMap_neutral (t : Nat) : magMap t 64 = 0 := by
  unfold magMap
  split
  · rfl
  · exact if_pos rfl

theorem magMap_above (t c : Nat) (ht : t ≠ 0) (h : 64 < c) : magMap t c = magAbs t (c - 64) := by
  unfold magMap
  rw [if_neg ht, if_neg (by omega), if_pos h]

theorem magMap_below (t c : Nat) (ht : t ≠ 0) (h : c < 64) : magMap t c = -(magAbs t (64 - c) : Int) := by
  unfold magMap
  rw [if_neg ht, if_neg (by omega), if_neg (by omega)]

/-- The magnitude of a code depends on its distance from the neutral one alone (log entry 23). -/
theorem magMap_natAbs (t c : Nat) (ht : t ≠ 0) (h : c ≠ 64) : (magMap t c).natAbs = magAbs t ((c : Int) - 64).natAbs := by
  rcases Nat.lt_or_gt_of_ne h with h | h
  · rw [magMap_below t c ht h, Int.natAbs_neg, Int.natAbs_natCast]; congr 1; omega
  · rw [magMap_above t c ht h, Int.natAbs_natCast]; congr 1; omega

theorem magMap_order (t c d : Nat) (hc : c ≤ 127) (hd : d ≤ 127) (h : ((c : Int) - 64).natAbs ≤ ((d : Int) - 64).natAbs) :
    (magMap t c).natAbs ≤ (magMap t d).natAbs := by
  rcases Nat.eq_zero_or_pos t with rfl | ht
  · simp only [magMap_linear]; omega
  by_cases hc0 : c = 64
  · subst hc0; rw [magMap_neutral]; exact Nat.zero_le _
  · rw [magMap_natAbs t c (by omega) hc0, magMap_natAbs t d (by omega) (by omega)]
    exact magAbs_mono t _ _ h (by omega)

/-- Settles O59. -/
theorem configFunctions : Obligations.ConfigFunctions := by
  refine ⟨⟨sinRom_zero, sinRom_256, sinRom_512, ?_, sinRom_half, sinRom_mirror, sinRom_natAbs_le⟩,
    ⟨exp2_whole, exp2_mono, exp2_le⟩,
    ⟨db2lin_zero, db2lin_floor, db2lin_mono, db2lin_bounds, lin2db_floor, lin2db_one, lin2db_mono, lin2db_ge⟩,
    magMap_neutral, magMap_linear, ?_, ?_, magMap_order⟩
  · simpa [sinRom_256] using sinRom_half 256 (by decide)
  · intro t c ht hc
    have := magAbs_bounds t (c - 64)
    rw [magMap_above t c ht hc]; omega
  · intro t c ht hc
    have := magAbs_bounds t (64 - c)
    rw [magMap_below t c ht hc]; omega

end Sys2Proof.Machine
end

section
/-! PROOFS. Interpolation (R15, R241) and the recurrences of the filter stages (R286 to R289). -/

namespace Sys2Proof.Machine

/-! ## Narrowing and words -/

theorem sat32_eq_ok (x : Int) (h1 : -2147483648 ≤ x) (h2 : x ≤ 2147483647) : sat32 x = .ok x := by
  have hs : outOfRange32 x = false := by simp [outOfRange32]; omega
  have hv : clamp x (-2147483648) 2147483647 = x := by unfold clamp; omega
  simp only [sat32, Sat.ok, hs, hv]

theorem sat32_sat_iff (x : Int) : (sat32 x).sat = true ↔ x < -2147483648 ∨ 2147483647 < x := by
  simp [sat32, outOfRange32]

theorem sat32_range (x : Int) : -2147483648 ≤ (sat32 x).val ∧ (sat32 x).val ≤ 2147483647 := by
  simp only [sat32, clamp]; omega

theorem toInt_range (w : Word) : -2147483648 ≤ w.toInt ∧ w.toInt ≤ 2147483647 := by
  have h1 := BitVec.le_toInt w
  have h2 := BitVec.toInt_lt (x := w)
  norm_num at h1 h2
  omega

@[simp] theorem toWord_toInt (w : Word) : toWord w.toInt = w := BitVec.ofInt_toInt

theorem toInt_toWord (x : Int) (h1 : -2147483648 ≤ x) (h2 : x ≤ 2147483647) : (toWord x).toInt = x := by
  rw [toWord, BitVec.toInt_ofInt]
  exact Int.bmod_eq_of_le (by norm_num; omega) (by norm_num; omega)

@[simp] theorem toInt_toWord_sat32 (x : Int) : (toWord (sat32 x).val).toInt = (sat32 x).val :=
  toInt_toWord _ (sat32_range x).1 (sat32_range x).2

/-! ## Interpolation -/

/-- The rounded product of an interpolation points from the start value to the end value and no further. -/
theorem lerp_product_bounds (a b x : Int) (h0 : 0 ≤ x) (h1 : x ≤ 16777216) :
    min 0 (b - a) ≤ fdiv ((b - a) * x + 8388608) 16777216 ∧
      fdiv ((b - a) * x + 8388608) 16777216 ≤ max 0 (b - a) := by
  unfold fdiv
  rcases le_total 0 (b - a) with h | h
  · have l : 0 ≤ (b - a) * x := mul_nonneg h h0
    have u : (b - a) * x ≤ (b - a) * 16777216 := mul_le_mul_of_nonneg_left h1 h
    omega
  · have l : (b - a) * 16777216 ≤ (b - a) * x := mul_le_mul_of_nonpos_left h1 h
    have u : (b - a) * x ≤ 0 := mul_nonpos_of_nonpos_of_nonneg h h0
    omega

/-- Between values in range the outer narrowing of `lerp` changes nothing. -/
theorem lerp_eq (a b x : Int) (ha : -2147483648 ≤ a) (ha' : a ≤ 2147483647) (hb : -2147483648 ≤ b)
    (hb' : b ≤ 2147483647) (h0 : 0 ≤ x) (h1 : x ≤ 16777216) :
    lerp a b x = ⟨a + (qmul (b - a) x).val, (qmul (b - a) x).sat⟩ := by
  have hp := lerp_product_bounds a b x h0 h1
  have ho : sat32 (a + (qmul (b - a) x).val) = .ok (a + (qmul (b - a) x).val) := by
    apply sat32_eq_ok <;> simp only [qmul, sat32, clamp] <;> omega
  simp only [lerp, Sat.bind, ho, Sat.ok, Bool.or_false]

/-- Settles O31. -/
theorem lerpBetween : Obligations.LerpBetween := by
  intro a b x ha ha' hb hb' h0 h1 p
  have hp : min 0 (b - a) ≤ p ∧ p ≤ max 0 (b - a) := lerp_product_bounds a b x h0 h1
  have hq : qmul (b - a) x = sat32 p := rfl
  have hl := lerp_eq a b x ha ha' hb hb' h0 h1
  have hv : (lerp a b x).val = a + clamp p (-2147483648) 2147483647 := by rw [hl]; rfl
  refine ⟨?_, ?_, hv, ?_, ?_, fun h2 h3 => ?_⟩
  · rw [hv]; unfold clamp; omega
  · rw [hv]; unfold clamp; omega
  · rw [hl, hq]; exact sat32_sat_iff p
  · have hz : qmul (b - a) 0 = .ok 0 := by rw [qmul, mul_zero]; exact sat32_eq_ok _ (by decide) (by decide)
    rw [lerp_eq a b 0 ha ha' hb hb' le_rfl (by decide), hz]
    simp [Sat.ok]
  · have h4 : fdiv ((b - a) * 16777216 + 8388608) 16777216 = b - a := by unfold fdiv; omega
    have h5 : qmul (b - a) 16777216 = .ok (b - a) := by rw [qmul, h4]; exact sat32_eq_ok _ h2 h3
    rw [lerp_eq a b _ ha ha' hb hb' (by decide) le_rfl, h5]
    simp [Sat.ok]

/-! ## One stage over a block -/

/-- A cascade of one stage over a block, its first sample split off. -/
theorem filterSamples_single_cons (x : Flt) (g : FltStage) (u : Int) (us : List Int) :
    filterSamples x [g] (u :: us) =
      ⟨((filterStage x g u).val.1 :: (filterSamples x [(filterStage x g u).val.2] us).val.1,
        (filterSamples x [(filterStage x g u).val.2] us).val.2),
        (filterStage x g u).sat || (filterSamples x [(filterStage x g u).val.2] us).sat⟩ := by
  simp [filterSamples, filterCascade, Sat.bind, Sat.map, Sat.ok]

/-- The argument of the narrowing in sample i of a biquad, from the input and the output with their history (R287). -/
def biquadSum (x : Flt) (U Y : List Int) (i : Nat) : Int :=
  fdiv (x.coef 0 * U.getD (i + 2) 0 + x.coef 1 * U.getD (i + 1) 0 + x.coef 2 * U.getD i 0
    - x.coef 3 * Y.getD (i + 1) 0 - x.coef 4 * Y.getD i 0 + 8388608) 16777216

/-- One sample of a biquad: the narrowed sum, and the histories moved on by one. -/
theorem filterStage_biquad (x : Flt) (g : FltStage) (u : Int) (us Y : List Int) (hk : x.fkind = 0) :
    filterStage x g u = (sat32 (biquadSum x (g.s1.toInt :: g.s0.toInt :: u :: us) (g.s3.toInt :: g.s2.toInt :: Y) 0)).map
      fun y => (y, ⟨toWord u, g.s0, toWord y, g.s2⟩) := if_pos hk

theorem biquad_recurrence (x : Flt) (hk : x.fkind = 0) (us : List Int) :
    ∀ g : FltStage, (∀ u ∈ us, -2147483648 ≤ u ∧ u ≤ 2147483647) →
      let r := filterSamples x [g] us
      let U := g.s1.toInt :: g.s0.toInt :: us
      let Y := g.s3.toInt :: g.s2.toInt :: r.val.1
      (∀ i, i < us.length → Y.getD (i + 2) 0 = clamp (biquadSum x U Y i) (-2147483648) 2147483647) ∧
      (r.sat = true ↔ ∃ i, i < us.length ∧ (biquadSum x U Y i < -2147483648 ∨ 2147483647 < biquadSum x U Y i)) ∧
      r.val.2 = [⟨toWord (U.getD (us.length + 1) 0), toWord (U.getD us.length 0), toWord (Y.getD (us.length + 1) 0),
        toWord (Y.getD us.length 0)⟩] := by
  induction us with
  | nil => intro g _; simp [filterSamples, Sat.ok]
  | cons u us ih =>
    intro g hr
    have hu := hr u List.mem_cons_self
    have hst := fun Y => filterStage_biquad x g u us Y hk
    rw [filterSamples_single_cons]
    obtain ⟨hY, hsat, hlast⟩ := ih (filterStage x g u).val.2 fun v hv => hr v (List.mem_cons_of_mem _ hv)
    generalize hr' : filterSamples x [(filterStage x g u).val.2] us = r' at hY hsat hlast ⊢
    have hy := hst ((filterStage x g u).val.1 :: r'.val.1)
    generalize hs : biquadSum x (g.s1.toInt :: g.s0.toInt :: u :: us)
      (g.s3.toInt :: g.s2.toInt :: (filterStage x g u).val.1 :: r'.val.1) 0 = s0 at hy
    rw [hy] at hY hsat hlast hs ⊢
    simp only [Sat.map, toInt_toWord u hu.1 hu.2, toInt_toWord_sat32] at hY hsat hlast hs ⊢
    refine ⟨fun i hi => ?_, ?_, ?_⟩
    · cases i with
      | zero => rw [hs]; rfl
      | succ i => exact hY i (Nat.lt_of_succ_lt_succ hi)
    · rw [Bool.or_eq_true, sat32_sat_iff, hsat, ← hs]
      constructor
      · rintro (h | ⟨i, hi, h⟩)
        · exact ⟨0, Nat.succ_pos _, h⟩
        · exact ⟨i + 1, Nat.succ_lt_succ hi, h⟩
      · rintro ⟨i, hi, h⟩
        cases i with
        | zero => exact .inl h
        | succ i => exact .inr ⟨i, Nat.lt_of_succ_lt_succ hi, h⟩
    · exact hlast

/-! ## A state-variable stage -/

section
variable (x : Flt) (g : FltStage) (u : Int)

/-- `low` after a sample (R289). -/
def svfLow : Sat Int := sat32 (g.s0.toInt + (qmul (x.coef 0) g.s1.toInt).val)
/-- `high` after a sample (R289). -/
def svfHigh : Sat Int :=
  sat32 ((qmul (x.coef 2) u).val - (svfLow x g).val - (qmul (x.coef 1) g.s1.toInt).val)
/-- `band` after a sample (R289). -/
def svfBand : Sat Int := sat32 (g.s1.toInt + (qmul (x.coef 0) (svfHigh x g u).val).val)
/-- `notch` after a sample (R289). -/
def svfNotch : Sat Int := sat32 ((svfHigh x g u).val + (svfLow x g).val)

theorem filterStage_svf (hk : x.fkind = 1) : filterStage x g u = svfStage x g u := if_neg (by rw [hk]; decide)

theorem svfStage_state : (svfStage x g u).val.2 =
    ⟨toWord (svfLow x g).val, toWord (svfBand x g u).val, toWord (svfHigh x g u).val, toWord (svfNotch x g u).val⟩ := rfl

theorem svfStage_out : (svfStage x g u).val.1 =
    [(svfLow x g).val, (svfHigh x g u).val, (svfBand x g u).val, (svfNotch x g u).val].getD (x.ftype.toNat % 4) 0 := by
  have h4 : x.ftype.toNat % 4 < 4 := Nat.mod_lt _ (by decide)
  show svfTap x.ftype.toNat (svfLow x g).val (svfBand x g u).val (svfHigh x g u).val (svfNotch x g u).val = _
  unfold svfTap
  generalize x.ftype.toNat % 4 = m at h4
  interval_cases m <;> rfl

theorem svfStage_sat : (svfStage x g u).sat = ((qmul (x.coef 0) g.s1.toInt).sat || (qmul (x.coef 1) g.s1.toInt).sat ||
    (qmul (x.coef 2) u).sat || (qmul (x.coef 0) (svfHigh x g u).val).sat || (svfLow x g).sat || (svfHigh x g u).sat ||
    (svfBand x g u).sat || (svfNotch x g u).sat) := by
  have h : (svfStage x g u).sat = ((qmul (x.coef 0) g.s1.toInt).sat || ((svfLow x g).sat || ((qmul (x.coef 2) u).sat ||
    ((qmul (x.coef 1) g.s1.toInt).sat || ((svfHigh x g u).sat || ((qmul (x.coef 0) (svfHigh x g u).val).sat ||
      ((svfBand x g u).sat || (svfNotch x g u).sat))))))) := rfl
  rw [h]
  ac_rfl

end

/-- What the four lists of state words of a state-variable stage over a block satisfy (R289). -/
structure SvfTrace (x : Flt) (g : FltStage) (us low high band notch : List Int) : Prop where
  lengths : low.length = us.length + 1 ∧ high.length = us.length + 1 ∧ band.length = us.length + 1 ∧
    notch.length = us.length + 1
  heads : low.getD 0 0 = g.s0.toInt ∧ band.getD 0 0 = g.s1.toInt ∧ high.getD 0 0 = g.s2.toInt ∧
    notch.getD 0 0 = g.s3.toInt
  steps : ∀ i, i < us.length →
    low.getD (i + 1) 0 = (sat32 (low.getD i 0 + (qmul (x.coef 0) (band.getD i 0)).val)).val ∧
    high.getD (i + 1) 0 = (sat32 ((qmul (x.coef 2) (us.getD i 0)).val - low.getD (i + 1) 0
      - (qmul (x.coef 1) (band.getD i 0)).val)).val ∧
    band.getD (i + 1) 0 = (sat32 (band.getD i 0 + (qmul (x.coef 0) (high.getD (i + 1) 0)).val)).val ∧
    notch.getD (i + 1) 0 = (sat32 (high.getD (i + 1) 0 + low.getD (i + 1) 0)).val ∧
    (filterSamples x [g] us).val.1.getD i 0 =
      [low.getD (i + 1) 0, high.getD (i + 1) 0, band.getD (i + 1) 0, notch.getD (i + 1) 0].getD (x.ftype.toNat % 4) 0
  sat : (filterSamples x [g] us).sat = true ↔ ∃ i, i < us.length ∧
    ((qmul (x.coef 0) (band.getD i 0)).sat || (qmul (x.coef 1) (band.getD i 0)).sat ||
      (qmul (x.coef 2) (us.getD i 0)).sat || (qmul (x.coef 0) (high.getD (i + 1) 0)).sat ||
      (sat32 (low.getD i 0 + (qmul (x.coef 0) (band.getD i 0)).val)).sat ||
      (sat32 ((qmul (x.coef 2) (us.getD i 0)).val - low.getD (i + 1) 0 - (qmul (x.coef 1) (band.getD i 0)).val)).sat ||
      (sat32 (band.getD i 0 + (qmul (x.coef 0) (high.getD (i + 1) 0)).val)).sat ||
      (sat32 (high.getD (i + 1) 0 + low.getD (i + 1) 0)).sat) = true
  last : (filterSamples x [g] us).val.2 = [⟨toWord (low.getD us.length 0), toWord (band.getD us.length 0),
    toWord (high.getD us.length 0), toWord (notch.getD us.length 0)⟩]

theorem svfTrace_nil (x : Flt) (g : FltStage) :
    SvfTrace x g [] [g.s0.toInt] [g.s2.toInt] [g.s1.toInt] [g.s3.toInt] :=
  ⟨⟨rfl, rfl, rfl, rfl⟩, ⟨rfl, rfl, rfl, rfl⟩, fun _ h => absurd h (Nat.not_lt_zero _),
    by simp [filterSamples, Sat.ok], by simp [filterSamples, Sat.ok]⟩

/-- The trace of a block is the state before it, followed by the trace from the state after its first sample. -/
theorem SvfTrace.cons (x : Flt) (g : FltStage) (u : Int) (us low high band notch : List Int) (hk : x.fkind = 1)
    (h : SvfTrace x (svfStage x g u).val.2 us low high band notch) :
    SvfTrace x g (u :: us) (g.s0.toInt :: low) (g.s2.toInt :: high) (g.s1.toInt :: band) (g.s3.toInt :: notch) := by
  obtain ⟨⟨l1, l2, l3, l4⟩, ⟨h1, h2, h3, h4⟩, hsteps, hsat, hlast⟩ := h
  rw [svfStage_state] at h1 h2 h3 h4
  have e1 : low.getD 0 0 = (svfLow x g).val := h1.trans (toInt_toWord_sat32 _)
  have e2 : band.getD 0 0 = (svfBand x g u).val := h2.trans (toInt_toWord_sat32 _)
  have e3 : high.getD 0 0 = (svfHigh x g u).val := h3.trans (toInt_toWord_sat32 _)
  have e4 : notch.getD 0 0 = (svfNotch x g u).val := h4.trans (toInt_toWord_sat32 _)
  have hrun := filterSamples_single_cons x g u us
  rw [filterStage_svf x g u hk] at hrun
  refine ⟨⟨congrArg (· + 1) l1, congrArg (· + 1) l2, congrArg (· + 1) l3, congrArg (· + 1) l4⟩, ⟨rfl, rfl, rfl, rfl⟩,
    fun i hi => ?_, ?_, ?_⟩
  · rw [hrun]
    cases i with
    | zero =>
      simp only [List.getD_cons_succ, List.getD_cons_zero, e1, e2, e3, e4]
      exact ⟨rfl, rfl, rfl, rfl, svfStage_out x g u⟩
    | succ i => exact hsteps i (Nat.lt_of_succ_lt_succ hi)
  · rw [hrun, Bool.or_eq_true, hsat]
    constructor
    · rintro (h | ⟨i, hi, h⟩)
      · refine ⟨0, Nat.succ_pos _, ?_⟩
        simp only [List.getD_cons_succ, List.getD_cons_zero, e1, e3]
        exact (svfStage_sat x g u).symm.trans h
      · exact ⟨i + 1, Nat.succ_lt_succ hi, h⟩
    · rintro ⟨i, hi, h⟩
      cases i with
      | zero =>
        simp only [List.getD_cons_succ, List.getD_cons_zero, e1, e3] at h
        exact .inl ((svfStage_sat x g u).trans h)
      | succ i => exact .inr ⟨i, Nat.lt_of_succ_lt_succ hi, h⟩
  · rw [hrun]; exact hlast

theorem exists_svfTrace (x : Flt) (hk : x.fkind = 1) (us : List Int) :
    ∀ g : FltStage, ∃ low high band notch, SvfTrace x g us low high band notch := by
  induction us with
  | nil => exact fun g => ⟨_, _, _, _, svfTrace_nil x g⟩
  | cons u us ih =>
    intro g
    obtain ⟨low, high, band, notch, h⟩ := ih (svfStage x g u).val.2
    exact ⟨_, _, _, _, h.cons x g u us low high band notch hk⟩

/-! ## Silence -/

theorem qmul_zero_right (a : Int) : qmul a 0 = .ok 0 := by rw [qmul, mul_zero]; exact sat32_eq_ok _ (by decide) (by decide)

theorem biquadStage_zero (x : Flt) : biquadStage x ⟨0, 0, 0, 0⟩ 0 = .ok (0, ⟨0, 0, 0, 0⟩) := by
  have h : sat32 (fdiv 8388608 16777216) = .ok 0 := sat32_eq_ok _ (by decide) (by decide)
  simp [biquadStage, h, Sat.ok, Sat.map, toWord]

theorem svfStage_zero (x : Flt) : svfStage x ⟨0, 0, 0, 0⟩ 0 = .ok (0, ⟨0, 0, 0, 0⟩) := by
  have h : sat32 0 = .ok 0 := sat32_eq_ok _ (by decide) (by decide)
  simp [svfStage, qmul_zero_right, h, Sat.ok, Sat.map, Sat.bind, toWord, svfTap]

theorem filterCascade_zero (x : Flt) (gs : List FltStage) (h : ∀ g ∈ gs, g = ⟨0, 0, 0, 0⟩) :
    filterCascade x gs 0 = .ok (0, gs) := by
  induction gs with
  | nil => rfl
  | cons g gs ih =>
    obtain rfl := h g List.mem_cons_self
    have hst : filterStage x ⟨0, 0, 0, 0⟩ 0 = .ok (0, ⟨0, 0, 0, 0⟩) := by
      unfold filterStage
      split
      · exact biquadStage_zero x
      · exact svfStage_zero x
    simp only [filterCascade, hst, ih fun g hg => h g (List.mem_cons_of_mem _ hg), Sat.bind, Sat.map, Sat.ok, Bool.or_self]

theorem filterSamples_zero (x : Flt) (gs : List FltStage) (us : List Int) (hg : ∀ g ∈ gs, g = ⟨0, 0, 0, 0⟩)
    (hu : ∀ u ∈ us, u = 0) : filterSamples x gs us = ⟨(us, gs), false⟩ := by
  induction us with
  | nil => rfl
  | cons u us ih =>
    obtain rfl := hu u List.mem_cons_self
    simp [filterSamples, filterCascade_zero x gs hg, ih fun v hv => hu v (List.mem_cons_of_mem _ hv), Sat.bind, Sat.map,
      Sat.ok]

/-- Settles O35. -/
theorem stageRecurrences : Obligations.StageRecurrences := by
  refine ⟨fun x g us hk hr => ?_, fun x g us hk => ?_, filterSamples_zero⟩
  · obtain ⟨hY, hsat, hlast⟩ := biquad_recurrence x hk us g hr
    exact ⟨length_filterSamples _ _ _, hY, hsat, hlast⟩
  · obtain ⟨low, high, band, notch, ⟨l1, l2, l3, l4⟩, ⟨h1, h2, h3, h4⟩, hsteps, hsat, hlast⟩ := exists_svfTrace x hk us g
    exact ⟨low, high, band, notch, l1, l2, l3, l4, h1, h2, h3, h4, hsteps, hsat, hlast⟩

end Sys2Proof.Machine
end

section
/-! PROOFS. The parts of a note slot: which of them an update may change, what it writes to them, the flags it raises,
and the cells of the sub-voice records (R57 to R67). -/

namespace Sys2Proof.Machine

/-! ## Parts -/

/-- A part of the state as the note commands see it: the note's own registers, its amplitudes, one of its slots, a
voice and its CREATED bit, NVOICES, the numbering of undef reads, an oscillator. -/
inductive Part where
  | head | amp | env (k : Nat) | lfo (k : Nat) | flt (f : Nat) | voice (v : Nat) | created (v : Nat) | budget | undef
  | osc (o : Nat)

/-- The registers of a note outside its amplitudes, envelopes, LFOs, filters and voices. -/
def Note.head (x : Note) : Note :=
  { x with gampold := 0, gampnew := 0, envs := Note.reset.envs, lfos := Note.reset.lfos, flts := Note.reset.flts,
           voices := Note.reset.voices }

/-- A voice without its CREATED bit. -/
def Voice.core (y : Voice) : Voice := { y with created := false }

/-- Two states agree on a part of note slot `n`. -/
def SamePart (n : Nat) (s t : State) : Part → Prop
  | .head => (t.note n).head = (s.note n).head
  | .amp => (t.note n).gampold = (s.note n).gampold ∧ (t.note n).gampnew = (s.note n).gampnew
  | .env k => t.env n k = s.env n k
  | .lfo k => t.lfo n k = s.lfo n k
  | .flt f => t.flt n f = s.flt n f
  | .voice v => (t.voice n v).core = (s.voice n v).core
  | .created v => (t.voice n v).created = (s.voice n v).created
  | .budget => t.nvoices = s.nvoices
  | .undef => t.undefReads = s.undefReads
  | .osc o => t.osc o = s.osc o

theorem SamePart.refl (n : Nat) (s : State) (p : Part) : SamePart n s s p := by
  cases p with
  | amp => exact ⟨rfl, rfl⟩
  | _ => exact rfl

theorem SamePart.trans {n : Nat} {s t u : State} {p : Part} (h : SamePart n s t p) (k : SamePart n t u p) :
    SamePart n s u p := by
  cases p with
  | amp => exact ⟨k.1.trans h.1, k.2.trans h.2⟩
  | _ => exact Eq.trans k h

/-- From `s` to `t` only the parts `P` of note slot `n` and the bytes `A` of memory may have changed, of all that the
note commands read. -/
structure Within (n : Nat) (P : Part → Prop) (A : Nat → Prop) (s t : State) : Prop where
  parts : ∀ p, ¬ P p → SamePart n s t p
  bytes : ∀ a, ¬ A a → t.mem.byte? a = s.mem.byte? a
  ctl : t.ctl = s.ctl
  voiceCap : t.voiceCap = s.voiceCap

/-- Two voices that agree with and without the CREATED bit are equal. -/
theorem Voice.ext_core {y z : Voice} (h : y.core = z.core) (k : y.created = z.created) : y = z := by
  cases y; cases z; simp_all [Voice.core]

section
variable {n : Nat} {P Q : Part → Prop} {A B : Nat → Prop} {s t u : State}

theorem Within.refl (s : State) : Within n P A s s := ⟨fun p _ => .refl n s p, fun _ _ => rfl, rfl, rfl⟩

theorem Within.trans (h : Within n P A s t) (k : Within n P A t u) : Within n P A s u :=
  ⟨fun p hp => (h.parts p hp).trans (k.parts p hp), fun a ha => (k.bytes a ha).trans (h.bytes a ha), k.ctl.trans h.ctl,
    k.voiceCap.trans h.voiceCap⟩

theorem Within.mono (h : Within n P A s t) (hP : ∀ p, P p → Q p) (hA : ∀ a, A a → B a) : Within n Q B s t :=
  ⟨fun p hp => h.parts p fun k => hp (hP p k), fun a ha => h.bytes a fun k => ha (hA a k), h.ctl, h.voiceCap⟩

theorem Within.env (h : Within n P A s t) {k : Nat} (hk : ¬ P (.env k)) : t.env n k = s.env n k := h.parts (.env k) hk
theorem Within.lfo (h : Within n P A s t) {k : Nat} (hk : ¬ P (.lfo k)) : t.lfo n k = s.lfo n k := h.parts (.lfo k) hk
theorem Within.flt (h : Within n P A s t) {f : Nat} (hf : ¬ P (.flt f)) : t.flt n f = s.flt n f := h.parts (.flt f) hf
theorem Within.osc (h : Within n P A s t) {o : Nat} (ho : ¬ P (.osc o)) : t.osc o = s.osc o := h.parts (.osc o) ho
theorem Within.undef (h : Within n P A s t) (hu : ¬ P .undef) : t.undefReads = s.undefReads := h.parts .undef hu
theorem Within.budget (h : Within n P A s t) (hb : ¬ P .budget) : t.nvoices = s.nvoices := h.parts .budget hb
theorem Within.head (h : Within n P A s t) (hh : ¬ P .head) : (t.note n).head = (s.note n).head := h.parts .head hh
theorem Within.core (h : Within n P A s t) {v : Nat} (hv : ¬ P (.voice v)) :
    (t.voice n v).core = (s.voice n v).core := h.parts (.voice v) hv
theorem Within.created (h : Within n P A s t) {v : Nat} (hv : ¬ P (.created v)) :
    (t.voice n v).created = (s.voice n v).created := h.parts (.created v) hv

theorem Within.voice (h : Within n P A s t) {v : Nat} (hv : ¬ P (.voice v)) (hc : ¬ P (.created v)) :
    t.voice n v = s.voice n v := Voice.ext_core (h.core hv) (h.created hc)

/-- A word whose bytes may not change. -/
theorem Within.word? (h : Within n P A s t) {a : Nat} (ha : ∀ x, wordsAt a 1 x → ¬ A x) : t.mem.word? a = s.mem.word? a :=
  word?_congr _ _ _ fun x h1 h2 => h.bytes x (ha x ⟨h1, by omega⟩)

/-- A cell whose bytes may not change, where undef reads keep their number. -/
theorem Within.cell (h : Within n P A s t) (hu : t.undefReads = s.undefReads) {a : Nat} (ha : ∀ x, wordsAt a 1 x → ¬ A x) :
    t.cell a = s.cell a := by
  rw [State.cell, State.cell, cellOf, cellOf, h.word? ha, hu]

theorem Within.written (h : Within n P A s t) {a m : Nat} (hw : s.Written a m) (ha : ∀ x, wordsAt a m x → ¬ A x) :
    t.Written a m := fun i hi => by
  rw [h.word? fun x hx => ha x (by unfold wordsAt at *; omega)]; exact hw i hi

theorem Within.foldl {α : Type} (f : State → α → State) (l : List α) (h : ∀ a ∈ l, ∀ s, Within n P A s (f s a)) (s : State) :
    Within n P A s (l.foldl f s) := by
  induction l generalizing s with
  | nil => exact .refl s
  | cons a l ih => exact (h a List.mem_cons_self s).trans (ih (fun b hb => h b (List.mem_cons_of_mem a hb)) _)

/-! ## The primitive updates -/

/-- An update of flags or results only. -/
theorem Within.of_eq (hn : t.notes = s.notes) (ho : t.oscs = s.oscs) (hm : t.mem = s.mem) (hb : t.nvoices = s.nvoices)
    (hu : t.undefReads = s.undefReads) (hc : t.ctl = s.ctl) (hv : t.voiceCap = s.voiceCap) : Within n P A s t := by
  refine ⟨fun p _ => ?_, fun a _ => by rw [hm], hc, hv⟩
  cases p <;>
    simp only [SamePart, State.env, State.lfo, State.flt, State.voice, State.note, State.osc, hn, ho, hb, hu, and_self]

theorem within_setErrIf (b : Bool) (e : ErrBit) (s : State) : Within n P A s (s.setErrIf b e) :=
  .of_eq rfl rfl rfl rfl rfl rfl rfl

theorem within_noteSat (b : Bool) (s : State) : Within n P A s (s.noteSat b) := within_setErrIf b .sat s

theorem within_setRes (a b : Word) (s : State) : Within n P A s (s.setRes a b) := .of_eq rfl rfl rfl rfl rfl rfl rfl

theorem within_touch (a m : Nat) (h : P .undef) (s : State) : Within n P A s (s.touch a m) := by
  refine ⟨fun p hp => ?_, fun _ _ => rfl, rfl, rfl⟩
  cases p with
  | undef => exact absurd h hp
  | amp => exact ⟨rfl, rfl⟩
  | _ => exact rfl

theorem within_touchAll (rs : List (Nat × Nat)) (h : P .undef) (s : State) : Within n P A s (s.touchAll rs) :=
  Within.foldl _ rs (fun r _ => within_touch r.1 r.2 h) s

theorem within_nvoices (x : BitVec 8) (h : P .budget) (s : State) : Within n P A s { s with nvoices := x } := by
  refine ⟨fun p hp => ?_, fun _ _ => rfl, rfl, rfl⟩
  cases p with
  | budget => exact absurd h hp
  | amp => exact ⟨rfl, rfl⟩
  | _ => exact rfl

theorem within_setCells (a : Nat) (ws : List Word) (h : ∀ x, wordsAt a ws.length x → A x) (s : State) :
    Within n P A s (s.setCells a ws) := by
  refine ⟨fun p _ => ?_, fun x hx => ?_, rfl, rfl⟩
  · cases p with
    | amp => exact ⟨rfl, rfl⟩
    | _ => exact rfl
  · rw [setCells_mem, byte?_splice, if_neg]
    intro k
    exact hx (h x ⟨k.1, by simpa using k.2⟩)

theorem setCell_eq (s : State) (a : Nat) (w : Word) : s.setCell a w = s.setCells a [w] := by
  simp [State.setCell, State.setCells, bytesOf]

theorem within_setCell (a : Nat) (w : Word) (h : ∀ x, wordsAt a 1 x → A x) (s : State) :
    Within n P A s (s.setCell a w) := by rw [setCell_eq]; exact within_setCells a [w] h s

theorem within_setSignedCells (a : Nat) (xs : List Int) (h : ∀ x, wordsAt a xs.length x → A x) (s : State) :
    Within n P A s (s.setSignedCells a xs) := within_setCells a _ (by simpa using h) s

theorem within_setOsc (o : Nat) (x : Osc) (h : P (.osc o)) (s : State) : Within n P A s (s.setOsc o x) := by
  refine ⟨fun p hp => ?_, fun _ _ => rfl, rfl, rfl⟩
  cases p with
  | osc q => exact osc_setOsc_ne _ _ _ _ fun he => hp (he ▸ h)
  | amp => exact ⟨rfl, rfl⟩
  | _ => exact rfl

/-- What replacing a note keeps of memory, budget and oscillators, and of every part on which the two notes agree. -/
theorem within_setNote (x : Note) (s : State)
    (hh : ¬ P .head → x.head = (s.note n).head)
    (ha : ¬ P .amp → x.gampold = (s.note n).gampold ∧ x.gampnew = (s.note n).gampnew)
    (he : ∀ k, ¬ P (.env k) → x.env k = (s.note n).env k) (hl : ∀ k, ¬ P (.lfo k) → x.lfo k = (s.note n).lfo k)
    (hf : ∀ k, ¬ P (.flt k) → x.flt k = (s.note n).flt k)
    (hv : ∀ v, ¬ P (.voice v) → (x.voice v).core = ((s.note n).voice v).core)
    (hc : ∀ v, ¬ P (.created v) → (x.voice v).created = ((s.note n).voice v).created) :
    Within n P A s (s.setNote n x) := by
  by_cases hn : n < 16
  · have hx : (s.setNote n x).note n = x := note_setNote_self s n x hn
    refine ⟨fun p hp => ?_, fun _ _ => rfl, rfl, rfl⟩
    cases p <;> simp only [SamePart, State.env, State.lfo, State.flt, State.voice, hx]
    case head => exact hh hp
    case amp => exact ha hp
    case env k => exact he k hp
    case lfo k => exact hl k hp
    case flt k => exact hf k hp
    case voice v => exact hv v hp
    case created v => exact hc v hp
    case budget => rfl
    case undef => rfl
    case osc => rfl
  · rw [setNote_of_le s n x (Nat.le_of_not_lt hn)]; exact .refl s

theorem within_setEnv (k : Nat) (e : Env) (h : P (.env k)) (s : State) : Within n P A s (s.setEnv n k e) :=
  within_setNote _ s (fun _ => rfl) (fun _ => ⟨rfl, rfl⟩)
    (fun j hj => (Note.env_set _ k j e).trans (if_neg fun (hk : k = j ∧ k < 27) => hj (hk.1 ▸ h))) (fun _ _ => rfl) (fun _ _ => rfl)
    (fun _ _ => rfl) (fun _ _ => rfl)

theorem within_setLfo (k : Nat) (l : Lfo) (h : P (.lfo k)) (s : State) : Within n P A s (s.setLfo n k l) :=
  within_setNote _ s (fun _ => rfl) (fun _ => ⟨rfl, rfl⟩) (fun _ _ => rfl)
    (fun j hj => (Note.lfo_set _ k j l).trans (if_neg fun (hk : k = j ∧ k < 27) => hj (hk.1 ▸ h))) (fun _ _ => rfl) (fun _ _ => rfl)
    (fun _ _ => rfl)

theorem within_setFlt (f : Nat) (x : Flt) (h : P (.flt f)) (s : State) : Within n P A s (s.setFlt n f x) :=
  within_setNote _ s (fun _ => rfl) (fun _ => ⟨rfl, rfl⟩) (fun _ _ => rfl) (fun _ _ => rfl)
    (fun j hj => (Note.flt_set _ f j x).trans (if_neg fun (hk : f = j ∧ f < 18) => hj (hk.1 ▸ h))) (fun _ _ => rfl) (fun _ _ => rfl)

theorem within_setVoice (v : Nat) (y : Voice) (s : State) (hv : P (.voice v) ∨ y.core = (s.voice n v).core)
    (hc : P (.created v) ∨ y.created = (s.voice n v).created) : Within n P A s (s.setVoice n v y) := by
  have key : ∀ w, ((s.note n).voices.setIfInBounds v y)[w]?.getD default = if v = w ∧ v < 8 then y else s.voice n w :=
    fun w => Note.voice_set _ v w y
  refine within_setNote _ s (fun _ => rfl) (fun _ => ⟨rfl, rfl⟩) (fun _ _ => rfl) (fun _ _ => rfl) (fun _ _ => rfl)
    (fun w hw => ?_) (fun w hw => ?_)
  · rw [Note.voice, key]
    split
    · next h => obtain ⟨rfl, _⟩ := h; exact hv.resolve_left hw
    · rfl
  · rw [Note.voice, key]
    split
    · next h => obtain ⟨rfl, _⟩ := h; exact hc.resolve_left hw
    · rfl

theorem within_modVoice (v : Nat) (f : Voice → Voice) (s : State)
    (hv : P (.voice v) ∨ (f (s.voice n v)).core = (s.voice n v).core)
    (hc : P (.created v) ∨ (f (s.voice n v)).created = (s.voice n v).created) :
    Within n P A s (s.modVoice n v f) := within_setVoice v _ s hv hc

end

/-! ## What the updates write -/

section
variable (s : State) (n : Nat)

theorem env_setEnv (k : Nat) (e : Env) (hn : n < 16) (hk : k < 27) : (s.setEnv n k e).env n k = e := by
  rw [State.env, State.setEnv, note_modNote_self _ _ _ hn, Note.env_set, if_pos ⟨rfl, hk⟩]

theorem lfo_setLfo (k : Nat) (l : Lfo) (hn : n < 16) (hk : k < 27) : (s.setLfo n k l).lfo n k = l := by
  rw [State.lfo, State.setLfo, note_modNote_self _ _ _ hn, Note.lfo_set, if_pos ⟨rfl, hk⟩]

theorem flt_setFlt (f : Nat) (x : Flt) (hn : n < 16) (hf : f < 18) : (s.setFlt n f x).flt n f = x := by
  rw [State.flt, State.setFlt, note_modNote_self _ _ _ hn, Note.flt_set, if_pos ⟨rfl, hf⟩]

theorem voice_setVoice (v : Nat) (y : Voice) (hn : n < 16) (hv : v < 8) : (s.setVoice n v y).voice n v = y := by
  rw [State.voice, State.setVoice, note_modNote_self _ _ _ hn, Note.voice_set, if_pos ⟨rfl, hv⟩]

theorem voice_modVoice (v : Nat) (f : Voice → Voice) (hn : n < 16) (hv : v < 8) :
    (s.modVoice n v f).voice n v = f (s.voice n v) := voice_setVoice s n v _ hn hv

end

/-! ## Flags -/

/-- A flag of ERR, raised if `b`. -/
def flag (b : Bool) (e : ErrBit) : BitVec 8 := if b then BitVec.twoPow 8 e.pos else 0

@[simp] theorem flag_false (e : ErrBit) : flag false e = 0#8 := rfl

theorem getLsbD_flag (b : Bool) (e : ErrBit) (i : Nat) : (flag b e).getLsbD i = (b && decide (i = e.pos)) := by
  have hp : e.pos < 8 := by cases e <;> decide
  cases b with
  | false => simp
  | true =>
    show (BitVec.twoPow 8 e.pos).getLsbD i = _
    rw [BitVec.getLsbD_twoPow]
    by_cases h : i = e.pos
    · subst h; simp [hp]
    · simp [h, Ne.symm h]

theorem flag_or (a b : Bool) (e : ErrBit) : flag (a || b) e = flag a e ||| flag b e := by
  cases a <;> cases b <;> simp [flag]

section
variable (s : State)

theorem err_setErrIf (b : Bool) (e : ErrBit) : (s.setErrIf b e).err = s.err ||| flag b e := by
  cases b <;> simp [State.setErrIf, flag]

theorem err_noteSat (b : Bool) : (s.noteSat b).err = s.err ||| flag b .sat := err_setErrIf s b .sat

@[simp] theorem err_touchAll (rs : List (Nat × Nat)) : (s.touchAll rs).err = s.err := by
  induction rs generalizing s with
  | nil => rfl
  | cons r rs ih => exact ih _

@[simp] theorem err_touchUni (n v cnt : Nat) (f : UniField) : (s.touchUni n v cnt f).err = s.err := err_touchAll s _

@[simp] theorem err_touchPhases (n v cnt : Nat) (hi lo : UniField) : (s.touchPhases n v cnt hi lo).err = s.err := by
  simp [State.touchPhases]

@[simp] theorem err_setUni (n v : Nat) (f : UniField) (ws : List Word) : (s.setUni n v f ws).err = s.err := by
  unfold State.setUni
  generalize List.range ws.length = l
  induction l generalizing s with
  | nil => rfl
  | cons k l ih => exact ih _

@[simp] theorem err_setPhases (n v : Nat) (hi lo : UniField) (ps : List Nat) : (s.setPhases n v hi lo ps).err = s.err := by
  unfold State.setPhases
  generalize List.range ps.length = l
  induction l generalizing s with
  | nil => rfl
  | cons k l ih => exact ih _

end

/-! ## Reads -/

/-- A written block is no undef read. -/
theorem touch_of_written (s : State) (a m : Nat) (h : s.Written a m) : s.touch a m = s := by
  refine touch_of_defined s a m ?_
  by_contra hd
  obtain ⟨i, hi, hn⟩ := (definedIn_eq_false s.mem a m).1 (by simpa using hd)
  have := h i hi
  rw [hn] at this
  cases this

theorem touchAll_of_written (s : State) (rs : List (Nat × Nat)) (h : ∀ r ∈ rs, s.Written r.1 r.2) : s.touchAll rs = s := by
  induction rs with
  | nil => rfl
  | cons r rs ih =>
    show (s.touch r.1 r.2).touchAll rs = s
    rw [touch_of_written _ _ _ (h r List.mem_cons_self)]
    exact ih fun r hr => h r (List.mem_cons_of_mem _ hr)

theorem State.Written.mono {s : State} {a m b k : Nat} (h : s.Written a m) (hb : ∃ d, b = a + 4 * d ∧ d + k ≤ m) :
    s.Written b k := by
  obtain ⟨d, rfl, hd⟩ := hb
  intro i hi
  rw [show a + 4 * d + 4 * i = a + 4 * (d + i) by omega]
  exact h (d + i) (by omega)

theorem touchUni_of_written (s : State) (n v cnt : Nat) (f : UniField)
    (h : ∀ k, k < cnt → s.Written (uniAddr n v k + f.offset) 1) : s.touchUni n v cnt f = s := by
  refine touchAll_of_written s _ fun r hr => ?_
  obtain ⟨k, hk, rfl⟩ := List.mem_map.1 hr
  exact h k (List.mem_range.1 hk)

theorem touchPhases_of_written (s : State) (n v cnt : Nat) (hi lo : UniField)
    (h1 : ∀ k, k < cnt → s.Written (uniAddr n v k + hi.offset) 1)
    (h2 : ∀ k, k < cnt → s.Written (uniAddr n v k + lo.offset) 1) : s.touchPhases n v cnt hi lo = s := by
  rw [State.touchPhases, touchUni_of_written s n v cnt hi h1, touchUni_of_written s n v cnt lo h2]

/-- A written cell reads as its word, however many undef reads there were. -/
theorem cell_of_word? {s : State} {a : Nat} {w : Word} (h : s.mem.word? a = some w) : s.cell a = w := by
  simp [State.cell, cellOf, h]

/-! ## Cells of the sub-voice records -/

theorem UniField.offset_lt (f : UniField) : f.offset < 0x40 := by cases f <;> decide

theorem UniField.offset_mod (f : UniField) : f.offset % 4 = 0 := by cases f <;> decide

theorem UniField.offset_injective {f g : UniField} (h : f.offset = g.offset) : f = g := by
  revert h; cases f <;> cases g <;> decide

/-- Two cells of sub-voice records of a voice are the same cell or lie apart. -/
theorem uniCell_apart (n v j k : Nat) (f g : UniField) (h : ¬ (j = k ∧ f = g)) :
    uniAddr n v k + g.offset + 4 ≤ uniAddr n v j + f.offset ∨ uniAddr n v j + f.offset + 4 ≤ uniAddr n v k + g.offset := by
  have hf := f.offset_lt; have hg := g.offset_lt
  have hf4 := f.offset_mod; have hg4 := g.offset_mod
  simp only [uniAddr]
  rcases Nat.lt_trichotomy j k with hj | rfl | hj
  · omega
  · have : f.offset ≠ g.offset := fun he => h ⟨rfl, UniField.offset_injective he⟩
    omega
  · omega

theorem cell_setCell (s : State) (a : Nat) (w : Word) : (s.setCell a w).cell a = w := by
  rw [setCell_eq]; exact cell_setCells s a [w] 0 (by simp)

theorem cell_setCell_of_disjoint (s : State) (a x : Nat) (w : Word) (h : x + 4 ≤ a ∨ a + 4 ≤ x) :
    (s.setCell a w).cell x = s.cell x := by
  rw [setCell_eq]; exact cell_setCells_of_disjoint s a [w] x (by simpa using h)

/-- A cell of a sub-voice record after another one, or the same one, was stored. -/
theorem uniCell_setCell (s : State) (n v j k : Nat) (f g : UniField) (w : Word) :
    (s.setCell (uniAddr n v j + f.offset) w).cell (uniAddr n v k + g.offset) =
      if j = k ∧ f = g then w else s.cell (uniAddr n v k + g.offset) := by
  split
  · next h => obtain ⟨rfl, rfl⟩ := h; exact cell_setCell _ _ _
  · next h => exact cell_setCell_of_disjoint _ _ _ _ (uniCell_apart n v j k f g h)

/-- The state after the records of `l` were stored one after the other. -/
theorem uniCell_foldl_setCell (n v : Nat) (f g : UniField) (F : Nat → Word) (l : List Nat) (s : State) (k : Nat) :
    (l.foldl (fun t j => t.setCell (uniAddr n v j + f.offset) (F j)) s).cell (uniAddr n v k + g.offset) =
      if k ∈ l ∧ f = g then F k else s.cell (uniAddr n v k + g.offset) := by
  induction l generalizing s with
  | nil => simp
  | cons j l ih =>
    rw [List.foldl_cons, ih, uniCell_setCell]
    by_cases hl : k ∈ l ∧ f = g
    · rw [if_pos hl, if_pos ⟨List.mem_cons_of_mem j hl.1, hl.2⟩]
    · rw [if_neg hl]
      by_cases hj : j = k ∧ f = g
      · rw [if_pos hj, if_pos ⟨hj.1 ▸ List.mem_cons_self, hj.2⟩, hj.1]
      · rw [if_neg hj, if_neg]
        rintro ⟨hk, hf⟩
        rcases List.mem_cons.1 hk with rfl | hk
        · exact hj ⟨rfl, hf⟩
        · exact hl ⟨hk, hf⟩

/-- A cell of a sub-voice record after one field of the records was stored. -/
theorem uniCell_setUni (s : State) (n v k : Nat) (f g : UniField) (ws : List Word) :
    (s.setUni n v f ws).cell (uniAddr n v k + g.offset) =
      if k < ws.length ∧ f = g then ws.getD k 0 else s.cell (uniAddr n v k + g.offset) := by
  simp only [State.setUni, uniCell_foldl_setCell, List.mem_range]

/-- A cell of a sub-voice record after one phase of the records was stored. -/
theorem uniCell_setPhases (s : State) (n v k : Nat) (hi lo g : UniField) (ps : List Nat) (hne : hi ≠ lo) :
    (s.setPhases n v hi lo ps).cell (uniAddr n v k + g.offset) =
      if k < ps.length ∧ hi = g then BitVec.ofNat 32 (ps.getD k 0 / 16777216)
      else if k < ps.length ∧ lo = g then BitVec.ofNat 32 (ps.getD k 0 % 16777216)
      else s.cell (uniAddr n v k + g.offset) := by
  have key : ∀ (l : List Nat) (s : State),
      (l.foldl (fun t j => t.setPhase n v j hi lo (ps.getD j 0)) s).cell (uniAddr n v k + g.offset) =
        if k ∈ l ∧ hi = g then BitVec.ofNat 32 (ps.getD k 0 / 16777216)
        else if k ∈ l ∧ lo = g then BitVec.ofNat 32 (ps.getD k 0 % 16777216)
        else s.cell (uniAddr n v k + g.offset) := by
    intro l
    induction l with
    | nil => intro s; simp
    | cons j l ih =>
      intro s
      rw [List.foldl_cons, ih, State.setPhase, uniCell_setCell, uniCell_setCell]
      by_cases hj : j = k
      · subst hj
        by_cases h1 : hi = g
        · have h2 : ¬ lo = g := fun h => hne (h1.trans h.symm)
          simp [h1, h2]
        · by_cases h2 : lo = g <;> simp [h1, h2]
      · simp [hj, Ne.symm hj]
  simp only [State.setPhases, key, List.mem_range]

/-- A phase below PHMOD reads back as it was stored (R66). -/
theorem phase_setPhases (s : State) (n v k : Nat) (hi lo : UniField) (ps : List Nat) (hne : hi ≠ lo) (hk : k < ps.length)
    (hp : ps.getD k 0 < 17179869184) : (s.setPhases n v hi lo ps).phase n v k hi lo = ps.getD k 0 := by
  simp only [State.phase, uniCell_setPhases _ _ _ _ _ _ _ _ hne, hk, hne, true_and, if_true, if_false, BitVec.toNat_ofNat]
  generalize ps.getD k 0 = p at hp
  omega

/-- The phases of other fields, and of records that were not stored, stay. -/
theorem phase_setPhases_of_ne (s : State) (n v k : Nat) (hi lo hi' lo' : UniField) (ps : List Nat) (hne : hi ≠ lo)
    (h : hi ≠ hi' ∧ hi ≠ lo' ∧ lo ≠ hi' ∧ lo ≠ lo') : (s.setPhases n v hi lo ps).phase n v k hi' lo' = s.phase n v k hi' lo' := by
  obtain ⟨h1, h2, h3, h4⟩ := h
  simp only [State.phase, uniCell_setPhases _ _ _ _ _ _ _ _ hne, h1, h2, h3, h4, and_false, if_false]

theorem phase_lt (s : State) (n v k : Nat) (hi lo : UniField) : s.phase n v k hi lo < 17179869184 := by
  unfold State.phase; omega

end Sys2Proof.Machine
end

section
/-! PROOFS. The modulation sources of NOTE.OUT (R330): what one call of an envelope and one of an LFO read, return, write
and raise, and that they are the calls of ENV.OUTDB, ENV.OUT and LFO.OUT. -/

namespace Sys2Proof.Machine

/-! ## One envelope and one LFO -/

/-- The envelope call of NOTE.OUT on slot k: EnvOutDb on an amplitude envelope, EnvStep on the others (R330). -/
def sourceStep (s : State) (n k : Nat) : EnvCall := if k % 3 = 0 then envOutDb s n k else envStep s n k

/-- The state after the calls of the envelope and the LFO of slot k (R330). -/
def sourceRun (n k : Nat) (s : State) : State := (runLfoStep n k (performCall n k (sourceStep s n k) s).st).st

/-- The two parts of slot k and the numbering of undef reads. -/
def sourceParts (k : Nat) : Part → Prop := fun p => p = .env k ∨ p = .lfo k ∨ p = .undef

theorem within_performCall (n k : Nat) (r : EnvCall) (s : State) :
    Within n (fun p => p = .env k ∨ p = .undef) nowhere s (performCall n k r s).st :=
  ((within_noteSat r.sat s).trans (within_touchAll _ (.inr rfl) _)).trans (within_setEnv k _ (.inl rfl) _)

theorem within_runLfoStep (n k : Nat) (s : State) :
    Within n (fun p => p = .lfo k) nowhere s (runLfoStep n k s).st :=
  (within_noteSat _ s).trans (within_setLfo (P := fun p => p = .lfo k) k _ rfl _)

theorem within_sourceRun (n k : Nat) (s : State) : Within n (sourceParts k) nowhere s (sourceRun n k s) :=
  ((within_performCall n k _ s).mono (fun _ h => h.elim .inl fun h => .inr (.inr h)) fun _ h => h).trans
    ((within_runLfoStep n k _).mono (fun _ h => .inr (.inl h)) fun _ h => h)

section
variable {n k : Nat} (s : State)

theorem env_performCall (r : EnvCall) (hn : n < 16) (hk : k < 27) :
    (performCall n k r s).st.env n k = { r.env with eret := toWord r.out } := env_setEnv _ _ _ _ hn hk

theorem lfo_runLfoStep (hn : n < 16) (hk : k < 27) : (runLfoStep n k s).st.lfo n k = (s.lfo n k).next :=
  lfo_setLfo _ _ _ _ hn hk

theorem env_sourceRun (hn : n < 16) (hk : k < 27) :
    (sourceRun n k s).env n k = { (sourceStep s n k).env with eret := toWord (sourceStep s n k).out } :=
  ((within_runLfoStep n k _).env (by simp)).trans (env_performCall s _ hn hk)

theorem lfo_sourceRun (hn : n < 16) (hk : k < 27) : (sourceRun n k s).lfo n k = (s.lfo n k).next :=
  (lfo_runLfoStep _ hn hk).trans (congrArg Lfo.next ((within_performCall n k _ s).lfo (by simp)))

theorem err_performCall (r : EnvCall) : (performCall n k r s).st.err = s.err ||| flag r.sat .sat := by
  simp [performCall, State.setEnv, State.modNote, err_noteSat]

theorem err_runLfoStep : (runLfoStep n k s).st.err = s.err ||| flag (s.lfo n k).output.sat .sat := by
  simp [runLfoStep, State.setLfo, State.modNote, err_noteSat]

theorem err_sourceRun : (sourceRun n k s).err =
    s.err ||| flag ((sourceStep s n k).sat || (s.lfo n k).output.sat) .sat := by
  rw [sourceRun, err_runLfoStep, err_performCall, (within_performCall n k _ s).lfo (by simp), flag_or, BitVec.or_assoc]

end

/-! ## The values of the calls -/

theorem segmentOut_range (a b : Int) (et : Word) (dt : Nat) (h1 : -2147483648 ≤ b) (h2 : b ≤ 2147483647) :
    -2147483648 ≤ (segmentOut a b et dt).val ∧ (segmentOut a b et dt).val ≤ 2147483647 := by
  unfold segmentOut
  split
  · exact ⟨h1, h2⟩
  · exact sat32_range _

theorem envStep_range (s : State) (n k : Nat) : -2147483648 ≤ (envStep s n k).out ∧ (envStep s n k).out ≤ 2147483647 := by
  unfold envStep
  dsimp only
  split
  · show (-2147483648 : Int) ≤ 0 ∧ (0 : Int) ≤ 2147483647; decide
  · exact toInt_range _
  · exact toInt_range _
  · exact segmentOut_range _ _ _ _ (toInt_range _).1 (toInt_range _).2
  · exact segmentOut_range _ _ _ _ (toInt_range _).1 (toInt_range _).2

theorem db2lin_range (x : Int) : -2147483648 ≤ db2lin x ∧ db2lin x ≤ 2147483647 := by
  have := db2lin_bounds x; omega

theorem envOutDb_range (s : State) (n k : Nat) :
    -2147483648 ≤ (envOutDb s n k).out ∧ (envOutDb s n k).out ≤ 2147483647 := by
  unfold envOutDb
  dsimp only
  split
  · exact envStep_range s n k
  · split
    · exact segmentOut_range _ _ _ _ (db2lin_range _).1 (db2lin_range _).2
    · exact db2lin_range _

/-- ERET after the call is the value it returns (R236, R242). -/
theorem ret_sourceRun {n k : Nat} (s : State) (hn : n < 16) (hk : k < 27) :
    (sourceRun n k s).ret n k = (sourceStep s n k).out := by
  rw [State.ret, env_sourceRun s hn hk]
  unfold sourceStep
  split
  · exact toInt_toWord _ (envOutDb_range s n k).1 (envOutDb_range s n k).2
  · exact toInt_toWord _ (envStep_range s n k).1 (envStep_range s n k).2

/-- LOUT after the call is the value it returns (R257). -/
theorem lout_next (l : Lfo) : l.next.lout.toInt = l.output.val := by
  unfold Lfo.next Lfo.output
  by_cases h : l.ldcnt = 0
  · simp only [if_pos h]; exact toInt_toWord_sat32 _
  · simp only [if_neg h]; rfl

theorem lout_sourceRun {n k : Nat} (s : State) (hn : n < 16) (hk : k < 27) :
    (sourceRun n k s).lout n k = (s.lfo n k).output.val := by
  rw [State.lout, lfo_sourceRun s hn hk, lout_next]

/-! ## What the calls read -/

/-- The bytes of a note slot below its output buffers: among them the tables of its envelopes. -/
def tableBytes (n : Nat) : Nat → Prop := fun a => noteBase n ≤ a ∧ a < noteBase n + 0x8000

/-- From `s` to `t` nothing has changed that the sources of slot k read. -/
structure SourceKept (n k : Nat) (s t : State) : Prop where
  env : t.env n k = s.env n k
  lfo : t.lfo n k = s.lfo n k
  cell : ∀ a, (∀ x, wordsAt a 1 x → tableBytes n x) → t.cell a = s.cell a

theorem Within.sourceKept {n k : Nat} {P : Part → Prop} {A : Nat → Prop} {s t : State} (h : Within n P A s t)
    (he : ¬ P (.env k)) (hl : ¬ P (.lfo k)) (hu : t.undefReads = s.undefReads) (hA : ∀ x, tableBytes n x → ¬ A x) :
    SourceKept n k s t :=
  ⟨h.env he, h.lfo hl, fun _ ha => h.cell hu fun x hx => hA x (ha x hx)⟩

theorem releaseSegment_le (e : Env) : e.releaseSegment ≤ 256 := by
  have := e.enpts.isLt; have := e.esust.isLt
  unfold Env.releaseSegment
  split <;> omega

section
variable {n k : Nat} {s t : State} (h : SourceKept n k s t) (hk : k < 27)
include h hk

theorem SourceKept.val (i : Nat) (hi : i ≤ 256) : t.val n k i = s.val n k i :=
  congrArg BitVec.toInt (h.cell _ fun x hx => by simp only [wordsAt, tableBytes, valAddr, envBase] at *; omega)

theorem SourceKept.dt (i : Nat) (hi : i ≤ 256) : t.dt n k i = s.dt n k i :=
  congrArg BitVec.toNat (h.cell _ fun x hx => by simp only [wordsAt, tableBytes, dtAddr, envBase] at *; omega)

theorem SourceKept.valCell (i : Nat) (hi : i ≤ 256) : t.cell (valAddr n k i) = s.cell (valAddr n k i) :=
  h.cell _ fun x hx => by simp only [wordsAt, tableBytes, valAddr, envBase] at *; omega

theorem SourceKept.finishesEarly (e : Env) : finishesEarly t n k e = finishesEarly s n k e := by
  have hr : restIsFloor t n k e = restIsFloor s n k e := by
    unfold restIsFloor
    rw [Bool.eq_iff_iff]
    simp only [List.all_eq_true, List.mem_range]
    refine forall₂_congr fun i hi => ?_
    rw [h.val hk i (by have := e.enpts.isLt; omega)]
  rw [Machine.finishesEarly, Machine.finishesEarly, hr]

theorem SourceKept.envStep : envStep t n k = envStep s n k := by
  have hb : ∀ b : BitVec 8, b.toNat ≤ 256 ∧ b.toNat - 1 ≤ 256 := fun b => by have := b.isLt; omega
  have hr := releaseSegment_le
  unfold Machine.envStep
  simp only [h.env, segmentStart]
  cases (s.env n k).callCase <;>
    simp only [h.val hk _ (hb _).1, h.val hk _ (hb _).2, h.dt hk _ (hb _).1, h.val hk _ (hr _), h.dt hk _ (hr _),
      h.valCell hk _ (hb _).1, h.finishesEarly hk]

theorem SourceKept.envOutDb : envOutDb t n k = envOutDb s n k := by
  unfold Machine.envOutDb envFirstDb
  simp only [h.env, h.envStep hk, h.val hk 1 (by decide), h.dt hk 1 (by decide), h.valCell hk 1 (by decide)]

theorem SourceKept.sourceStep : sourceStep t n k = sourceStep s n k := by
  unfold Machine.sourceStep
  rw [h.envStep hk, h.envOutDb hk]

end

/-! ## Ready sources -/

/-- The cells that the calls of slot k read are written. -/
def SourceReady (s : State) (n k : Nat) : Prop :=
  (s.env n k).Inv ∧ s.Written (dtAddr n k 0) (s.env n k).enpts.toNat ∧ s.Written (valAddr n k 0) (s.env n k).enpts.toNat

/-- A call reads its tables below ENPTS only (R231). -/
theorem envReads_bounds (n k : Nat) (e : Env) (h : e.Inv) : ∀ r ∈ envReads n k e, ∃ i,
    i + r.2 ≤ e.enpts.toNat ∧ (r.1 = dtAddr n k i ∨ r.1 = valAddr n k i) := by
  intro r hr
  by_cases h0 : e.enpts = 0
  · have hc : e.callCase = .unconfigured := if_pos h0
    simp [envReads, hc] at hr
  have hpos : 0 < e.enpts.toNat := by
    rcases Nat.eq_zero_or_pos e.enpts.toNat with hz | hz
    · exact absurd (BitVec.eq_of_toNat_eq hz) h0
    · exact hz
  obtain ⟨_, hs, _, hc, hf, _⟩ := h.resolve_left h0
  have hrel : e.releaseSegment < e.enpts.toNat := by
    unfold Env.releaseSegment
    rcases hs with hs | hs
    · rw [if_pos hs]; omega
    · split <;> omega
  unfold envReads at hr
  split at hr
  · cases hr
  · obtain rfl := List.mem_singleton.1 hr
    exact ⟨e.enpts.toNat - 1, by dsimp only; omega, .inr rfl⟩
  · next hcase =>
    obtain rfl := List.mem_singleton.1 hr
    refine ⟨e.esust.toNat, ?_, .inr rfl⟩
    have hsus : e.esust ≠ noSustain := by
      intro he
      unfold Env.callCase at hcase
      rw [if_neg h0] at hcase
      simp only [he, ne_eq, not_true_eq_false, false_and, if_false] at hcase
      split_ifs at hcase
    have := hs.resolve_left hsus
    dsimp only
    split <;> omega
  · rcases List.mem_cons.1 hr with rfl | hr
    · exact ⟨e.releaseSegment, hrel, .inl rfl⟩
    · obtain rfl := List.mem_singleton.1 hr
      exact ⟨e.releaseSegment, hrel, .inr rfl⟩
  · next hcase =>
    have hfin : e.finished = false := by
      by_contra hfin
      unfold Env.callCase at hcase
      rw [if_neg h0, if_pos (by simpa using hfin)] at hcase
      cases hcase
    have hlt := hf hfin
    rcases List.mem_append.1 hr with hr | hr
    · rcases List.mem_cons.1 hr with rfl | hr
      · exact ⟨e.ecur.toNat, hlt, .inl rfl⟩
      · obtain rfl := List.mem_singleton.1 hr
        exact ⟨e.ecur.toNat, hlt, .inr rfl⟩
    · split at hr
      · cases hr
      · obtain rfl := List.mem_singleton.1 hr
        exact ⟨e.ecur.toNat - 1, by dsimp only; omega, .inr rfl⟩

theorem SourceReady.reads {n k : Nat} {s : State} (h : SourceReady s n k) :
    ∀ r ∈ envReads n k (s.env n k), s.Written r.1 r.2 := by
  intro r hr
  obtain ⟨i, hi, ha | ha⟩ := envReads_bounds n k _ h.1 r hr
  · exact h.2.1.mono ⟨i, by rw [ha]; simp [dtAddr], hi⟩
  · exact h.2.2.mono ⟨i, by rw [ha]; simp [valAddr], hi⟩

/-- The calls of a ready slot read no undef cell. -/
theorem SourceReady.undefReads {n k : Nat} {s : State} (h : SourceReady s n k) :
    (sourceRun n k s).undefReads = s.undefReads := by
  have ht : ((s.noteSat (sourceStep s n k).sat).touchAll (envReads n k (s.env n k))) = s.noteSat (sourceStep s n k).sat :=
    touchAll_of_written _ _ h.reads
  exact ((within_runLfoStep n k _).undef (by simp)).trans (congrArg State.undefReads ht :)

theorem Within.sourceReady {n k : Nat} {P : Part → Prop} {A : Nat → Prop} {s t : State} (h : Within n P A s t)
    (he : ¬ P (.env k)) (hk : k < 27) (hA : ∀ x, tableBytes n x → ¬ A x) (hr : SourceReady s n k) : SourceReady t n k := by
  have hi := (s.env n k).enpts.isLt
  rw [SourceReady, h.env he]
  refine ⟨hr.1, h.written hr.2.1 fun x hx => hA x ?_, h.written hr.2.2 fun x hx => hA x ?_⟩ <;>
    simp only [wordsAt, tableBytes, valAddr, dtAddr, envBase] at * <;> omega

/-! ## The six calls (R330) -/

/-- The parts that the six calls from slot `base` on may change. -/
def sourcesParts (base : Nat) : Part → Prop := fun p =>
  p = .undef ∨ ∃ j, j < 3 ∧ (p = .env (base + j) ∨ p = .lfo (base + j))

theorem sourceParts_le {base j : Nat} (hj : j < 3) (p : Part) (h : sourceParts (base + j) p) : sourcesParts base p := by
  rcases h with h | h | h
  · exact .inr ⟨j, hj, .inl h⟩
  · exact .inr ⟨j, hj, .inr h⟩
  · exact .inl h

section
variable (n base : Nat) (s : State) (hb : base % 3 = 0)

include hb in
theorem runSources_st :
    (runSources n base s).st = sourceRun n (base + 2) (sourceRun n (base + 1) (sourceRun n base s)) := by
  simp only [sourceRun, sourceStep, hb, show (base + 1) % 3 ≠ 0 by omega, show (base + 2) % 3 ≠ 0 by omega, if_true,
    if_false]
  rfl

include hb in
theorem within_runSources : Within n (sourcesParts base) nowhere s (runSources n base s).st := by
  rw [runSources_st n base s hb]
  have step := fun j (hj : j < 3) t => (within_sourceRun n (base + j) t).mono (sourceParts_le hj) fun _ h => h
  exact ((step 0 (by decide) s).trans (step 1 (by decide) _)).trans (step 2 (by decide) _)

variable (hn : n < 16) (hk : base + 2 < 27)

include hb hn hk in
/-- The values of the six calls stand in ERET and LOUT after them. -/
theorem runSources_outs :
    let m := runSources n base s
    m.a = m.st.ret n base ∧ m.al = m.st.lout n base ∧ m.f = m.st.ret n (base + 1) ∧ m.fl = m.st.lout n (base + 1) ∧
      m.c = m.st.ret n (base + 2) ∧ m.cl = m.st.lout n (base + 2) := by
  have e1 : (base + 1) % 3 ≠ 0 := by omega
  have e2 : (base + 2) % 3 ≠ 0 := by omega
  have keepE : ∀ i j t, i ≠ j → (sourceRun n j t).ret n i = t.ret n i := fun i j t hij =>
    congrArg (fun e : Env => e.eret.toInt) ((within_sourceRun n j t).env (by simp [sourceParts, hij]))
  have keepL : ∀ i j t, i ≠ j → (sourceRun n j t).lout n i = t.lout n i := fun i j t hij =>
    congrArg (fun e : Lfo => e.lout.toInt) ((within_sourceRun n j t).lfo (by simp [sourceParts, hij]))
  have lfoK : ∀ k t, ((performCall n k (sourceStep t n k) t).st.lfo n k).output.val = (t.lfo n k).output.val := fun k t => by
    rw [(within_performCall n k _ t).lfo (by simp)]
  dsimp only
  rw [runSources_st n base s hb]
  refine ⟨?_, ?_, ?_, ?_, ?_, ?_⟩
  · rw [keepE _ _ _ (by omega), keepE _ _ _ (by omega), ret_sourceRun s hn (by omega), sourceStep, if_pos hb]; rfl
  · rw [keepL _ _ _ (by omega), keepL _ _ _ (by omega), lout_sourceRun s hn (by omega), ← lfoK base s, sourceStep, if_pos hb]
    rfl
  · rw [keepE _ _ _ (by omega), ret_sourceRun _ hn (by omega), sourceRun, sourceStep, if_neg e1, sourceStep, if_pos hb]; rfl
  · rw [keepL _ _ _ (by omega), lout_sourceRun _ hn (by omega), ← lfoK (base + 1), sourceRun, sourceStep, sourceStep,
      if_neg e1, if_pos hb]
    rfl
  · rw [ret_sourceRun _ hn (by omega), sourceRun, sourceRun, sourceStep, if_neg e2, sourceStep, if_neg e1, sourceStep,
      if_pos hb]
    rfl
  · rw [lout_sourceRun _ hn (by omega), ← lfoK (base + 2), sourceRun, sourceRun, sourceStep, if_neg e2, sourceStep, if_neg e1,
      sourceStep, if_pos hb]
    rfl

/-- Some narrowing of the calls of slot k changes its argument. -/
def sourceSat (s : State) (n k : Nat) : Bool := (sourceStep s n k).sat || (s.lfo n k).output.sat

/-- The flags of the six calls, one slot after the other. -/
def sourcesSat (s : State) (n base : Nat) : Bool :=
  sourceSat s n base || sourceSat (sourceRun n base s) n (base + 1) ||
    sourceSat (sourceRun n (base + 1) (sourceRun n base s)) n (base + 2)

include hb in
theorem err_runSources : (runSources n base s).st.err = s.err ||| flag (sourcesSat s n base) .sat := by
  rw [runSources_st n base s hb, err_sourceRun, err_sourceRun, err_sourceRun]
  simp only [sourcesSat, sourceSat, flag_or, BitVec.or_assoc]

variable (hr : ∀ j, j < 3 → SourceReady s n (base + j))

include hb hk hr in
/-- The calls of ready slots do not depend on one another. -/
theorem runSources_ready (hn : n < 16) :
    (runSources n base s).st.undefReads = s.undefReads ∧
    (∀ j, j < 3 → (runSources n base s).st.env n (base + j) = (sourceRun n (base + j) s).env n (base + j) ∧
      (runSources n base s).st.lfo n (base + j) = (sourceRun n (base + j) s).lfo n (base + j)) ∧
    (sourcesSat s n base = (sourceSat s n base || sourceSat s n (base + 1) || sourceSat s n (base + 2))) := by
  have hA : ∀ x, tableBytes n x → ¬ nowhere x := fun _ _ h => h
  have w0 := within_sourceRun n base s
  have w1 := within_sourceRun n (base + 1) (sourceRun n base s)
  have w2 := within_sourceRun n (base + 2) (sourceRun n (base + 1) (sourceRun n base s))
  have u0 := (hr 0 (by decide)).undefReads
  have r1 : SourceReady (sourceRun n base s) n (base + 1) :=
    w0.sourceReady (by simp [sourceParts]) (by omega) hA (hr 1 (by decide))
  have u1 := r1.undefReads
  have r2 : SourceReady (sourceRun n (base + 1) (sourceRun n base s)) n (base + 2) :=
    w1.sourceReady (by simp [sourceParts]) hk hA (w0.sourceReady (by simp [sourceParts]) hk hA (hr 2 (by decide)))
  have u2 := r2.undefReads
  have k1 : SourceKept n (base + 1) s (sourceRun n base s) :=
    w0.sourceKept (by simp [sourceParts]) (by simp [sourceParts]) u0 hA
  have k2 : SourceKept n (base + 2) s (sourceRun n (base + 1) (sourceRun n base s)) := by
    refine ((w0.mono (Q := fun p => sourceParts base p ∨ sourceParts (base + 1) p) (fun _ => .inl) fun _ h => h).trans
      (w1.mono (fun _ => .inr) fun _ h => h)).sourceKept ?_ ?_ (u1.trans u0) hA <;> simp [sourceParts]
  refine ⟨?_, fun j hj => ?_, ?_⟩
  · rw [runSources_st n base s hb, u2, u1]; exact u0
  · rw [runSources_st n base s hb]
    have e1 := k1.sourceStep (by omega); have e2 := k2.sourceStep hk
    interval_cases j
    · exact ⟨by rw [w2.env (by simp [sourceParts]), w1.env (by simp [sourceParts])]; rfl,
        by rw [w2.lfo (by simp [sourceParts]), w1.lfo (by simp [sourceParts])]; rfl⟩
    · rw [w2.env (by simp [sourceParts]), w2.lfo (by simp [sourceParts]), env_sourceRun _ hn (by omega),
        lfo_sourceRun _ hn (by omega), env_sourceRun s hn (by omega), lfo_sourceRun s hn (by omega), e1, k1.lfo]
      exact ⟨rfl, rfl⟩
    · rw [env_sourceRun _ hn hk, lfo_sourceRun _ hn hk, env_sourceRun s hn hk, lfo_sourceRun s hn hk, e2, k2.lfo]
      exact ⟨rfl, rfl⟩
  · unfold sourcesSat
    rw [sourceSat, sourceSat, sourceSat, sourceSat, sourceSat, k1.sourceStep (by omega), k1.lfo, k2.sourceStep hk, k2.lfo]

end

/-! ## The commands -/

theorem toNat_ofNat_byte {k : Nat} (hk : k < 27) : (BitVec.ofNat 8 k).toNat = k := by
  rw [BitVec.toNat_ofNat]; omega

theorem env_envResult (n k : Nat) (r : Sampled) : (envResult n k r).advance.env n k = r.st.env n k := rfl

theorem err_envResult (n k : Nat) (r : Sampled) : (envResult n k r).advance.err = r.st.err := rfl

theorem lfo_lfoOut (n k : Nat) (s : State) : (lfoOut n k s).advance.lfo n k = (runLfoStep n k s).st.lfo n k := rfl

theorem err_lfoOut (n k : Nat) (s : State) : (lfoOut n k s).advance.err = (runLfoStep n k s).st.err := rfl

/-- ENV.OUTDB or ENV.OUT on slot k does what NOTE.OUT's call of it does (R330). -/
theorem exec_sourceCall (n : Byte) (k : Nat) (s : State) (hn : n.toNat < 16) (hk : k < 27) :
    ∃ u, exec (sourceCall n k) s = .next u ∧ u.env n.toNat k = (sourceRun n.toNat k s).env n.toNat k ∧
      u.err = s.err ||| flag (sourceStep s n.toNat k).sat .sat := by
  have hk' := toNat_ofNat_byte hk
  have ok : (noteIndexOk n && slotIndexOk (BitVec.ofNat 8 k)) = true := by
    simp [noteIndexOk, slotIndexOk, hk', hn, hk]
  refine ⟨(envResult n.toNat k (performCall n.toNat k (sourceStep s n.toNat k) s)).advance, ?_, ?_, ?_⟩
  · unfold sourceCall sourceStep
    split
    · simp only [exec, execEnvOutdb, ranged, ok, if_true, index, hk']; rfl
    · simp only [exec, execEnvOut, ranged, ok, if_true, index, hk']; rfl
  · rw [env_envResult, env_performCall s _ hn hk, env_sourceRun s hn hk]
  · rw [err_envResult, err_performCall]

theorem exec_lfoOut (n : Byte) (k : Nat) (s : State) (hn : n.toNat < 16) (hk : k < 27) :
    ∃ u, exec (.lfoOut n (BitVec.ofNat 8 k)) s = .next u ∧ u.lfo n.toNat k = (sourceRun n.toNat k s).lfo n.toNat k ∧
      u.err = s.err ||| flag (s.lfo n.toNat k).output.sat .sat := by
  have hk' := toNat_ofNat_byte hk
  have ok : (noteIndexOk n && slotIndexOk (BitVec.ofNat 8 k)) = true := by
    simp [noteIndexOk, slotIndexOk, hk', hn, hk]
  refine ⟨(lfoOut n.toNat k s).advance, ?_, ?_, ?_⟩
  · simp only [exec, execLfoOut, ranged, ok, if_true, index, hk']
  · rw [lfo_lfoOut, lfo_runLfoStep s hn hk, lfo_sourceRun s hn hk]
  · rw [err_lfoOut, err_runLfoStep]

/-- The flags a command raises, from what it adds to ERR in every state. -/
theorem flagsOf_eq {s u : State} {i : Instr} {m : BitVec 8} (h : exec i { s with err := 0 } = .next u)
    (he : u.err = ({ s with err := 0 } : State).err ||| m) : s.flagsOf i = m := by
  unfold State.flagsOf
  rw [h]
  exact he.trans (BitVec.zero_or ..)

theorem sourceKept_clearErr (s : State) (n k : Nat) : SourceKept n k s { s with err := 0 } := ⟨rfl, rfl, fun _ _ => rfl⟩

theorem flagsOf_sourceCall (n : Byte) (k : Nat) (s : State) (hn : n.toNat < 16) (hk : k < 27) :
    s.flagsOf (sourceCall n k) = flag (sourceStep s n.toNat k).sat .sat := by
  obtain ⟨u, hu, _, he⟩ := exec_sourceCall n k { s with err := 0 } hn hk
  rw [flagsOf_eq hu he, (sourceKept_clearErr s n.toNat k).sourceStep hk]

theorem flagsOf_lfoOut (n : Byte) (k : Nat) (s : State) (hn : n.toNat < 16) (hk : k < 27) :
    s.flagsOf (.lfoOut n (BitVec.ofNat 8 k)) = flag (s.lfo n.toNat k).output.sat .sat := by
  obtain ⟨u, hu, _, he⟩ := exec_lfoOut n k { s with err := 0 } hn hk
  exact flagsOf_eq hu he

end Sys2Proof.Machine
end

section
/-! PROOFS. Filters as the note commands use them: SetCoef, FilterBlock and Cleanup on one filter, and both on a stereo
pair (R283, R286, R291, R346, R351). -/

namespace Sys2Proof.Machine

/-! ## One filter -/

/-- SetCoef clamps the frequency or the Q it is given (R283). -/
def coefClamped (freq : Nat) (q : Int) : Bool := filterFreq freq != freq || filterQ q != q

theorem coefClamped_iff (freq : Nat) (q : Word) : coefClamped freq q.toInt = true ↔ setCoefClamps freq q := by
  simp only [coefClamped, setCoefClamps, filterFreq, filterQ, Config.FREQ_MIN, Config.FREQ_MAX, Config.Q_MIN,
    Bool.or_eq_true, bne_iff_ne]
  omega

theorem Flt.stagesBad_iff (x : Flt) : x.stagesBad = true ↔ x.fstages = 0 ∨ 5 < x.fstages.toNat := by
  have h0 : x.fstages.toNat = 0 ↔ x.fstages = 0 :=
    ⟨fun h => BitVec.eq_of_toNat_eq h, fun h => by rw [h]; rfl⟩
  simp [Flt.stagesBad, h0]

theorem Flt.stageCount_bounds (x : Flt) : 1 ≤ x.stageCount ∧ x.stageCount ≤ 5 := by
  unfold Flt.stageCount; split <;> omega

theorem within_setCoef (n f freq : Nat) (q : Int) (s : State) :
    Within n (fun p => p = .flt f) nowhere s (setCoef n f freq q s) :=
  ((within_setErrIf _ .clamp s).trans (within_setErrIf _ .cfg _)).trans
    (within_setFlt (P := fun p => p = .flt f) f _ rfl _)

theorem within_cleanup (n f : Nat) (s : State) : Within n (fun p => p = .flt f) nowhere s (cleanup n f s) :=
  (within_setErrIf _ .cfg s).trans (within_setFlt (P := fun p => p = .flt f) f _ rfl _)

theorem within_filterBlock (n f : Nat) (b : List Int) (s : State) :
    Within n (fun p => p = .flt f) nowhere s (filterBlock n f b s).st := by
  unfold filterBlock
  dsimp only
  split
  · exact .refl s
  · exact (within_noteSat _ s).trans (within_setFlt (P := fun p => p = .flt f) f _ rfl _)

section
variable {n f : Nat} (s : State)

theorem flt_setCoef (freq : Nat) (q : Int) (hn : n < 16) (hf : f < 18) :
    (setCoef n f freq q s).flt n f = (s.flt n f).coefficients freq q := flt_setFlt _ _ _ _ hn hf

theorem flt_cleanup (hn : n < 16) (hf : f < 18) : (cleanup n f s).flt n f = (s.flt n f).clear := flt_setFlt _ _ _ _ hn hf

theorem err_setFlt (x : Flt) : (s.setFlt n f x).err = s.err := rfl

theorem err_setCoef (freq : Nat) (q : Int) : (setCoef n f freq q s).err =
    s.err ||| flag (coefClamped freq q) .clamp ||| flag (s.flt n f).stagesBad .cfg := by
  rw [setCoef, err_setFlt, err_setErrIf, err_setErrIf]; rfl

theorem err_cleanup : (cleanup n f s).err = s.err ||| flag (s.flt n f).stagesBad .cfg := by
  rw [cleanup, err_setFlt, err_setErrIf]

end

/-! ## The stages of a configured filter -/

theorem Flt.fnst_coefficients (x : Flt) (freq : Nat) (q : Int) : (x.coefficients freq q).fnst.toNat = x.stageCount := by
  have := x.stageCount_bounds
  show (BitVec.ofNat 3 x.stageCount).toNat = _
  rw [BitVec.toNat_ofNat]; omega

theorem Flt.active_coefficients (x : Flt) (freq : Nat) (q : Int) : (x.coefficients freq q).active = x.stageCount := by
  have := x.stageCount_bounds
  rw [Flt.active, fnst_coefficients]; omega

/-- The stages of a filter read its coefficients and not its state. -/
theorem filterCascade_withStages (x : Flt) (ks gs : List FltStage) (u : Int) :
    filterCascade (x.withStages ks) gs u = filterCascade x gs u := by
  have hst : ∀ g u, filterStage (x.withStages ks) g u = filterStage x g u := fun _ _ => rfl
  induction gs generalizing u with
  | nil => rfl
  | cons g gs ih => simp only [filterCascade, hst, ih]

theorem filterSamples_withStages (x : Flt) (ks gs : List FltStage) (us : List Int) :
    filterSamples (x.withStages ks) gs us = filterSamples x gs us := by
  induction us generalizing gs with
  | nil => rfl
  | cons u us ih => simp only [filterSamples, filterCascade_withStages, ih]

theorem length_filterCascade (x : Flt) (gs : List FltStage) (u : Int) :
    (filterCascade x gs u).val.2.length = gs.length := by
  induction gs generalizing u with
  | nil => rfl
  | cons g gs ih => simp [filterCascade, Sat.bind, Sat.map, ih]

theorem length_stages_filterSamples (x : Flt) (gs : List FltStage) (us : List Int) :
    (filterSamples x gs us).val.2.length = gs.length := by
  induction us generalizing gs with
  | nil => rfl
  | cons u us ih => simp [filterSamples, Sat.bind, Sat.map, ih, length_filterCascade]

/-- The first stages replaced, the others kept. -/
theorem fst_withStages (x : Flt) (gs : List FltStage) (h : gs.length ≤ 5) :
    (x.withStages gs).fst.toList = gs ++ x.fst.toList.drop gs.length := by
  have hl : (gs ++ x.fst.toList.drop gs.length).length = 5 := by simp; omega
  apply List.ext_getElem
  · simp [hl]
  · intro i h1 h2
    simp [Flt.withStages, List.getD, List.getElem?_eq_getElem h2]

/-! ## Both channels -/

/-- What SetCoef and FilterBlock compute for one channel: the samples, and the stages they leave. -/
def fltRun (x : Flt) (freq : Nat) (q : Int) (b : List Int) : Sat (List Int × List FltStage) :=
  filterSamples (x.coefficients freq q) (x.fst.toList.take x.stageCount) b

theorem length_fltRun (x : Flt) (freq : Nat) (q : Int) (b : List Int) :
    (fltRun x freq q b).val.2.length = x.stageCount := by
  have := x.stageCount_bounds
  rw [fltRun, length_stages_filterSamples, List.length_take, Vector.length_toList]; omega

theorem filterBlock_configured {n f : Nat} (s : State) (x : Flt) (freq : Nat) (q : Int) (b : List Int) (hn : n < 16)
    (hf : f < 18) (hx : s.flt n f = x.coefficients freq q) :
    (filterBlock n f b s).buf = (fltRun x freq q b).val.1 ∧
    (filterBlock n f b s).st.flt n f = (x.coefficients freq q).withStages (fltRun x freq q b).val.2 ∧
    (filterBlock n f b s).st.err = s.err ||| flag (fltRun x freq q b).sat .sat := by
  have ha : (s.flt n f).active = x.stageCount := by rw [hx, Flt.active_coefficients]
  have h0 : ¬ (s.flt n f).active = 0 := by have := x.stageCount_bounds; omega
  have hr : filterSamples (s.flt n f) ((s.flt n f).fst.toList.take (s.flt n f).active) b = fltRun x freq q b := by
    rw [ha, hx]; rfl
  have hb : filterBlock n f b s = ⟨(fltRun x freq q b).val.1,
      (s.noteSat (fltRun x freq q b).sat).setFlt n f ((s.flt n f).withStages (fltRun x freq q b).val.2)⟩ := by
    rw [filterBlock, if_neg h0, hr]
  rw [hb]
  exact ⟨rfl, by rw [flt_setFlt _ _ _ _ hn hf, hx], by rw [err_setFlt, err_noteSat]⟩

theorem within_stereoFilter (n f freq : Nat) (q : Int) (x : Stereo) :
    Within n (fun p => p = .flt f ∨ p = .flt (f + 1)) nowhere x.st (Stereo.filter n f freq q x).st := by
  have l : ∀ p : Part, p = .flt f → p = .flt f ∨ p = .flt (f + 1) := fun _ => .inl
  have r : ∀ p : Part, p = .flt (f + 1) → p = .flt f ∨ p = .flt (f + 1) := fun _ => .inr
  exact ((((within_setCoef n f freq q x.st).mono l fun _ h => h).trans
    ((within_setCoef n (f + 1) freq q _).mono r fun _ h => h)).trans
      ((within_filterBlock n f x.l _).mono l fun _ h => h)).trans ((within_filterBlock n (f + 1) x.r _).mono r fun _ h => h)

/-- SetCoef and FilterBlock on a stereo pair (R346, R351). -/
theorem stereoFilter_eq (n f freq : Nat) (q : Int) (x : Stereo) (hn : n < 16) (hf : f + 1 < 18) :
    let L := fltRun (x.st.flt n f) freq q x.l
    let R := fltRun (x.st.flt n (f + 1)) freq q x.r
    let y := Stereo.filter n f freq q x
    y.l = L.val.1 ∧ y.r = R.val.1 ∧
    y.st.flt n f = ((x.st.flt n f).coefficients freq q).withStages L.val.2 ∧
    y.st.flt n (f + 1) = ((x.st.flt n (f + 1)).coefficients freq q).withStages R.val.2 ∧
    y.st.err = x.st.err ||| flag (coefClamped freq q) .clamp |||
      flag ((x.st.flt n f).stagesBad || (x.st.flt n (f + 1)).stagesBad) .cfg ||| flag (L.sat || R.sat) .sat := by
  intro L R y
  have hfl : f < 18 := by omega
  have w1 := within_setCoef n f freq q x.st
  have w2 := within_setCoef n (f + 1) freq q (setCoef n f freq q x.st)
  have x1 : (setCoef n (f + 1) freq q (setCoef n f freq q x.st)).flt n f = (x.st.flt n f).coefficients freq q := by
    rw [w2.flt (by simp), flt_setCoef _ _ _ hn hfl]
  obtain ⟨l1, l2, l3⟩ := filterBlock_configured _ _ _ _ x.l hn hfl x1
  have w3 := within_filterBlock n f x.l (setCoef n (f + 1) freq q (setCoef n f freq q x.st))
  have x2 : (filterBlock n f x.l (setCoef n (f + 1) freq q (setCoef n f freq q x.st))).st.flt n (f + 1) =
      (x.st.flt n (f + 1)).coefficients freq q := by
    rw [w3.flt (by simp), flt_setCoef _ _ _ hn hf, w1.flt (by simp)]
  obtain ⟨r1, r2, r3⟩ := filterBlock_configured _ _ _ _ x.r hn hf x2
  refine ⟨l1, r1, ?_, r2, ?_⟩
  · exact ((within_filterBlock n (f + 1) x.r _).flt (by simp)).trans l2
  · refine r3.trans ?_
    rw [l3, err_setCoef, err_setCoef, w1.flt (by simp)]
    rw [flag_or, flag_or, ← BitVec.or_self (x := flag (coefClamped freq q) .clamp)]
    ac_rfl

/-- A channel filtered as `filtered` reads it off the state after the block. -/
theorem filtered_eq {s t : State} {n f : Nat} {x : Flt} {freq : Nat} {q : Int} {gs : List FltStage} (b : List Int)
    (hs : s.flt n f = x) (ht : t.flt n f = (x.coefficients freq q).withStages gs) :
    filtered s t n f b = fltRun x freq q b := by
  rw [filtered, ht, filterSamples_withStages, hs]
  show filterSamples _ (x.fst.toList.take (x.coefficients freq q).fnst.toNat) b = _
  rw [Flt.fnst_coefficients]; rfl

theorem toNat_freq {freq : Nat} (h : freq ≤ 4294967295) : (BitVec.ofNat 32 freq).toNat = freq := by
  rw [BitVec.toNat_ofNat]; omega

theorem flt_advance (s : State) (n f : Nat) : s.advance.flt n f = s.flt n f := rfl

/-- FLT.SETFQ does SetCoef (R285). -/
theorem exec_fltSetfq (n : Byte) (f freq : Nat) (q : Word) (s : State) (hn : n.toNat < 16) (hf : f < 18)
    (hq : freq ≤ 4294967295) : ∃ u, exec (.fltSetfq n (BitVec.ofNat 8 f) (BitVec.ofNat 32 freq) q) s = .next u ∧
      u.flt n.toNat f = (s.flt n.toNat f).coefficients freq q.toInt := by
  have hf' : (BitVec.ofNat 8 f).toNat = f := by rw [BitVec.toNat_ofNat]; omega
  have ok : (noteIndexOk n && filterIndexOk (BitVec.ofNat 8 f)) = true := by simp [noteIndexOk, filterIndexOk, hf', hn, hf]
  refine ⟨(setCoef n.toNat f freq q.toInt s).advance, ?_, by rw [flt_advance, flt_setCoef s _ _ hn hf]⟩
  simp only [exec, execFltSetfq, ranged, ok, if_true, index, hf', freqOperand, toNat_freq hq, signedOperand]

/-- The filter a block leaves, in the words of R333 and R286: the registers of FLT.SETFQ, the stages in use replaced. -/
theorem filter_left (n : Byte) (f freq : Nat) (q : Word) (s t : State) (b : List Int) (hn : n.toNat < 16) (hf : f < 18)
    (hq : freq ≤ 4294967295)
    (ht : t.flt n.toNat f = ((s.flt n.toNat f).coefficients freq q.toInt).withStages
      (fltRun (s.flt n.toNat f) freq q.toInt b).val.2) :
    (∃ u, exec (.fltSetfq n (BitVec.ofNat 8 f) (BitVec.ofNat 32 freq) q) s = .next u ∧
      t.flt n.toNat f = { u.flt n.toNat f with fst := (t.flt n.toNat f).fst }) ∧
    (t.flt n.toNat f).fst.toList = (filtered s t n.toNat f b).val.2 ++
      (s.flt n.toNat f).fst.toList.drop (t.flt n.toNat f).fnst.toNat := by
  obtain ⟨u, hu, hf'⟩ := exec_fltSetfq n f freq q s hn hf hq
  have hb := (s.flt n.toNat f).stageCount_bounds
  have hlen := length_fltRun (s.flt n.toNat f) freq q.toInt b
  refine ⟨⟨u, hu, ?_⟩, ?_⟩
  · rw [hf', ht]; rfl
  · rw [filtered_eq b rfl ht, ht, fst_withStages _ _ (by omega), hlen]
    show _ ++ (s.flt n.toNat f).fst.toList.drop _ = _ ++ (s.flt n.toNat f).fst.toList.drop
      ((s.flt n.toNat f).coefficients freq q.toInt).fnst.toNat
    rw [Flt.fnst_coefficients]

end Sys2Proof.Machine
end

section
/-! PROOFS. One voice's block in NOTE.OUT (R332 to R352): the chain of the two channels with its flags, and what the block
may change. -/

namespace Sys2Proof.Machine

/-! ## Two channels and their flags -/

/-- A stereo pair carries the channels `l` and `r`, whose narrowings have been noted on top of ERR = `e`. -/
structure Carries (x : Stereo) (e : BitVec 8) (l r : Sat (List Int)) : Prop where
  left : x.l = l.val
  right : x.r = r.val
  err : x.st.err = e ||| flag (l.sat || r.sat) .sat

theorem flag_pairs (a b c d : Bool) (x : ErrBit) (e : BitVec 8) :
    e ||| flag (a || b) x ||| flag (c || d) x = e ||| flag ((a || c) || (b || d)) x := by
  simp only [flag_or]; ac_rfl

section
variable {x : Stereo} {e : BitVec 8} {l r : Sat (List Int)}

theorem Carries.scale (h : Carries x e l r) (g : Nat → Int) :
    Carries (x.scale g) e (l.bind (scaleBy g)) (r.bind (scaleBy g)) :=
  ⟨congrArg (fun b => (scaleBy g b).val) h.left, congrArg (fun b => (scaleBy g b).val) h.right, by
    rw [Stereo.scale, err_noteSat, h.err, h.left, h.right, flag_pairs]; rfl⟩

theorem Carries.fadeIn (h : Carries x e l r) : Carries x.fadeIn e (l.bind fadeInBuf) (r.bind fadeInBuf) :=
  ⟨congrArg (fun b => (fadeInBuf b).val) h.left, congrArg (fun b => (fadeInBuf b).val) h.right, by
    rw [Stereo.fadeIn, err_noteSat, h.err, h.left, h.right, flag_pairs]; rfl⟩

theorem Carries.filter {n f : Nat} (h : Carries x e l r) (freq : Nat) (q : Int) (hn : n < 16) (hf : f + 1 < 18) :
    Carries (Stereo.filter n f freq q x)
      (e ||| flag (coefClamped freq q) .clamp ||| flag ((x.st.flt n f).stagesBad || (x.st.flt n (f + 1)).stagesBad) .cfg)
      (l.bind fun b => (fltRun (x.st.flt n f) freq q b).map (·.1))
      (r.bind fun b => (fltRun (x.st.flt n (f + 1)) freq q b).map (·.1)) := by
  obtain ⟨hl, hr, _, _, he⟩ := stereoFilter_eq n f freq q x hn hf
  refine ⟨by rw [hl, h.left]; rfl, by rw [hr, h.right]; rfl, ?_⟩
  rw [he, h.err, h.left, h.right]
  simp only [Sat.bind, Sat.map, flag_or]
  ac_rfl

end

theorem Sat.bind_ok {α : Type} (x : Sat α) : (x.bind fun a => .ok a) = x := by
  cases x; simp [Sat.bind, Sat.ok]

/-! ## Bytes -/

/-- The bytes of one field of the sub-voice records of a voice. -/
def fieldBytes (n v : Nat) (f : UniField) : Nat → Prop := fun a => ∃ k, k < 64 ∧ wordsAt (uniAddr n v k + f.offset) 1 a

/-- The bytes of a voice slot (R92). -/
def voiceBytes (n v : Nat) : Nat → Prop := fun a => voiceBase n v ≤ a ∧ a < voiceBase n v + 0x8000

/-- The fields of the sub-voice records that a block of a voice stores before its oscillators run (R334). -/
def Voice.retunes (y : Voice) (f : UniField) : Prop := f = .ratio ∨ y.usize ≠ 1 ∧ (f = .vibpos ∨ f = .vibstep)

/-- The fields that its oscillators move (R340 to R345). -/
def Voice.advances (y : Voice) (f : UniField) : Prop :=
  (f = .phhi ∨ f = .phlo) ∨ (y.topo ≠ 0 ∧ y.modext = false) ∧ (f = .phmhi ∨ f = .phmlo) ∨
    y.topo = 4 ∧ (f = .fmihi ∨ f = .fmilo)

/-- The bytes of the fields that satisfy a condition. -/
def fieldsBytes (n v : Nat) (F : UniField → Prop) : Nat → Prop := fun a => ∃ f, F f ∧ fieldBytes n v f a

/-- The bytes a block of a voice stores to. -/
def liveBytes (y : Voice) (n v : Nat) : Nat → Prop := fun a =>
  fieldsBytes n v y.retunes a ∨ fieldsBytes n v y.advances a ∨ wordsAt (voutAddr n v) 256 a

theorem fieldBytes_voice {n v a : Nat} {f : UniField} (h : fieldBytes n v f a) :
    voiceBase n v + 0x1000 ≤ a ∧ a < voiceBase n v + 0x2000 := by
  obtain ⟨k, hk, h1, h2⟩ := h
  have := f.offset_lt
  have := f.offset_mod
  simp only [uniAddr] at *
  omega

theorem liveBytes_voice {y : Voice} {n v a : Nat} (h : liveBytes y n v a) :
    voiceBase n v + 0x1000 ≤ a ∧ a < voiceBase n v + 0x2400 := by
  rcases h with ⟨f, _, h⟩ | ⟨f, _, h⟩ | ⟨h1, h2⟩
  · have := fieldBytes_voice h; omega
  · have := fieldBytes_voice h; omega
  · simp only [voutAddr] at *; omega

/-- A cell of a record is none of the bytes of another field. -/
theorem fieldBytes_apart {n v k a : Nat} {f g : UniField} (hne : f ≠ g) (h : wordsAt (uniAddr n v k + g.offset) 1 a) :
    ¬ fieldBytes n v f a := by
  rintro ⟨j, _, hj⟩
  have := uniCell_apart n v j k f g fun h => hne h.2
  simp only [wordsAt] at *
  omega

section
variable {n v : Nat} {P : Part → Prop} {A : Nat → Prop}

theorem within_setUni (f : UniField) (ws : List Word) (hl : ws.length ≤ 64)
    (h : ws = [] ∨ ∀ x, fieldBytes n v f x → A x) (s : State) : Within n P A s (s.setUni n v f ws) := by
  rcases h with rfl | h
  · exact .refl s
  · exact Within.foldl _ _ (fun k hk => within_setCell _ _ fun x hx =>
      h x ⟨k, lt_of_lt_of_le (List.mem_range.1 hk) hl, hx⟩) s

theorem within_setPhases (hi lo : UniField) (ps : List Nat) (hl : ps.length ≤ 64)
    (hA : ∀ x, fieldBytes n v hi x → A x) (hB : ∀ x, fieldBytes n v lo x → A x) (s : State) :
    Within n P A s (s.setPhases n v hi lo ps) :=
  Within.foldl _ _ (fun k hk t =>
    have hk' := lt_of_lt_of_le (List.mem_range.1 hk) hl
    (within_setCell _ _ (fun x hx => hA x ⟨k, hk', hx⟩) t).trans
      (within_setCell _ _ (fun x hx => hB x ⟨k, hk', hx⟩) _)) s

theorem within_touchUni (cnt : Nat) (f : UniField) (h : P .undef) (s : State) : Within n P A s (s.touchUni n v cnt f) :=
  within_touchAll _ h s

theorem within_touchPhases (cnt : Nat) (hi lo : UniField) (h : P .undef) (s : State) :
    Within n P A s (s.touchPhases n v cnt hi lo) :=
  (within_touchUni cnt hi h s).trans (within_touchUni cnt lo h _)

theorem within_storeRatios (r : Ratios) (h1 : r.pos.length ≤ 64) (h2 : r.step.length ≤ 64) (h3 : r.ratio.length ≤ 64)
    (hu : P .undef) (hp : r.pos = [] ∨ ∀ x, fieldBytes n v .vibpos x → A x)
    (hs : r.step = [] ∨ ∀ x, fieldBytes n v .vibstep x → A x) (hr : ∀ x, fieldBytes n v .ratio x → A x) (s : State) :
    Within n P A s (storeRatios n v r s) :=
  (((((within_touchUni _ _ hu s).trans (within_touchUni _ _ hu _)).trans (within_touchUni _ _ hu _)).trans
    (within_setUni _ _ (by simpa using h1) (hp.imp (fun h => by rw [h]; rfl) id) _)).trans
      (within_setUni _ _ (by simpa using h2) (hs.imp (fun h => by rw [h]; rfl) id) _)).trans
        (within_setUni _ _ (by simpa using h3) (.inr hr) _)

end

/-! ## Before the oscillators -/

/-- The pitch of a voice's block (R332). -/
def sigPitch (n v : Nat) (gpitch : Int) (m : Sources) : Sat Int :=
  voicePitch (m.st.note n) (m.st.voice n v) m.st.ctl gpitch m.f m.fl

/-- The pitch of its modulator (R332). -/
def sigModPitch (n v : Nat) (gpitch : Int) (m : Sources) : Sat Int :=
  sat32 ((sigPitch n v gpitch m).val + (m.st.voice n v).moddetune.toInt)

/-- One of the two frequencies falls under the floor of R332. -/
def sigFloored (n v : Nat) (gpitch : Int) (m : Sources) : Bool :=
  floorFreq (exp2 (sigPitch n v gpitch m).val) != exp2 (sigPitch n v gpitch m).val ||
    floorFreq (exp2 (sigModPitch n v gpitch m).val) != exp2 (sigModPitch n v gpitch m).val

/-- The state after a voice's ratios are stored (R332 to R334). -/
def retuned (n v : Nat) (gpitch : Int) (m : Sources) : State :=
  storeRatios n v (blockRatios m.st n v).val
    ((m.st.setErrIf (sigFloored n v gpitch m) .clamp).noteSat
      ((sigPitch n v gpitch m).sat || (sigModPitch n v gpitch m).sat || (blockRatios m.st n v).sat))

/-- The state when a voice's oscillators start: ratios and amplitude are stored (R332 to R336). -/
def voicePrep (n v : Nat) (gpitch : Int) (m : Sources) : State := voiceAmp n v m.a m.al (retuned n v gpitch m)

theorem voiceSignal_eq (n v : Nat) (gpitch : Int) (m : Sources) : voiceSignal n v gpitch m =
    voiceOscillators n v (floorFreq (exp2 (sigPitch n v gpitch m).val)) (floorFreq (exp2 (sigModPitch n v gpitch m).val))
      (blockRatios m.st n v).val.ratio (voicePrep n v gpitch m) := rfl

theorem floorFreq_changes (f : Nat) : (floorFreq f != f) = true ↔ f < 6554 := by
  simp only [floorFreq, Config.FREQ_MIN, bne_iff_ne]; omega

/-- The parts that a voice's block changes. -/
def voiceParts (v : Nat) : Part → Prop := fun p =>
  p = .undef ∨ p = .voice v ∨ (∃ j, j < 3 ∧ (p = .env (3 + 3 * v + j) ∨ p = .lfo (3 + 3 * v + j))) ∨
    p = .flt (2 + 2 * v) ∨ p = .flt (3 + 2 * v)

theorem sourcesParts_voice (v : Nat) (p : Part) (h : sourcesParts (3 + 3 * v) p) : voiceParts v p :=
  h.elim .inl fun h => .inr (.inr (.inl h))

section
variable (n v : Nat)

/-- The parts that change between the sources and the oscillators. -/
def prepParts (v : Nat) : Part → Prop := fun p => p = .undef ∨ p = .voice v

/-- The vibrato positions and steps after the block of a unison (R334). -/
def vibratoMoves (s : State) (n v : Nat) : List (Int × Int) :=
  (List.range (s.voice n v).usize.toNat).map fun k => vibratoMove (s.uni n v k .vibpos) (s.uni n v k .vibstep)

theorem blockRatios_single (s : State) (h : (s.voice n v).usize = 1) :
    blockRatios s n v = .ok ⟨[Config.ONE], [], []⟩ := if_pos h

theorem blockRatios_unison (s : State) (h : (s.voice n v).usize ≠ 1) : blockRatios s n v =
    (mapSat (fun m => sat32 m.2) (vibratoMoves s n v)).bind fun steps =>
      (mapSat (fun k => unisonRatio (s.uni n v k .rbase) ((vibratoMoves s n v).getD k (0, 0)).1
        (s.voice n v).vibamp.toInt s.ctl.bandwidth.toInt) (List.range (s.voice n v).usize.toNat)).map
          fun rs => ⟨rs, (vibratoMoves s n v).map (·.1), steps⟩ := if_neg h

theorem blockRatios_lengths (s : State) :
    let r := (blockRatios s n v).val
    let y := s.voice n v
    r.ratio.length = y.usize.toNat ∧ (if y.usize = 1 then r.pos = [] ∧ r.step = []
      else r.pos.length = y.usize.toNat ∧ r.step.length = y.usize.toNat) := by
  dsimp only
  by_cases h : (s.voice n v).usize = 1
  · rw [blockRatios_single n v s h, if_pos h, h]; exact ⟨rfl, rfl, rfl⟩
  · rw [blockRatios_unison n v s h, if_neg h]
    simp [Sat.bind, Sat.map, vibratoMoves]

theorem within_voiceAmp (a al : Int) (s : State) : Within n (prepParts v) nowhere s (voiceAmp n v a al s) :=
  (within_noteSat _ s).trans (within_setVoice v _ _ (.inl (.inr rfl)) (.inr rfl))

theorem within_retuned (gpitch : Int) (m : Sources) :
    Within n (fun p => p = .undef) (fieldsBytes n v (m.st.voice n v).retunes) m.st (retuned n v gpitch m) := by
  have hu := (m.st.voice n v).usize.isLt
  obtain ⟨h1, h2⟩ := blockRatios_lengths n v m.st
  refine ((within_setErrIf _ .clamp m.st).trans (within_noteSat _ _)).trans
    (within_storeRatios (P := fun p => p = .undef) (A := fieldsBytes n v (m.st.voice n v).retunes) _ ?_ ?_
      (h1.trans_le (by omega)) rfl ?_ ?_ (fun x hx => ⟨.ratio, .inl rfl, hx⟩) _)
  · split_ifs at h2
    · rw [h2.1]; decide
    · omega
  · split_ifs at h2
    · rw [h2.2]; decide
    · omega
  · split_ifs at h2 with h
    · exact .inl h2.1
    · exact .inr fun x hx => ⟨_, .inr ⟨h, .inl rfl⟩, hx⟩
  · split_ifs at h2 with h
    · exact .inl h2.2
    · exact .inr fun x hx => ⟨_, .inr ⟨h, .inr rfl⟩, hx⟩

theorem voice_retuned (gpitch : Int) (m : Sources) : (retuned n v gpitch m).voice n v = m.st.voice n v :=
  (within_retuned n v gpitch m).voice (by simp) (by simp)

theorem within_voicePrep (gpitch : Int) (m : Sources) :
    Within n (prepParts v) (fieldsBytes n v (m.st.voice n v).retunes) m.st (voicePrep n v gpitch m) :=
  ((within_retuned n v gpitch m).mono (fun _ => .inl) fun _ h => h).trans
    ((within_voiceAmp n v m.a m.al _).mono (fun _ h => h) fun _ h => False.elim h)

/-- The voice with its amplitudes for the block (R336). -/
def ampedVoice (y : Voice) (g : Sat Int) : Voice :=
  { y with vampold := if y.first then toWord g.val else y.vampnew, vampnew := toWord g.val }

theorem voice_voicePrep (gpitch : Int) (m : Sources) (hn : n < 16) (hv : v < 8) : (voicePrep n v gpitch m).voice n v =
    ampedVoice (m.st.voice n v) (blockGain (m.st.voice n v).vvolume.toInt m.a m.al) := by
  rw [voicePrep, voiceAmp, voice_setVoice _ _ _ _ hn hv, voice_retuned]; rfl

theorem err_retuned (gpitch : Int) (m : Sources) : (retuned n v gpitch m).err =
    m.st.err ||| flag (sigFloored n v gpitch m) .clamp ||| flag ((sigPitch n v gpitch m).sat ||
      (sigModPitch n v gpitch m).sat || (blockRatios m.st n v).sat) .sat := by
  have hs : ∀ r s, (storeRatios n v r s).err = s.err := fun r s => by simp [storeRatios]
  rw [retuned, hs, err_noteSat, err_setErrIf]

theorem err_voicePrep (gpitch : Int) (m : Sources) : (voicePrep n v gpitch m).err =
    m.st.err ||| flag (sigFloored n v gpitch m) .clamp ||| flag ((sigPitch n v gpitch m).sat ||
      (sigModPitch n v gpitch m).sat || (blockRatios m.st n v).sat ||
        (blockGain (m.st.voice n v).vvolume.toInt m.a m.al).sat) .sat := by
  have ha : ∀ s, (voiceAmp n v m.a m.al s).err = s.err ||| flag (blockGain (s.voice n v).vvolume.toInt m.a m.al).sat .sat :=
    fun s => err_noteSat s _
  rw [voicePrep, ha, voice_retuned, err_retuned, flag_or _ (blockGain _ _ _).sat]
  ac_rfl

end

end Sys2Proof.Machine
end

section
/-! PROOFS. One voice's block in NOTE.OUT, from its sources to its deposit (R330 to R352, in the order of decision D49):
what it changes, the channels it carries, the registers it leaves, and the flags it raises. -/

namespace Sys2Proof.Machine

theorem Sat.bind_assoc {α β γ : Type} (x : Sat α) (f : α → Sat β) (g : β → Sat γ) :
    (x.bind f).bind g = x.bind fun a => (f a).bind g := by
  simp [Sat.bind, Bool.or_assoc]

/-! ## Oscillators and mix -/

/-- One channel of the unison mix of a voice's block (R340 to R347). -/
def rawMix (s : State) (n v fv fmv : Nat) (ratios : List Int) (right : Bool) : Sat (List Int) :=
  (subBlocks s n v fv fmv ratios).bind fun bs =>
    unisonMix (s.voice n v).uninorm.toInt
      ((List.range (s.voice n v).usize.toNat).map fun k =>
        panWeight right (s.uni n v k .pos) ((s.cell (uniAddr n v k + UniField.invert.offset)).getLsbD 0))
      (bs.map (·.1))

section
variable (n v : Nat)

theorem err_touchOscillators (s : State) : (touchOscillators n v s).err = s.err := by
  unfold touchOscillators
  dsimp only
  split_ifs <;> simp

theorem err_storePhases (ps : List SubPhase) (s : State) : (storePhases n v ps s).err = s.err := by
  unfold storePhases
  dsimp only
  split_ifs <;> simp

theorem within_touchOscillators {P : Part → Prop} (hu : P .undef) (A : Nat → Prop) (s : State) :
    Within n P A s (touchOscillators n v s) := by
  have h0 : Within n P A s ((((s.touch (vwaveAddr n v false) 1024).touchPhases n v
      (s.voice n v).usize.toNat .phhi .phlo).touchUni n v (s.voice n v).usize.toNat .pos).touchUni n v
        (s.voice n v).usize.toNat .invert) :=
    (((within_touch _ _ hu s).trans (within_touchPhases _ _ _ hu _)).trans (within_touchUni _ _ hu _)).trans
      (within_touchUni _ _ hu _)
  unfold touchOscillators
  dsimp only
  split_ifs
  · exact h0.trans (within_touchPhases _ _ _ hu _)
  · exact (h0.trans (within_touch _ _ hu _)).trans (within_touchPhases _ _ _ hu _)
  · exact (h0.trans ((within_touch _ _ hu _).trans (within_touchPhases _ _ _ hu _))).trans (within_touchPhases _ _ _ hu _)
  · exact h0
  · exact h0.trans (within_touch _ _ hu _)
  · exact h0.trans ((within_touch _ _ hu _).trans (within_touchPhases _ _ _ hu _))

theorem within_storePhases (y : Voice) (ps : List SubPhase) (hl : ps.length ≤ 64) (s : State) (hy : s.voice n v = y) :
    Within n (fun p => p = .undef) (fieldsBytes n v y.advances) s (storePhases n v ps s) := by
  have h (t : State) (hi lo : UniField) (f : SubPhase → Nat) (h1 : y.advances hi) (h2 : y.advances lo) :
      Within n (fun p => p = .undef) (fieldsBytes n v y.advances) t (t.setPhases n v hi lo (ps.map f)) :=
    within_setPhases hi lo _ (by simpa using hl) (fun x hx => ⟨hi, h1, hx⟩) (fun x hx => ⟨lo, h2, hx⟩) t
  have hp := fun t f => h t .phhi .phlo f (.inl (.inl rfl)) (.inl (.inr rfl))
  have hm := fun t f (hc : ¬ (y.topo = 0 ∨ y.modext = true)) =>
    have hc' : y.topo ≠ 0 ∧ y.modext = false := by rw [not_or, Bool.not_eq_true] at hc; exact hc
    h t .phmhi .phmlo f (.inr (.inl ⟨hc', .inl rfl⟩)) (.inr (.inl ⟨hc', .inr rfl⟩))
  have hf := fun t f (hc : y.topo = 4) => h t .fmihi .fmilo f (.inr (.inr ⟨hc, .inl rfl⟩)) (.inr (.inr ⟨hc, .inr rfl⟩))
  unfold storePhases
  simp only [hy]
  split_ifs with h1 h2 h2
  · exact (hp _ _).trans (hf _ _ h1)
  · exact ((hp _ _).trans (hm _ _ h2)).trans (hf _ _ h1)
  · exact hp _ _
  · exact (hp _ _).trans (hm _ _ h2)

variable (fv fmv : Nat) (rs : List Int)

/-- The state in which the phases are stored. -/
def mixed (s : State) : State :=
  (touchOscillators n v s).noteSat ((rawMix s n v fv fmv rs false).sat || (rawMix s n v fv fmv rs true).sat)

theorem voiceOscillators_st (s : State) : (voiceOscillators n v fv fmv rs s).st =
    storePhases n v ((subBlocks s n v fv fmv rs).val.map (·.2)) (mixed n v fv fmv rs s) := by
  have hb : ∀ a b c : Bool, (a || b || c) = ((a || b) || (a || c)) := by decide
  unfold voiceOscillators mixed
  dsimp only
  rw [hb]
  rfl

theorem within_mixed (s : State) : Within n (fun p => p = .undef) nowhere s (mixed n v fv fmv rs s) :=
  (within_touchOscillators n v (P := fun p => p = .undef) rfl nowhere s).trans (within_noteSat _ _)

theorem within_voiceOscillators (s : State) :
    Within n (fun p => p = .undef) (fieldsBytes n v (s.voice n v).advances) s (voiceOscillators n v fv fmv rs s).st := by
  have hl : (subBlocks s n v fv fmv rs).val.length ≤ 63 := length_subBlocks n v s fv fmv rs
  have hm := within_mixed n v fv fmv rs s
  rw [voiceOscillators_st]
  exact (hm.mono (fun _ h => h) fun _ h => False.elim h).trans
    (within_storePhases n v _ _ (by rw [List.length_map]; omega) _ (hm.voice (by simp) (by simp)))

theorem carries_voiceOscillators (s : State) : Carries (voiceOscillators n v fv fmv rs s) s.err
    (rawMix s n v fv fmv rs false) (rawMix s n v fv fmv rs true) :=
  ⟨rfl, rfl, by rw [voiceOscillators_st, err_storePhases, mixed, err_noteSat, err_touchOscillators]⟩

end

/-! ## The chain after the mix -/

section
variable (n v : Nat) {x : Stereo} {e : BitVec 8} {l r : Sat (List Int)}

theorem Carries.voiceFadeIn (h : Carries x e l r) {fst : Bool} (hf : (x.st.voice n v).first = fst) :
    Carries (voiceFadeIn n v x) e (l.bind fun b => if fst then fadeInBuf b else .ok b)
      (r.bind fun b => if fst then fadeInBuf b else .ok b) := by
  unfold Machine.voiceFadeIn
  rw [hf]
  cases fst with
  | true => exact h.fadeIn
  | false => simp only [Bool.false_eq_true, if_false, Sat.bind_ok]; exact h

/-- The pitch of a voice's filter (R333), from its sources' values. -/
def filterPitch (y : Voice) (c cl : Int) : Sat Int := sat32 (y.vfbase.toInt + c + cl)

theorem Carries.voiceFilter (h : Carries x e l r) (c cl : Int) (hn : n < 16) (hv : v < 8) {y : Voice} {F G : Flt}
    (hy : x.st.voice n v = y) (hF : x.st.flt n (2 + 2 * v) = F) (hG : x.st.flt n (3 + 2 * v) = G) :
    let p := filterPitch y c cl
    let run := fun (F : Flt) (b : List Int) =>
      if y.filterOn then (fltRun F (exp2 p.val) y.vfq.toInt b).map (·.1) else Sat.ok b
    Carries (voiceFilter n v c cl x)
      (e ||| flag (y.filterOn && p.sat) .sat ||| flag (y.filterOn && coefClamped (exp2 p.val) y.vfq.toInt) .clamp |||
        flag (y.filterOn && (F.stagesBad || G.stagesBad)) .cfg) (l.bind (run F)) (r.bind (run G)) := by
  intro p run
  have e3 : 2 + 2 * v + 1 = 3 + 2 * v := by omega
  unfold Machine.voiceFilter
  simp only [hy, run]
  cases hon : y.filterOn with
  | true =>
    have hx : Carries { x with st := x.st.noteSat p.sat } (e ||| flag p.sat .sat) l r :=
      ⟨h.left, h.right, by rw [err_noteSat, h.err]; ac_rfl⟩
    have hf := hx.filter (f := 2 + 2 * v) (exp2 p.val) y.vfq.toInt hn (by omega)
    have k1 : (x.st.noteSat p.sat).flt n (2 + 2 * v) = F := hF
    have k2 : (x.st.noteSat p.sat).flt n (2 + 2 * v + 1) = G := by rw [e3]; exact hG
    rw [k1, k2] at hf
    simp only [if_true, Bool.true_and]
    exact hf
  | false =>
    simp only [Bool.false_and, flag_false, BitVec.or_zero, Bool.false_eq_true, if_false, Sat.bind_ok]
    exact h

theorem Carries.voiceAmpApply (h : Carries x e l r) {y : Voice} (hy : x.st.voice n v = y) :
    Carries (voiceAmpApply n v x) e (l.bind (scaleBy (ampGain y.vampold.toInt y.vampnew.toInt)))
      (r.bind (scaleBy (ampGain y.vampold.toInt y.vampnew.toInt))) := by
  unfold Machine.voiceAmpApply
  rw [hy]
  exact h.scale _

theorem Carries.voiceFadeOut (h : Carries x e l r) {fin : Bool} (hf : (x.st.env n (3 + 3 * v)).finished = fin) :
    Carries (voiceFadeOut n v x) e (l.bind fun d => if fin then scaleBy fadeOutGain d else .ok d)
      (r.bind fun d => if fin then scaleBy fadeOutGain d else .ok d) := by
  unfold Machine.voiceFadeOut
  rw [hf]
  cases fin with
  | true => exact ⟨(h.scale fadeOutGain).left, (h.scale fadeOutGain).right, (h.scale fadeOutGain).err⟩
  | false => simp only [Bool.false_eq_true, if_false, Sat.bind_ok]; exact h

theorem within_scale (P : Part → Prop) (A : Nat → Prop) (g : Nat → Int) (x : Stereo) : Within n P A x.st (x.scale g).st :=
  within_noteSat _ _

theorem within_voiceFadeIn (P : Part → Prop) (A : Nat → Prop) (x : Stereo) :
    Within n P A x.st (Machine.voiceFadeIn n v x).st := by
  unfold Machine.voiceFadeIn
  split
  · exact within_noteSat _ _
  · exact .refl _

theorem within_voiceFilter (c cl : Int) (x : Stereo) :
    Within n (fun p => p = .flt (2 + 2 * v) ∨ p = .flt (3 + 2 * v)) nowhere x.st (Machine.voiceFilter n v c cl x).st := by
  unfold Machine.voiceFilter
  dsimp only
  split
  · refine (within_noteSat _ _).trans ((within_stereoFilter n (2 + 2 * v) _ _ { x with st := _ }).mono ?_ fun _ h => h)
    rintro p (h | h)
    · exact .inl h
    · exact .inr (by rw [h]; congr 1; omega)
  · exact .refl _

theorem within_voiceFadeOut (x : Stereo) :
    Within n (fun p => p = .voice v) nowhere x.st (Machine.voiceFadeOut n v x).st := by
  unfold Machine.voiceFadeOut
  dsimp only
  split
  · exact (within_scale n _ _ fadeOutGain x).trans
      (within_modVoice (P := fun p => p = .voice v) v (fun w => { w with finished := true }) _ (.inl rfl) (.inr rfl))
  · exact .refl _

theorem within_deposit (acc : Sums) (x : Stereo) (h : x.Len) :
    Within n (fun _ => False) (wordsAt (voutAddr n v) 256) x.st (deposit n v acc x).st := by
  unfold deposit
  dsimp only
  split
  · exact (within_noteSat _ _).trans (within_setSignedCells _ _ (by simp [h.1, h.2]) _)
  · exact within_setSignedCells _ _ (by simp) _

end

/-! ## The whole block -/

/-- The sources of a voice's block (R330). -/
def liveSources (n v : Nat) (a : State) : Sources := runSources n (3 + 3 * v) a

/-- The two channels of a live voice as it deposits them. -/
def liveStereo (n v : Nat) (gp : Int) (a : State) : Stereo :=
  let m := liveSources n v a
  voiceFadeOut n v (voiceAmpApply n v (voiceFilter n v m.c m.cl (voiceFadeIn n v (voiceSignal n v gp m))))

theorem liveVoice_eq (n v : Nat) (gp : Int) (acc : Sums) : liveVoice n v gp acc =
    { deposit n v acc (liveStereo n v gp acc.st) with
      st := (deposit n v acc (liveStereo n v gp acc.st)).st.modVoice n v Voice.endBlock } := rfl

/-- The state after the voice's sources, ratios and amplitude, where its oscillators start. -/
def livePrep (n v : Nat) (gp : Int) (a : State) : State := voicePrep n v gp (liveSources n v a)

/-- One channel of the unison mix of a live voice. -/
def liveMix (n v : Nat) (gp : Int) (a : State) (right : Bool) : Sat (List Int) :=
  let m := liveSources n v a
  rawMix (livePrep n v gp a) n v (floorFreq (exp2 (sigPitch n v gp m).val)) (floorFreq (exp2 (sigModPitch n v gp m).val))
    (blockRatios m.st n v).val.ratio right

/-- A channel after mix, fade-in, voice filter, amplitude and fade-out, as voice `y` asks for them; `z` holds the
amplitudes. -/
def channelFrom (y z : Voice) (fin : Bool) (run : List Int → Sat (List Int)) (mix : Sat (List Int)) : Sat (List Int) :=
  (((mix.bind fun b => if y.first then fadeInBuf b else .ok b).bind run).bind
    (scaleBy (ampGain z.vampold.toInt z.vampnew.toInt))).bind fun d => if fin then scaleBy fadeOutGain d else .ok d

section
variable (n v : Nat) (gp : Int) (a : State)

theorem within_liveSources : Within n (sourcesParts (3 + 3 * v)) nowhere a (liveSources n v a).st :=
  within_runSources n (3 + 3 * v) a (by omega)

theorem voice_liveSources : (liveSources n v a).st.voice n v = a.voice n v :=
  (within_liveSources n v a).voice (by simp [sourcesParts]) (by simp [sourcesParts])

theorem within_livePrep : Within n (prepParts v) (fieldsBytes n v (a.voice n v).retunes) (liveSources n v a).st
    (livePrep n v gp a) := by
  have := within_voicePrep n v gp (liveSources n v a)
  rwa [voice_liveSources] at this

/-- The amplitude of a live voice's block (R336). -/
def liveGain : Sat Int :=
  blockGain (a.voice n v).vvolume.toInt (liveSources n v a).a (liveSources n v a).al

theorem voice_livePrep (hn : n < 16) (hv : v < 8) :
    (livePrep n v gp a).voice n v = ampedVoice (a.voice n v) (liveGain n v a) := by
  rw [livePrep, voice_voicePrep _ _ _ _ hn hv, voice_liveSources]; rfl

theorem voice_liveSignal (hn : n < 16) (hv : v < 8) :
    (voiceSignal n v gp (liveSources n v a)).st.voice n v = ampedVoice (a.voice n v) (liveGain n v a) := by
  rw [voiceSignal_eq]
  exact ((within_voiceOscillators n v _ _ _ _).voice (by simp) (by simp)).trans (voice_livePrep n v gp a hn hv)

theorem within_liveSignal (hn : n < 16) (hv : v < 8) :
    Within n (prepParts v) (fun x => fieldsBytes n v (a.voice n v).retunes x ∨ fieldsBytes n v (a.voice n v).advances x)
      (liveSources n v a).st (voiceSignal n v gp (liveSources n v a)).st := by
  have hp := within_livePrep n v gp a
  have ho := within_voiceOscillators n v (floorFreq (exp2 (sigPitch n v gp (liveSources n v a)).val))
    (floorFreq (exp2 (sigModPitch n v gp (liveSources n v a)).val)) (blockRatios (liveSources n v a).st n v).val.ratio
    (livePrep n v gp a)
  rw [voice_livePrep n v gp a hn hv] at ho
  exact (hp.mono (fun _ h => h) fun _ => .inl).trans (ho.mono (fun _ h => .inl h) fun _ => .inr)

/-- The pitch of a live voice's filter (R333). -/
def livePitch : Sat Int := filterPitch (a.voice n v) (liveSources n v a).c (liveSources n v a).cl

/-- The filter of a live voice on a channel. -/
def liveFilter (right : Bool) (b : List Int) : Sat (List Int) :=
  if (a.voice n v).filterOn then
    (fltRun (a.flt n (2 + 2 * v + right.toNat)) (exp2 (livePitch n v a).val) (a.voice n v).vfq.toInt b).map (·.1)
  else .ok b

/-- Whether the amplitude envelope of a live voice is finished after its call. -/
def liveEnds : Bool := ((liveSources n v a).st.env n (3 + 3 * v)).finished

/-- A channel of a live voice as it is deposited. -/
def liveChannel (right : Bool) : Sat (List Int) :=
  channelFrom (a.voice n v) (ampedVoice (a.voice n v) (liveGain n v a)) (liveEnds n v a) (liveFilter n v a right)
    (liveMix n v gp a right)

/-- The flags of a live voice's block besides those of its channels. -/
def liveFlags : BitVec 8 :=
  flag (sourcesSat a n (3 + 3 * v) || ((sigPitch n v gp (liveSources n v a)).sat || (sigModPitch n v gp (liveSources n v a)).sat ||
      (blockRatios (liveSources n v a).st n v).sat || (liveGain n v a).sat) ||
      ((a.voice n v).filterOn && (livePitch n v a).sat)) .sat |||
    flag (sigFloored n v gp (liveSources n v a) ||
      ((a.voice n v).filterOn && coefClamped (exp2 (livePitch n v a).val) (a.voice n v).vfq.toInt)) .clamp |||
    flag ((a.voice n v).filterOn && ((a.flt n (2 + 2 * v)).stagesBad || (a.flt n (3 + 2 * v)).stagesBad)) .cfg

variable {v} in
theorem flt_liveSignal (hn : n < 16) (hv : v < 8) (f : Nat) :
    (voiceSignal n v gp (liveSources n v a)).st.flt n f = a.flt n f :=
  ((within_liveSignal n v gp a hn hv).flt (by simp [prepParts])).trans
    ((within_liveSources n v a).flt (by simp [sourcesParts]))

theorem env_liveStereo_pre (hn : n < 16) (hv : v < 8) (c cl : Int) (k : Nat) :
    (voiceAmpApply n v (voiceFilter n v c cl (voiceFadeIn n v (voiceSignal n v gp (liveSources n v a))))).st.env n k =
      (liveSources n v a).st.env n k :=
  ((within_voiceFilter n v c cl _).env (by simp)).trans
    (((within_voiceFadeIn n v (fun _ => False) nowhere _).env (by simp)).trans
      ((within_liveSignal n v gp a hn hv).env (by simp [prepParts])))

theorem carries_liveStereo (hn : n < 16) (hv : v < 8) :
    Carries (liveStereo n v gp a) (a.err ||| liveFlags n v gp a) (liveChannel n v gp a false) (liveChannel n v gp a true) := by
  have hy := voice_liveSignal n v gp a hn hv
  have h0 : Carries (voiceSignal n v gp (liveSources n v a)) (livePrep n v gp a).err (liveMix n v gp a false)
      (liveMix n v gp a true) := carries_voiceOscillators n v _ _ _ (livePrep n v gp a)
  have h1 := Carries.voiceFadeIn n v h0 (fst := (a.voice n v).first) (by rw [hy]; rfl)
  have w1 := within_voiceFadeIn n v (fun _ => False) nowhere (voiceSignal n v gp (liveSources n v a))
  have y1 := (w1.voice (v := v) (by simp) (by simp)).trans hy
  have h2 := Carries.voiceFilter n v h1 (liveSources n v a).c (liveSources n v a).cl hn hv y1
    ((w1.flt (by simp)).trans (flt_liveSignal n gp a hn hv _)) ((w1.flt (by simp)).trans (flt_liveSignal n gp a hn hv _))
  have y2 := ((within_voiceFilter n v (liveSources n v a).c (liveSources n v a).cl _).voice (v := v) (by simp)
    (by simp)).trans y1
  have h3 := Carries.voiceAmpApply n v h2 y2
  have h4 := Carries.voiceFadeOut n v h3 (fin := liveEnds n v a) (congrArg Env.finished (env_liveStereo_pre n v gp a hn hv _ _ _))
  have e3 : 2 + 2 * v + true.toNat = 3 + 2 * v := by simp only [Bool.toNat_true]; omega
  have he : (livePrep n v gp a).err = a.err ||| flag (sourcesSat a n (3 + 3 * v)) .sat |||
      flag (sigFloored n v gp (liveSources n v a)) .clamp ||| flag ((sigPitch n v gp (liveSources n v a)).sat ||
        (sigModPitch n v gp (liveSources n v a)).sat || (blockRatios (liveSources n v a).st n v).sat ||
          (liveGain n v a).sat) .sat := by
    rw [livePrep, err_voicePrep, voice_liveSources, liveSources, err_runSources n (3 + 3 * v) a (by omega)]; rfl
  have hR : liveFilter n v a true = fun b => if (a.voice n v).filterOn then
      (fltRun (a.flt n (3 + 2 * v)) (exp2 (livePitch n v a).val) (a.voice n v).vfq.toInt b).map (·.1) else Sat.ok b := by
    funext b; rw [liveFilter, e3]
  have hE : (livePrep n v gp a).err ||| flag ((a.voice n v).filterOn && (livePitch n v a).sat) .sat |||
      flag ((a.voice n v).filterOn && coefClamped (exp2 (livePitch n v a).val) (a.voice n v).vfq.toInt) .clamp |||
      flag ((a.voice n v).filterOn && ((a.flt n (2 + 2 * v)).stagesBad || (a.flt n (3 + 2 * v)).stagesBad)) .cfg =
        a.err ||| liveFlags n v gp a := by
    rw [he]
    simp only [liveFlags, flag_or]
    ac_rfl
  rw [← hE]
  unfold liveChannel
  rw [hR]
  exact h4

end

end Sys2Proof.Machine
end

section
/-! PROOFS. What a voice's block leaves (R334 to R352): its registers, filters, output buffer and deposit; and phase B of
NOTE.OUT, the eight voices one after the other (R320). -/

namespace Sys2Proof.Machine

/-! ## Buffers -/

theorem setSignedCells_word? (s : State) (a : Nat) (xs : List Int) (i : Nat) (h : i < xs.length) :
    (s.setSignedCells a xs).mem.word? (a + 4 * i) = some (toWord (xs.getD i 0)) := by
  rw [State.setSignedCells, setCells_mem, word?_splice_bytesOf _ _ _ _ (by simpa using h)]
  simp [List.getD, List.getElem?_eq_getElem h]

theorem getD_zeros (m i : Nat) : (zeros m).getD i 0 = 0 := by
  simp [zeros, List.getD, List.getElem?_replicate]
  split <;> rfl

theorem zipWith_add_eq (l r : List Int) (hl : l.length = 256) (hr : r.length = 256) :
    List.zipWith (· + ·) l r = (List.range 256).map fun i => l.getD i 0 + r.getD i 0 := by
  apply List.ext_getElem
  · simp [hl, hr]
  · intro i h1 h2
    simp at h1
    simp [List.getD, List.getElem?_eq_getElem h1.1, List.getElem?_eq_getElem h1.2]

theorem mapSat_map {α β γ : Type} (f : β → Sat γ) (g : α → β) (xs : List α) :
    mapSat f (xs.map g) = mapSat (fun x => f (g x)) xs := by
  simp [mapSat, Function.comp_def]

/-- The sum of two channels in VOUT (R352). -/
def addChannels (l r : List Int) : Sat (List Int) := mapSat (fun i => sat32 (l.getD i 0 + r.getD i 0)) (List.range 256)

theorem mapSat_sat32_zipWith (l r : List Int) (hl : l.length = 256) (hr : r.length = 256) :
    mapSat sat32 (List.zipWith (· + ·) l r) = addChannels l r := by
  rw [zipWith_add_eq l r hl hr, mapSat_map]; rfl

theorem getD_addWeighted (acc b : List Int) (w : Int) (i : Nat) (ha : acc.length = b.length) :
    (addWeighted acc b w).getD i 0 = acc.getD i 0 + b.getD i 0 * w := by
  unfold addWeighted
  by_cases h : i < b.length
  · simp [List.getD, List.getElem?_zipWith, List.getElem?_eq_getElem h, List.getElem?_eq_getElem (ha ▸ h)]
  · have h1 : b[i]? = none := List.getElem?_eq_none (by omega)
    have h2 : acc[i]? = none := List.getElem?_eq_none (by omega)
    simp [List.getD, List.getElem?_zipWith, h1, h2]

/-- A voice after its fade-out (R350). -/
theorem voice_voiceFadeOut (n v : Nat) (x : Stereo) (hn : n < 16) (hv : v < 8) : (voiceFadeOut n v x).st.voice n v =
    { x.st.voice n v with finished := (x.st.voice n v).finished || (x.st.env n (3 + 3 * v)).finished } := by
  unfold voiceFadeOut
  cases (x.st.env n (3 + 3 * v)).finished with
  | true =>
    simp only [if_true, Bool.or_true]
    rw [voice_modVoice _ _ _ _ hn hv]
    rfl
  | false => simp only [Bool.or_false, Bool.false_eq_true, if_false]

theorem deposit_of_dest (n v : Nat) (acc : Sums) (x : Stereo) (h : (x.st.voice n v).dest = true) :
    deposit n v acc x = ⟨acc.l, acc.r, (x.st.noteSat (mapSat sat32 (List.zipWith (· + ·) x.l x.r)).sat).setSignedCells
      (voutAddr n v) (mapSat sat32 (List.zipWith (· + ·) x.l x.r)).val⟩ := if_pos h

theorem deposit_of_not_dest (n v : Nat) (acc : Sums) (x : Stereo) (h : (x.st.voice n v).dest = false) :
    deposit n v acc x = ⟨addWeighted acc.l x.l (x.st.voice n v).vpanl.toInt,
      addWeighted acc.r x.r (x.st.voice n v).vpanr.toInt, x.st.setSignedCells (voutAddr n v) (zeros 256)⟩ :=
  if_neg (by rw [h]; decide)

/-! ## One live voice -/

section
variable (n v : Nat) (gp : Int) (a : State)

theorem len_liveStereo : (liveStereo n v gp a).Len :=
  len_voiceFadeOut n v _ (len_voiceAmpApply n v _ (len_voiceFilter n v _ _ _ (len_voiceFadeIn n v _
    (len_voiceOscillators n v _ _ _ _))))

/-- A channel after mix and fade-in (R347, R348). -/
def liveFaded (right : Bool) : Sat (List Int) :=
  (liveMix n v gp a right).bind fun b => if (a.voice n v).first then fadeInBuf b else .ok b

/-- The state between the fade-in and the voice filter. -/
def liveFadedStereo : Stereo := voiceFadeIn n v (voiceSignal n v gp (liveSources n v a))

/-- The state between the voice filter and the fade-out. -/
def liveAmpedStereo : Stereo :=
  voiceAmpApply n v (voiceFilter n v (liveSources n v a).c (liveSources n v a).cl (liveFadedStereo n v gp a))

theorem liveStereo_eq : liveStereo n v gp a = voiceFadeOut n v (liveAmpedStereo n v gp a) := rfl

variable (hn : n < 16) (hv : v < 8)
include hn hv

theorem within_liveFaded : Within n (prepParts v)
    (fun x => fieldsBytes n v (a.voice n v).retunes x ∨ fieldsBytes n v (a.voice n v).advances x)
    (liveSources n v a).st (liveFadedStereo n v gp a).st :=
  (within_liveSignal n v gp a hn hv).trans (within_voiceFadeIn n v _ _ _)

theorem voice_liveFaded : (liveFadedStereo n v gp a).st.voice n v = ampedVoice (a.voice n v) (liveGain n v a) :=
  ((within_voiceFadeIn n v (fun _ => False) nowhere _).voice (by simp) (by simp)).trans (voice_liveSignal n v gp a hn hv)

theorem flt_liveFaded (f : Nat) : (liveFadedStereo n v gp a).st.flt n f = a.flt n f :=
  ((within_voiceFadeIn n v (fun _ => False) nowhere _).flt (by simp)).trans (flt_liveSignal n gp a hn hv f)

omit hn hv in
theorem within_liveAmped : Within n (fun p => p = .flt (2 + 2 * v) ∨ p = .flt (3 + 2 * v)) nowhere
    (liveFadedStereo n v gp a).st (liveAmpedStereo n v gp a).st :=
  (within_voiceFilter n v _ _ _).trans (within_scale n _ _ _ _)

theorem voice_liveAmped : (liveAmpedStereo n v gp a).st.voice n v = ampedVoice (a.voice n v) (liveGain n v a) :=
  ((within_liveAmped n v gp a).voice (by simp) (by simp)).trans (voice_liveFaded n v gp a hn hv)

theorem env_liveAmped (k : Nat) : (liveAmpedStereo n v gp a).st.env n k = (liveSources n v a).st.env n k :=
  env_liveStereo_pre n v gp a hn hv _ _ k

/-- The filter of a channel after the block (R346). -/
theorem flt_liveAmped (right : Bool) : (liveAmpedStereo n v gp a).st.flt n (2 + 2 * v + right.toNat) =
    if (a.voice n v).filterOn then
      ((a.flt n (2 + 2 * v + right.toNat)).coefficients (exp2 (livePitch n v a).val) (a.voice n v).vfq.toInt).withStages
        (fltRun (a.flt n (2 + 2 * v + right.toNat)) (exp2 (livePitch n v a).val) (a.voice n v).vfq.toInt
          (liveFaded n v gp a right).val).val.2
    else a.flt n (2 + 2 * v + right.toNat) := by
  have hy := voice_liveFaded n v gp a hn hv
  have h0 : Carries (voiceSignal n v gp (liveSources n v a)) (livePrep n v gp a).err (liveMix n v gp a false)
      (liveMix n v gp a true) := carries_voiceOscillators n v _ _ _ (livePrep n v gp a)
  have h1 := Carries.voiceFadeIn n v h0 (fst := (a.voice n v).first) (by rw [voice_liveSignal n v gp a hn hv]; rfl)
  have hl : (liveFadedStereo n v gp a).l = (liveFaded n v gp a false).val := h1.left
  have hr : (liveFadedStereo n v gp a).r = (liveFaded n v gp a true).val := h1.right
  refine ((within_scale n (fun _ => False) nowhere _ _).flt (by simp)).trans ?_
  have hon : (ampedVoice (a.voice n v) (liveGain n v a)).filterOn = (a.voice n v).filterOn := rfl
  have hq : (ampedVoice (a.voice n v) (liveGain n v a)).vfq = (a.voice n v).vfq := rfl
  have hp : sat32 ((ampedVoice (a.voice n v) (liveGain n v a)).vfbase.toInt + (liveSources n v a).c +
    (liveSources n v a).cl) = livePitch n v a := rfl
  simp only [voiceFilter, hy, hon, hq, hp]
  cases (a.voice n v).filterOn with
  | false => exact flt_liveFaded n v gp a hn hv _
  | true =>
    simp only [if_true]
    obtain ⟨_, _, hL, hR, _⟩ := stereoFilter_eq n (2 + 2 * v) (exp2 (livePitch n v a).val) (a.voice n v).vfq.toInt
      { liveFadedStereo n v gp a with st := (liveFadedStereo n v gp a).st.noteSat (livePitch n v a).sat } hn (by omega)
    have hk : ∀ f, ((liveFadedStereo n v gp a).st.noteSat (livePitch n v a).sat).flt n f = a.flt n f :=
      flt_liveFaded n v gp a hn hv
    rw [hk, hl] at hL
    rw [hk, hr] at hR
    cases right with
    | false => exact hL
    | true => exact hR

theorem voice_liveStereo : (liveStereo n v gp a).st.voice n v =
    { ampedVoice (a.voice n v) (liveGain n v a) with finished := (a.voice n v).finished || liveEnds n v a } := by
  rw [liveStereo_eq, voice_voiceFadeOut n v _ hn hv, voice_liveAmped n v gp a hn hv, env_liveAmped n v gp a hn hv]; rfl

/-- A voice after its block (R320, R336, R350). -/
theorem voice_liveVoice (acc : Sums) (ha : acc.st = a) : (liveVoice n v gp acc).st.voice n v =
    ({ ampedVoice (a.voice n v) (liveGain n v a) with finished := (a.voice n v).finished || liveEnds n v a } : Voice).endBlock := by
  rw [liveVoice_eq, voice_modVoice _ _ _ _ hn hv, ha,
    (within_deposit n v acc _ (len_liveStereo n v gp a)).voice (by simp) (by simp), voice_liveStereo n v gp a hn hv]

theorem within_liveStereo : Within n (voiceParts v)
    (fun x => fieldsBytes n v (a.voice n v).retunes x ∨ fieldsBytes n v (a.voice n v).advances x)
    a (liveStereo n v gp a).st := by
  refine ((((within_liveSources n v a).mono (sourcesParts_voice v) fun _ h => False.elim h).trans
    ((within_liveFaded n v gp a hn hv).mono ?_ fun _ h => h)).trans
      ((within_liveAmped n v gp a).mono ?_ fun _ h => False.elim h)).trans
        ((within_voiceFadeOut n v _).mono ?_ fun _ h => False.elim h)
  · exact fun p h => h.imp_right .inl
  · exact fun p h => .inr (.inr (.inr h))
  · exact fun p h => .inr (.inl h)

theorem within_liveVoice (acc : Sums) (ha : acc.st = a) :
    Within n (voiceParts v) (liveBytes (a.voice n v) n v) a (liveVoice n v gp acc).st := by
  rw [liveVoice_eq, ha]
  refine (((within_liveStereo n v gp a hn hv).mono (fun _ h => h) ?_).trans
    ((within_deposit n v acc _ (len_liveStereo n v gp a)).mono (fun _ h => False.elim h) fun _ h => .inr (.inr h))).trans
      (within_modVoice v _ _ (.inl (.inr (.inl rfl))) (.inr rfl))
  exact fun x h => h.imp_right .inl

/-- What a live voice adds to VOUT or to the note's sums (R352). -/
theorem deposit_liveVoice (acc : Sums) (ha : acc.st = a) :
    let L := (liveChannel n v gp a false).val
    let R := (liveChannel n v gp a true).val
    let y := a.voice n v
    L.length = 256 ∧ R.length = 256 ∧
    (liveVoice n v gp acc).l = (if y.dest then acc.l else addWeighted acc.l L y.vpanl.toInt) ∧
    (liveVoice n v gp acc).r = (if y.dest then acc.r else addWeighted acc.r R y.vpanr.toInt) ∧
    (∀ i, i < 256 → (liveVoice n v gp acc).st.mem.word? (voutAddr n v + 4 * i) =
      some (if y.dest then toWord ((addChannels L R).val.getD i 0) else 0)) ∧
    (liveVoice n v gp acc).st.err = a.err ||| liveFlags n v gp a |||
      flag ((liveChannel n v gp a false).sat || (liveChannel n v gp a true).sat) .sat |||
      flag (y.dest && (addChannels L R).sat) .sat := by
  intro L R y
  obtain ⟨hl, hr, he⟩ := carries_liveStereo n v gp a hn hv
  obtain ⟨h1, h2⟩ := len_liveStereo n v gp a
  rw [hl] at h1
  rw [hr] at h2
  have hy := voice_liveStereo n v gp a hn hv
  have hs : mapSat sat32 (List.zipWith (· + ·) (liveStereo n v gp a).l (liveStereo n v gp a).r) = addChannels L R := by
    rw [hl, hr]; exact mapSat_sat32_zipWith _ _ h1 h2
  have hsl : (addChannels L R).val.length = 256 := by simp [addChannels]
  have hdest : ((liveStereo n v gp a).st.voice n v).dest = y.dest := by rw [hy]; rfl
  have hpl : ((liveStereo n v gp a).st.voice n v).vpanl = y.vpanl := by rw [hy]; rfl
  have hpr : ((liveStereo n v gp a).st.voice n v).vpanr = y.vpanr := by rw [hy]; rfl
  have hmod : ∀ s : State, (s.modVoice n v Voice.endBlock).err = s.err := fun _ => rfl
  have hmem : ∀ s : State, (s.modVoice n v Voice.endBlock).mem = s.mem := fun _ => rfl
  have herr : ∀ (s : State) b xs, (s.setSignedCells b xs).err = s.err := fun _ _ _ => rfl
  refine ⟨h1, h2, ?_⟩
  rw [liveVoice_eq, ha]
  simp only [hmod, hmem]
  cases hyd : y.dest with
  | true =>
    rw [deposit_of_dest _ _ _ _ (hdest.trans hyd), hs]
    refine ⟨rfl, rfl, fun i hi => ?_, ?_⟩
    · exact setSignedCells_word? _ _ _ i (by omega)
    · simp only [Bool.true_and, herr, err_noteSat, he]
  | false =>
    rw [deposit_of_not_dest _ _ _ _ (hdest.trans hyd), hpl, hpr, hl, hr]
    refine ⟨rfl, rfl, fun i hi => ?_, ?_⟩
    · rw [setSignedCells_word? _ _ _ i (by simpa using hi), getD_zeros]; rfl
    · simp only [Bool.false_and, flag_false, herr, he]
      exact (BitVec.or_zero ..).symm

end

/-! ## A voice that is not live -/

/-- The bytes that phase B stores to for voice v (R320). -/
def blockBytes (s : State) (n v : Nat) : Nat → Prop := fun x =>
  if s.live n v then liveBytes (s.voice n v) n v x else (s.voice n v).created = true ∧ wordsAt (voutAddr n v) 256 x

theorem blockBytes_voice {s : State} {n v x : Nat} (h : blockBytes s n v x) :
    voiceBase n v + 0x1000 ≤ x ∧ x < voiceBase n v + 0x2400 := by
  unfold blockBytes at h
  split at h
  · exact liveBytes_voice h
  · obtain ⟨_, h1, h2⟩ := h
    simp only [voutAddr] at *; omega

/-- The parts that phase B changes for voice v. -/
def blockParts (s : State) (v n : Nat) : Part → Prop := fun p => s.live n v = true ∧ voiceParts v p

section
variable (n v : Nat) (gp : Int) (acc : Sums)

theorem voiceBlock_live (h : acc.st.live n v = true) : voiceBlock n gp acc v = liveVoice n v gp acc := by
  unfold State.live at h
  simp only [Bool.and_eq_true, Bool.not_eq_true'] at h
  simp [voiceBlock, h.1, h.2]

theorem voiceBlock_absent (h : (acc.st.voice n v).created = false) : voiceBlock n gp acc v = acc := by
  simp [voiceBlock, h]

theorem voiceBlock_finished (h : acc.st.live n v = false) (hc : (acc.st.voice n v).created = true) :
    voiceBlock n gp acc v = { acc with st := acc.st.setSignedCells (voutAddr n v) (zeros 256) } := by
  unfold State.live at h
  simp only [hc, Bool.true_and, Bool.not_eq_false'] at h
  simp [voiceBlock, h, hc]

theorem within_voiceBlock (hn : n < 16) (hv : v < 8) : Within n (blockParts acc.st v n) (blockBytes acc.st n v) acc.st
    (voiceBlock n gp acc v).st := by
  cases hl : acc.st.live n v with
  | true =>
    rw [voiceBlock_live n v gp acc hl]
    exact (within_liveVoice n v gp acc.st hn hv acc rfl).mono (fun _ h => ⟨hl, h⟩) fun x h => by
      rw [blockBytes, if_pos hl]; exact h
  | false =>
    cases hc : (acc.st.voice n v).created with
    | false => rw [voiceBlock_absent n v gp acc hc]; exact .refl _
    | true =>
      rw [voiceBlock_finished n v gp acc hl hc]
      refine within_setSignedCells _ _ (fun x h => ?_) _
      rw [blockBytes, if_neg (by rw [hl]; decide)]
      exact ⟨hc, by simpa using h⟩

end

/-! ## Phase B -/

/-- Sums and state before voice v (R320). -/
def beforeVoice (n : Nat) (gp : Int) (s : State) (v : Nat) : Sums :=
  (List.range v).foldl (voiceBlock n gp) ⟨zeros 256, zeros 256, s⟩

theorem beforeVoice_succ (n : Nat) (gp : Int) (s : State) (v : Nat) :
    beforeVoice n gp s (v + 1) = voiceBlock n gp (beforeVoice n gp s v) v := by
  simp [beforeVoice, List.range_succ]

/-- The parts that the voices from v up to w change, and the bytes they store to. -/
def rangeParts (s : State) (n v w : Nat) : Part → Prop := fun p => ∃ u, v ≤ u ∧ u < w ∧ blockParts s u n p
def rangeBytes (s : State) (n v w : Nat) : Nat → Prop := fun x => ∃ u, v ≤ u ∧ u < w ∧ blockBytes s n u x

section
variable (n : Nat) (gp : Int) (s : State) (hn : n < 16)
include hn

/-- A voice's block finds the voice as it was before phase B. -/
theorem voice_beforeVoice (v : Nat) (hv : v ≤ 8) : ∀ u, v ≤ u → (beforeVoice n gp s v).st.voice n u = s.voice n u := by
  induction v with
  | zero => exact fun _ _ => rfl
  | succ v ih =>
    intro u hu
    rw [beforeVoice_succ]
    refine ((within_voiceBlock n v gp (beforeVoice n gp s v) hn (by omega)).voice ?_ ?_).trans (ih (by omega) u (by omega)) <;>
    · rintro ⟨_, h⟩
      rcases h with h | h | ⟨j, hj, h | h⟩ | h | h <;> simp at h
      all_goals omega

theorem live_beforeVoice (v : Nat) (hv : v ≤ 8) : (beforeVoice n gp s v).st.live n v = s.live n v := by
  rw [State.live, State.live, voice_beforeVoice n gp s hn v hv v le_rfl]

theorem within_beforeVoice (v w : Nat) (hvw : v ≤ w) (hw : w ≤ 8) : Within n (rangeParts s n v w) (rangeBytes s n v w)
    (beforeVoice n gp s v).st (beforeVoice n gp s w).st := by
  induction w, hvw using Nat.le_induction with
  | base => exact .refl _
  | succ w hvw ih =>
    have hl := live_beforeVoice n gp s hn w (by omega)
    have hy := voice_beforeVoice n gp s hn w (by omega) w le_rfl
    refine ((ih (by omega)).mono ?_ ?_).trans ?_
    · exact fun p ⟨u, h1, h2, h⟩ => ⟨u, h1, by omega, h⟩
    · exact fun x ⟨u, h1, h2, h⟩ => ⟨u, h1, by omega, h⟩
    · rw [beforeVoice_succ]
      refine (within_voiceBlock n w gp (beforeVoice n gp s w) hn (by omega)).mono ?_ ?_
      · exact fun p ⟨h1, h2⟩ => ⟨w, hvw, by omega, hl ▸ h1, h2⟩
      · intro x h
        rw [blockBytes, hl, hy] at h
        exact ⟨w, hvw, by omega, h⟩

end

end Sys2Proof.Machine
end

section
/-! PROOFS. A voice's block where every cell it reads is written (R72, R334 to R345): no undef read, the ratios, vibrato and
phases it leaves in the sub-voice records, and its oscillators' samples. -/

namespace Sys2Proof.Machine

/-- Every cell that the block of voice v reads is written (`NoteReady`, for one voice when its turn comes). -/
structure VoiceReady (s : State) (n v : Nat) : Prop where
  sources : ∀ j, j < 3 → SourceReady s n (3 + 3 * v + j)
  wave : s.Written (vwaveAddr n v false) 1024
  ownWave : (s.voice n v).topo ≠ 0 → (s.voice n v).modext = false → s.Written (vwaveAddr n v true) 1024
  external : (s.voice n v).topo ≠ 0 → (s.voice n v).modext = true → s.Written (voutAddr n (s.voice n v).modvoice) 256
  vibrato : ∀ k, k < (s.voice n v).usize.toNat → (s.voice n v).usize ≠ 1 → s.Written (uniAddr n v k) 3
  pan : ∀ k, k < (s.voice n v).usize.toNat → s.Written (uniAddr n v k + 0x0C) 2
  carrier : ∀ k, k < (s.voice n v).usize.toNat → s.Written (uniAddr n v k + 0x18) 2
  modulator : ∀ k, k < (s.voice n v).usize.toNat → (s.voice n v).topo ≠ 0 → (s.voice n v).modext = false →
    s.Written (uniAddr n v k + 0x20) 2
  integrator : ∀ k, k < (s.voice n v).usize.toNat → (s.voice n v).topo = 4 → s.Written (uniAddr n v k + 0x28) 2

/-- One word of a written pair or triple. -/
theorem written_one {s : State} {a m : Nat} (h : s.Written a m) (b d : Nat) (hb : b = a + 4 * d) (hd : d < m) :
    s.Written b 1 := h.mono ⟨d, hb, hd⟩

/-! ## Ratios and vibrato (R334) -/

section
variable (n v : Nat) (gp : Int) (m : Sources)

/-- The state in which the ratios are stored. -/
def tuned : State := (m.st.setErrIf (sigFloored n v gp m) .clamp).noteSat
  ((sigPitch n v gp m).sat || (sigModPitch n v gp m).sat || (blockRatios m.st n v).sat)

theorem retuned_of_written (h : ∀ k, k < (m.st.voice n v).usize.toNat → (m.st.voice n v).usize ≠ 1 →
    m.st.Written (uniAddr n v k) 3) :
    retuned n v gp m = (((tuned n v gp m).setUni n v .vibpos ((blockRatios m.st n v).val.pos.map toWord)).setUni n v
      .vibstep ((blockRatios m.st n v).val.step.map toWord)).setUni n v .ratio
        ((blockRatios m.st n v).val.ratio.map toWord) := by
  have hl := (blockRatios_lengths n v m.st).2
  have hw : ∀ k d, k < (blockRatios m.st n v).val.pos.length → d < 3 →
      (tuned n v gp m).Written (uniAddr n v k + 4 * d) 1 := by
    intro k d hk hd
    split_ifs at hl with h1
    · rw [hl.1] at hk; exact absurd hk (Nat.not_lt_zero _)
    · exact written_one (s := m.st) (h k (hl.1 ▸ hk) h1) _ d rfl hd
  have h0 := touchUni_of_written (tuned n v gp m) n v (blockRatios m.st n v).val.pos.length .vibpos
    fun k hk => hw k 1 hk (by decide)
  have h1 := touchUni_of_written (tuned n v gp m) n v (blockRatios m.st n v).val.pos.length .vibstep
    fun k hk => hw k 2 hk (by decide)
  have h2 := touchUni_of_written (tuned n v gp m) n v (blockRatios m.st n v).val.pos.length .rbase
    fun k hk => hw k 0 hk (by decide)
  change storeRatios n v (blockRatios m.st n v).val (tuned n v gp m) = _
  rw [storeRatios, h0, h1, h2]

theorem undefReads_setUni (s : State) (f : UniField) (ws : List Word) :
    (s.setUni n v f ws).undefReads = s.undefReads :=
  (Within.foldl (P := fun _ => False) (A := fun _ => True) (n := n) _ _
    (fun _ _ => within_setCell _ _ fun _ _ => trivial) s).undef id

theorem undefReads_setPhases (s : State) (hi lo : UniField) (ps : List Nat) :
    (s.setPhases n v hi lo ps).undefReads = s.undefReads :=
  (Within.foldl (P := fun _ => False) (A := fun _ => True) (n := n) _ _
    (fun _ _ t => (within_setCell _ _ (fun _ _ => trivial) t).trans (within_setCell _ _ (fun _ _ => trivial) _)) s).undef id

variable (hw : ∀ k, k < (m.st.voice n v).usize.toNat → (m.st.voice n v).usize ≠ 1 → m.st.Written (uniAddr n v k) 3)
include hw

theorem undefReads_retuned : (retuned n v gp m).undefReads = m.st.undefReads := by
  rw [retuned_of_written n v gp m hw, undefReads_setUni, undefReads_setUni, undefReads_setUni]; rfl

/-- A cell of the records after the ratios were stored. -/
theorem cell_retuned (k : Nat) (g : UniField) :
    let r := (blockRatios m.st n v).val
    (retuned n v gp m).cell (uniAddr n v k + g.offset) =
      if k < r.ratio.length ∧ .ratio = g then toWord (r.ratio.getD k 0)
      else if k < r.step.length ∧ .vibstep = g then toWord (r.step.getD k 0)
      else if k < r.pos.length ∧ .vibpos = g then toWord (r.pos.getD k 0)
      else m.st.cell (uniAddr n v k + g.offset) := by
  have hg : ∀ (l : List Int) k, k < l.length → (l.map toWord).getD k 0 = toWord (l.getD k 0) := by
    intro l k hk
    simp [List.getD, List.getElem?_eq_getElem hk]
  have hgd : ∀ (l : List Int) (h : UniField) (w : Word),
      (if k < (l.map toWord).length ∧ h = g then (l.map toWord).getD k 0 else w) =
        if k < l.length ∧ h = g then toWord (l.getD k 0) else w := by
    intro l h w
    rw [List.length_map]
    split
    · next hc => exact hg l k hc.1
    · rfl
  intro r
  rw [retuned_of_written n v gp m hw]
  simp only [uniCell_setUni, hgd]
  rfl

end

theorem vibratoMove_eq (p d : Int) : (vibratoMove p d).1 = clamp (p + d) (-16777216) 16777216 ∧
    (vibratoMove p d).2 = if 16777216 ≤ (p + d).natAbs then -d else d := by
  simp only [vibratoMove, Config.ONE, clamp]
  split_ifs <;> (dsimp only; omega)

theorem unisonRatio_range (r p a b : Int) :
    -2147483648 ≤ (unisonRatio r p a b).val ∧ (unisonRatio r p a b).val ≤ 2147483647 := sat32_range _

theorem getD_map_range {α : Type} (f : Nat → α) (m k : Nat) (d : α) (h : k < m) : ((List.range m).map f).getD k d = f k := by
  simp [List.getD, h]

theorem val_mapSat_range {α : Type} (f : Nat → Sat α) (m k : Nat) (d : α) (h : k < m) :
    (mapSat f (List.range m)).val.getD k d = (f k).val := by
  rw [mapSat, List.map_map]; exact getD_map_range _ _ _ _ h

theorem mapSat_congr {α β : Type} (f g : α → Sat β) (l : List α) (h : ∀ x ∈ l, f x = g x) : mapSat f l = mapSat g l := by
  unfold mapSat; rw [List.map_congr_left h]

/-- What R334 computes for one sub-voice: the step as it is narrowed. -/
theorem subStep_eq (s : State) (n v k : Nat) :
    sat32 (vibratoMove (s.uni n v k .vibpos) (s.uni n v k .vibstep)).2 = subStep s n v k := by
  rw [(vibratoMove_eq _ _).2]
  unfold subStep
  dsimp only
  split
  · rfl
  · exact sat32_eq_ok _ (toInt_range _).1 (toInt_range _).2

/-- What R334 computes for a unison: ratios from the moved vibrato, positions and narrowed steps. -/
theorem blockRatios_eq (s : State) (n v : Nat) (h : (s.voice n v).usize ≠ 1) :
    let y := s.voice n v
    let ratio := fun k => unisonRatio (s.uni n v k .rbase) (vibratoMove (s.uni n v k .vibpos) (s.uni n v k .vibstep)).1
      y.vibamp.toInt s.ctl.bandwidth.toInt
    blockRatios s n v = ⟨⟨(mapSat ratio (List.range y.usize.toNat)).val,
      (List.range y.usize.toNat).map fun k => (vibratoMove (s.uni n v k .vibpos) (s.uni n v k .vibstep)).1,
      (mapSat (subStep s n v) (List.range y.usize.toNat)).val⟩,
      (mapSat (subStep s n v) (List.range y.usize.toNat)).sat || (mapSat ratio (List.range y.usize.toNat)).sat⟩ := by
  intro y ratio
  have hr : mapSat (fun k => unisonRatio (s.uni n v k .rbase) ((vibratoMoves s n v).getD k (0, 0)).1 y.vibamp.toInt
      s.ctl.bandwidth.toInt) (List.range y.usize.toNat) = mapSat ratio (List.range y.usize.toNat) := by
    refine mapSat_congr _ _ _ fun k hk => ?_
    rw [vibratoMoves, getD_map_range _ _ _ _ (List.mem_range.1 hk)]
  have hs : mapSat (fun m => sat32 m.2) (vibratoMoves s n v) = mapSat (subStep s n v) (List.range y.usize.toNat) := by
    rw [vibratoMoves, mapSat_map]
    exact mapSat_congr _ _ _ fun k _ => subStep_eq s n v k
  have hp : (vibratoMoves s n v).map (·.1) =
      (List.range y.usize.toNat).map fun k => (vibratoMove (s.uni n v k .vibpos) (s.uni n v k .vibstep)).1 := by
    rw [vibratoMoves, List.map_map]; rfl
  rw [blockRatios_unison n v s h]
  simp only [Sat.bind, Sat.map]
  rw [hs, hp]
  exact congrArg (fun r : Sat (List Int) => (⟨⟨r.val, _, _⟩, _ || r.sat⟩ : Sat Ratios)) hr

theorem subStep_range (s : State) (n v k : Nat) : -2147483648 ≤ (subStep s n v k).val ∧ (subStep s n v k).val ≤ 2147483647 := by
  rw [← subStep_eq]; exact sat32_range _

section
variable (n v : Nat) (gp : Int) (m : Sources)
  (hw : ∀ k, k < (m.st.voice n v).usize.toNat → (m.st.voice n v).usize ≠ 1 → m.st.Written (uniAddr n v k) 3)
include hw

/-- RATIO, VIBPOS and VIBSTEP after the ratios were stored, the other fields as before (R334). -/
theorem uni_retuned (k : Nat) (hk : k < (m.st.voice n v).usize.toNat) :
    (retuned n v gp m).uni n v k .ratio = (blockRatios m.st n v).val.ratio.getD k 0 ∧
    ((m.st.voice n v).usize = 1 → (blockRatios m.st n v).val.ratio.getD k 0 = 16777216) ∧
    ((m.st.voice n v).usize ≠ 1 →
      (retuned n v gp m).uni n v k .vibpos = clamp (m.st.uni n v k .vibpos + m.st.uni n v k .vibstep) (-16777216) 16777216 ∧
      (retuned n v gp m).uni n v k .vibstep = (subStep m.st n v k).val ∧
      (blockRatios m.st n v).val.ratio.getD k 0 = (unisonRatio (m.st.uni n v k .rbase)
        (clamp (m.st.uni n v k .vibpos + m.st.uni n v k .vibstep) (-16777216) 16777216) (m.st.voice n v).vibamp.toInt
          m.st.ctl.bandwidth.toInt).val) := by
  obtain ⟨l1, l2⟩ := blockRatios_lengths n v m.st
  have hc := cell_retuned n v gp m hw k
  by_cases h : (m.st.voice n v).usize = 1
  · have hb := blockRatios_single n v m.st h
    have hk0 : k = 0 := by rw [h] at hk; exact Nat.lt_one_iff.1 hk
    refine ⟨?_, fun _ => by rw [hb, hk0]; rfl, fun h' => absurd h h'⟩
    rw [State.uni, hc, hb, hk0]; rfl
  · have hb := blockRatios_eq m.st n v h
    have hk' : k < (blockRatios m.st n v).val.ratio.length := l1 ▸ hk
    rw [if_neg h] at l2
    have hm := vibratoMove_eq (m.st.uni n v k .vibpos) (m.st.uni n v k .vibstep)
    have hr : (blockRatios m.st n v).val.ratio.getD k 0 = (unisonRatio (m.st.uni n v k .rbase)
        (clamp (m.st.uni n v k .vibpos + m.st.uni n v k .vibstep) (-16777216) 16777216) (m.st.voice n v).vibamp.toInt
          m.st.ctl.bandwidth.toInt).val := by
      rw [hb]
      dsimp only
      rw [val_mapSat_range _ _ _ _ hk, hm.1]
    refine ⟨?_, fun h' => absurd h' h, fun _ => ⟨?_, ?_, hr⟩⟩
    · rw [State.uni, hc, if_pos ⟨hk', rfl⟩, hr]
      exact toInt_toWord _ (unisonRatio_range _ _ _ _).1 (unisonRatio_range _ _ _ _).2
    · rw [State.uni, hc, if_neg (by simp), if_neg (by simp), if_pos ⟨l2.1 ▸ hk, rfl⟩, hb]
      dsimp only
      rw [getD_map_range _ _ _ _ hk, hm.1]
      refine toInt_toWord _ ?_ ?_ <;> simp only [clamp] <;> omega
    · rw [State.uni, hc, if_neg (by simp), if_pos ⟨l2.2 ▸ hk, rfl⟩, hb]
      dsimp only
      rw [val_mapSat_range _ _ _ _ hk]
      exact toInt_toWord _ (subStep_range _ _ _ _).1 (subStep_range _ _ _ _).2

/-- The fields that the ratios do not touch. -/
theorem cell_retuned_of_ne (k : Nat) (g : UniField) (h1 : g ≠ .ratio) (h2 : g ≠ .vibstep) (h3 : g ≠ .vibpos) :
    (retuned n v gp m).cell (uniAddr n v k + g.offset) = m.st.cell (uniAddr n v k + g.offset) := by
  rw [cell_retuned n v gp m hw k g, if_neg (by simp [h1.symm]), if_neg (by simp [h2.symm]), if_neg (by simp [h3.symm])]

end

/-! ## Oscillators (R340 to R345) -/

/-- What the oscillators of a voice read is written. -/
structure OscReady (s : State) (n v : Nat) : Prop where
  wave : s.Written (vwaveAddr n v false) 1024
  ownWave : (s.voice n v).topo ≠ 0 → (s.voice n v).modext = false → s.Written (vwaveAddr n v true) 1024
  external : (s.voice n v).topo ≠ 0 → (s.voice n v).modext = true → s.Written (voutAddr n (s.voice n v).modvoice) 256
  pan : ∀ k, k < (s.voice n v).usize.toNat → s.Written (uniAddr n v k + 0x0C) 2
  carrier : ∀ k, k < (s.voice n v).usize.toNat → s.Written (uniAddr n v k + 0x18) 2
  modulator : ∀ k, k < (s.voice n v).usize.toNat → (s.voice n v).topo ≠ 0 → (s.voice n v).modext = false →
    s.Written (uniAddr n v k + 0x20) 2
  integrator : ∀ k, k < (s.voice n v).usize.toNat → (s.voice n v).topo = 4 → s.Written (uniAddr n v k + 0x28) 2

theorem touchOscillators_of_ready {s : State} {n v : Nat} (h : OscReady s n v) : touchOscillators n v s = s := by
  have t1 := touch_of_written s _ _ h.wave
  have t2 := touchPhases_of_written s n v (s.voice n v).usize.toNat .phhi .phlo
    (fun k hk => written_one (h.carrier k hk) _ 0 rfl (by decide))
    (fun k hk => written_one (h.carrier k hk) _ 1 rfl (by decide))
  have t3 := touchUni_of_written s n v (s.voice n v).usize.toNat .pos
    (fun k hk => written_one (h.pan k hk) _ 0 rfl (by decide))
  have t4 := touchUni_of_written s n v (s.voice n v).usize.toNat .invert
    (fun k hk => written_one (h.pan k hk) _ 1 rfl (by decide))
  have hfm : (s.voice n v).topo = 4 → s.touchPhases n v (s.voice n v).usize.toNat .fmihi .fmilo = s := fun h4 =>
    touchPhases_of_written s n v (s.voice n v).usize.toNat .fmihi .fmilo
      (fun k hk => written_one (h.integrator k hk h4) _ 0 rfl (by decide))
      (fun k hk => written_one (h.integrator k hk h4) _ 1 rfl (by decide))
  have hmod : (if (s.voice n v).topo = 0 then s
      else if (s.voice n v).modext then s.touch (voutAddr n (s.voice n v).modvoice) 256
      else (s.touch (vwaveAddr n v true) 1024).touchPhases n v (s.voice n v).usize.toNat .phmhi .phmlo) = s := by
    split
    · rfl
    · next h0 =>
      split
      · next h1 => exact touch_of_written s _ _ (h.external h0 h1)
      · next h1 =>
        have h1' : (s.voice n v).modext = false := by simpa using h1
        rw [touch_of_written s _ _ (h.ownWave h0 h1')]
        exact touchPhases_of_written s n v (s.voice n v).usize.toNat .phmhi .phmlo
          (fun k hk => written_one (h.modulator k hk h0 h1') _ 0 rfl (by decide))
          (fun k hk => written_one (h.modulator k hk h0 h1') _ 1 rfl (by decide))
  unfold touchOscillators
  dsimp only
  rw [t1, t2, t3, t4, hmod]
  split
  · next h4 => exact hfm h4
  · rfl

/-- A sub-voice's sample reads the modulator signal under a topology that has one only. -/
theorem subOutput_none (c : SubCfg) (p : SubPhase) (m m' ma : Int) (h : c.topo = 0) :
    subOutput c p m ma = subOutput c p m' ma := by
  simp [subOutput, h]

/-- The block of a sub-voice reads the modulator's waveform where it has an oscillator of its own, the other voice's output
where the modulator is external (R340). -/
theorem subBlock_congr (c : SubCfg) (w : List Int) (g : Nat → Int) (f f' : Nat → Int)
    (hw : c.topo ≠ 0 → c.ext = false → w = c.wavem) (hf : c.topo ≠ 0 → c.ext = true → f = f') (l : List Nat) :
    ∀ p, subBlock c p (l.map fun i => (f i, g i)) = subBlock { c with wavem := w } p (l.map fun i => (f' i, g i)) := by
  induction l with
  | nil => exact fun _ => rfl
  | cons i l ih =>
    intro p
    have ho : subOutput c p (modSignal c p (f i)) (g i) =
        subOutput { c with wavem := w } p (modSignal { c with wavem := w } p (f' i)) (g i) := by
      have hc : ∀ m, subOutput { c with wavem := w } p m (g i) = subOutput c p m (g i) := fun _ => rfl
      rw [hc]
      by_cases h0 : c.topo = 0
      · exact subOutput_none c p _ _ _ h0
      · unfold modSignal
        cases he : c.ext with
        | true => simp only [if_true, hf h0 he]
        | false => simp only [Bool.false_eq_true, if_false, hw h0 he]
    have hn : ∀ fmi, SubPhase.next { c with wavem := w } p fmi = p.next c fmi := fun _ => rfl
    simp only [List.map_cons, subBlock, ho, hn, ih]

/-- The phases after a block: moved by one increment a sample, kept where nothing runs (R340, R341). -/
theorem subBlock_phases (c : SubCfg) (es : List (Int × Int)) : ∀ p : SubPhase, p.ph < 17179869184 → p.phm < 17179869184 →
    (subBlock c p es).val.2.ph = (p.ph + es.length * c.inc) % 17179869184 ∧
    (subBlock c p es).val.2.phm = if c.ownMod then (p.phm + es.length * c.incm) % 17179869184 else p.phm := by
  induction es with
  | nil =>
    intro p h1 h2
    simp only [subBlock, Sat.ok, List.length_nil, Nat.zero_mul, Nat.add_zero, Nat.mod_eq_of_lt h1, Nat.mod_eq_of_lt h2,
      ite_self, and_self]
  | cons e es ih =>
    intro p h1 h2
    have hn : ∀ fmi, (p.next c fmi).ph < 17179869184 ∧ (p.next c fmi).phm < 17179869184 := by
      intro fmi
      refine ⟨Nat.mod_lt _ (by decide), ?_⟩
      simp only [SubPhase.next]
      split
      · exact Nat.mod_lt _ (by decide)
      · exact h2
    have hs := fun fmi => ih (p.next c fmi) (hn fmi).1 (hn fmi).2
    simp only [subBlock, Sat.bind, Sat.map, hs, List.length_cons]
    constructor
    · simp only [SubPhase.next, Config.PHMOD, Nat.mod_add_mod]
      congr 1
      ring
    · simp only [SubPhase.next, Config.PHMOD]
      split
      · rw [Nat.mod_add_mod]
        congr 1
        ring
      · rfl

theorem fmi_lt (c : SubCfg) (es : List (Int × Int)) : ∀ p : SubPhase, p.fmi < 17179869184 →
    (subBlock c p es).val.2.fmi < 17179869184 := by
  have hadd : ∀ p d, phaseAdd p d < 17179869184 := by
    intro p d
    unfold phaseAdd
    simp only [Config.PHMOD]
    omega
  induction es with
  | nil => exact fun p h => h
  | cons e es ih =>
    intro p h
    simp only [subBlock, Sat.bind, Sat.map]
    refine ih _ ?_
    show (subOutput c p _ _).val.2 < _
    unfold subOutput
    dsimp only
    split_ifs
    · exact h
    · exact h
    · exact h
    · exact hadd _ _
    · exact h

theorem increment_natCast (f r : Nat) : increment f r = f * r / 16777216 * 262144 / 44100 := by
  have h : fdiv (fdiv ((f : Int) * r) 16777216 * 262144) 44100 = ((f * r / 16777216 * 262144 / 44100 : Nat) : Int) := by
    unfold fdiv; push_cast; ring
  have hm : max (r : Int) 0 = r := by omega
  unfold increment
  rw [hm, show (Config.FS : Int) = 44100 from rfl, h, Int.toNat_natCast]

theorem increment_eq (pitch ratio : Int) : increment (floorFreq (exp2 pitch)) ratio = pitchStep pitch ratio := by
  have hm : max (ratio.toNat : Int) 0 = max ratio 0 := by omega
  have h : increment (floorFreq (exp2 pitch)) ratio = increment (floorFreq (exp2 pitch)) ratio.toNat := by
    unfold increment; rw [hm]
  rw [h, increment_natCast]
  rfl

end Sys2Proof.Machine
end

section
/-! PROOFS. A voice's block as NOTE.OUT shows it (R330 to R352): the quantities of the block, read off the state before
NOTE.OUT and the state after it, are those the block computes. -/

namespace Sys2Proof.Machine

/-! ## What is seen of a voice's block -/

/-- The block of voice v ran on `acc`; `s` is the state before NOTE.OUT and `t` the one after it: nothing that the block
reads has changed before it, nothing that it leaves has changed after it. -/
structure Seen (n v : Nat) (gp : Int) (acc : Sums) (s t : State) : Prop where
  hn : n < 16
  hv : v < 8
  log2freq : (acc.st.note n).log2freq = (s.note n).log2freq
  ctl : acc.st.ctl = s.ctl
  voice : acc.st.voice n v = s.voice n v
  flt : ∀ right : Bool, acc.st.flt n (2 + 2 * v + right.toNat) = s.flt n (2 + 2 * v + right.toNat)
  gpitch : gp = (notePitch s t n).val
  env : ∀ j, j < 3 → t.env n (3 + 3 * v + j) = (liveVoice n v gp acc).st.env n (3 + 3 * v + j)
  lfo : ∀ j, j < 3 → t.lfo n (3 + 3 * v + j) = (liveVoice n v gp acc).st.lfo n (3 + 3 * v + j)
  flt' : ∀ right : Bool,
    t.flt n (2 + 2 * v + right.toNat) = (liveVoice n v gp acc).st.flt n (2 + 2 * v + right.toNat)
  core : (t.voice n v).core = ((liveVoice n v gp acc).st.voice n v).core

/-- The parts that change after a voice's sources. -/
def afterParts (v : Nat) : Part → Prop := fun p =>
  p = .undef ∨ p = .voice v ∨ p = .flt (2 + 2 * v) ∨ p = .flt (3 + 2 * v)

/-- From the mix on, a voice's block stores to VOUT only. -/
theorem within_afterSignal (n v : Nat) (gp : Int) (acc : Sums) : Within n (afterParts v) (wordsAt (voutAddr n v) 256)
    (voiceSignal n v gp (liveSources n v acc.st)).st (liveVoice n v gp acc).st := by
  rw [liveVoice_eq]
  exact ((((within_voiceFadeIn n v _ _ _).trans ((within_liveAmped n v gp acc.st).mono (fun _ h => .inr (.inr h))
    fun _ h => False.elim h)).trans ((within_voiceFadeOut n v _).mono (fun _ h => .inr (.inl h)) fun _ h => False.elim h)).trans
      ((within_deposit n v acc _ (len_liveStereo n v gp acc.st)).mono (fun _ h => False.elim h) fun _ h => h)).trans
        (within_modVoice v _ _ (.inl (.inr (.inl rfl))) (.inr rfl))

theorem within_afterSources (n v : Nat) (gp : Int) (acc : Sums) (hn : n < 16) (hv : v < 8) :
    Within n (afterParts v) (liveBytes (acc.st.voice n v) n v) (liveSources n v acc.st).st (liveVoice n v gp acc).st :=
  ((within_liveSignal n v gp acc.st hn hv).mono (fun _ h => h.imp_right .inl) fun _ h => h.imp_right .inl).trans
    ((within_afterSignal n v gp acc).mono (fun _ h => h) fun _ h => .inr (.inr h))

namespace Seen
variable {n v : Nat} {gp : Int} {acc : Sums} {s t : State} (h : Seen n v gp acc s t)
include h

theorem outs : let m := liveSources n v acc.st
    m.a = t.ret n (3 + 3 * v) ∧ m.al = t.lout n (3 + 3 * v) ∧ m.f = t.ret n (4 + 3 * v) ∧ m.fl = t.lout n (4 + 3 * v) ∧
      m.c = t.ret n (5 + 3 * v) ∧ m.cl = t.lout n (5 + 3 * v) := by
  have hv := h.hv
  have w := within_afterSources n v gp acc h.hn hv
  have he : ∀ j, j < 3 → t.ret n (3 + 3 * v + j) = (liveSources n v acc.st).st.ret n (3 + 3 * v + j) := fun j hj => by
    rw [State.ret, State.ret, h.env j hj, w.env (by simp [afterParts])]
  have hl : ∀ j, j < 3 → t.lout n (3 + 3 * v + j) = (liveSources n v acc.st).st.lout n (3 + 3 * v + j) := fun j hj => by
    rw [State.lout, State.lout, h.lfo j hj, w.lfo (by simp [afterParts])]
  rw [show 4 + 3 * v = 3 + 3 * v + 1 by omega, show 5 + 3 * v = 3 + 3 * v + 2 by omega]
  have e0 := he 0 (by decide); have l0 := hl 0 (by decide)
  simp only [Nat.add_zero] at e0 l0
  rw [e0, l0, he 1 (by decide), hl 1 (by decide), he 2 (by decide), hl 2 (by decide)]
  exact runSources_outs n (3 + 3 * v) acc.st (by omega) h.hn (by omega)

theorem sigPitch : sigPitch n v gp (liveSources n v acc.st) = blockPitch s t n v := by
  obtain ⟨_, _, hf, hfl, _, _⟩ := h.outs
  have w := within_liveSources n v acc.st
  have hlog : ((liveSources n v acc.st).st.note n).log2freq = (s.note n).log2freq := by
    have := congrArg Note.log2freq (w.head (by simp [sourcesParts]))
    exact Eq.trans this h.log2freq
  unfold Machine.sigPitch voicePitch blockPitch
  rw [hf, hfl, hlog, voice_liveSources, h.voice, w.ctl, h.ctl, ← h.gpitch]

theorem sigModPitch : sigModPitch n v gp (liveSources n v acc.st) = modPitch s t n v := by
  unfold Machine.sigModPitch modPitch
  rw [h.sigPitch, voice_liveSources, h.voice]

theorem pitch : livePitch n v acc.st = voiceCutoff s t n v := by
  obtain ⟨_, _, _, _, hc, hcl⟩ := h.outs
  unfold livePitch filterPitch voiceCutoff
  rw [hc, hcl, h.voice]

theorem gain : liveGain n v acc.st = voiceGain s t n v := by
  obtain ⟨ha, hal, _⟩ := h.outs
  unfold liveGain voiceGain
  rw [ha, hal, h.voice]
  rfl

theorem ends : liveEnds n v acc.st = (t.env n (3 + 3 * v)).finished := by
  have w := within_afterSources n v gp acc h.hn h.hv
  have he := h.env 0 (by decide)
  simp only [Nat.add_zero] at he
  rw [he, w.env (by simp [afterParts])]
  rfl

/-- The voice after its block (R320, R336, R350); CREATED is what R354 makes of it. -/
theorem voice_after (hlive : (s.voice n v).finished = false) :
    t.voice n v = { s.voice n v with
      created := (t.voice n v).created, finished := (t.env n (3 + 3 * v)).finished, first := false
      vampold := if (s.voice n v).first then (t.voice n v).vampnew else (s.voice n v).vampnew
      vampnew := toWord (voiceGain s t n v).val
      modampold := (s.voice n v).modamp } := by
  have hb := voice_liveVoice n v gp acc.st h.hn h.hv acc rfl
  rw [h.voice, h.gain, h.ends, hlive, Bool.false_or] at hb
  have hc := h.core
  rw [hb] at hc
  have hnew : (t.voice n v).vampnew = toWord (voiceGain s t n v).val := congrArg Voice.vampnew hc
  rw [hnew]
  exact Voice.ext_core hc rfl

/-- When a block raises ERR.CLAMP (R283, R332). -/
theorem clamps : (sigFloored n v gp (liveSources n v acc.st) || ((acc.st.voice n v).filterOn &&
    coefClamped (exp2 (livePitch n v acc.st).val) (acc.st.voice n v).vfq.toInt)) = true ↔
      exp2 (blockPitch s t n v).val < 6554 ∨ exp2 (modPitch s t n v).val < 6554 ∨ (s.voice n v).filterOn = true ∧
        setCoefClamps (exp2 (voiceCutoff s t n v).val) (s.voice n v).vfq := by
  unfold sigFloored
  rw [h.sigPitch, h.sigModPitch, h.pitch, h.voice, Bool.or_eq_true, Bool.or_eq_true, Bool.and_eq_true, floorFreq_changes,
    floorFreq_changes, coefClamped_iff, or_assoc]

theorem flt0 : acc.st.flt n (2 + 2 * v) = s.flt n (2 + 2 * v) := h.flt false

theorem flt1 : acc.st.flt n (3 + 2 * v) = s.flt n (3 + 2 * v) := by
  have := h.flt true
  rwa [show 2 + 2 * v + true.toNat = 3 + 2 * v by simp only [Bool.toNat_true]; omega] at this

/-- The filters after the block (R346). -/
theorem flt_after (right : Bool) : t.flt n (2 + 2 * v + right.toNat) =
    if (s.voice n v).filterOn then
      ((s.flt n (2 + 2 * v + right.toNat)).coefficients (exp2 (voiceCutoff s t n v).val) (s.voice n v).vfq.toInt).withStages
        (fltRun (s.flt n (2 + 2 * v + right.toNat)) (exp2 (voiceCutoff s t n v).val) (s.voice n v).vfq.toInt
          (liveFaded n v gp acc.st right).val).val.2
    else s.flt n (2 + 2 * v + right.toNat) := by
  have hb : (liveVoice n v gp acc).st.flt n (2 + 2 * v + right.toNat) =
      (liveAmpedStereo n v gp acc.st).st.flt n (2 + 2 * v + right.toNat) := by
    rw [liveVoice_eq, (within_modVoice (P := fun p => p = .voice v) (A := nowhere) v _ _ (.inl rfl) (.inr rfl)).flt (by simp),
      (within_deposit n v acc _ (len_liveStereo n v gp acc.st)).flt (by simp), liveStereo_eq,
      (within_voiceFadeOut n v _).flt (by simp)]
  rw [h.flt', hb, flt_liveAmped n v gp acc.st h.hn h.hv, h.voice, h.flt, h.pitch]

end Seen

/-! ## Where the cells are written -/

/-- The same with every cell written that the block reads: the bytes of the voice slot are before the block as they were
before NOTE.OUT, and after NOTE.OUT as after the block; an external modulator's output stands since its own block. -/
structure SeenCells (n v : Nat) (gp : Int) (acc : Sums) (s t : State) : Prop extends Seen n v gp acc s t where
  ready : VoiceReady acc.st n v
  undef : acc.st.undefReads = s.undefReads
  undef' : t.undefReads = s.undefReads
  bytes : ∀ x, voiceBytes n v x → acc.st.mem.byte? x = s.mem.byte? x
  bytes' : ∀ x, voiceBytes n v x → t.mem.byte? x = (liveVoice n v gp acc).st.mem.byte? x
  other : (s.voice n v).topo ≠ 0 → (s.voice n v).modext = true → (s.voice n v).modvoice < v ∧
    ∀ x, wordsAt (voutAddr n (s.voice n v).modvoice) 256 x → t.mem.byte? x = acc.st.mem.byte? x

theorem uni_in_voice {n v k : Nat} (g : UniField) (hk : k < 64) :
    ∀ x, wordsAt (uniAddr n v k + g.offset) 1 x → voiceBytes n v x := by
  intro x hx
  have := fieldBytes_voice ⟨k, hk, hx⟩
  exact ⟨by omega, by omega⟩

theorem wave_in_voice {n v : Nat} (sel : Bool) : ∀ x, wordsAt (vwaveAddr n v sel) 1024 x → voiceBytes n v x := by
  intro x hx
  simp only [wordsAt, vwaveAddr, voiceBytes] at *
  cases sel <;> simp at hx <;> omega

theorem vout_in_voice {n v : Nat} : ∀ x, wordsAt (voutAddr n v) 256 x → voiceBytes n v x := by
  intro x hx
  simp only [wordsAt, voutAddr, voiceBytes] at *
  omega

/-- Equal bytes and equally many undef reads make equal cells. -/
theorem cells_congr {s t : State} {a m : Nat} (hu : t.undefReads = s.undefReads)
    (h : ∀ x, wordsAt a m x → t.mem.byte? x = s.mem.byte? x) : t.cells a m = s.cells a m := by
  rw [cells_eq, cells_eq]
  refine List.map_congr_left fun i hi => ?_
  have hi' := List.mem_range.1 hi
  rw [State.cell, State.cell, cellOf, cellOf, hu,
    word?_congr t.mem s.mem _ fun x h1 h2 => h x ⟨by omega, by omega⟩]

theorem cell_congr {s t : State} {a : Nat} (hu : t.undefReads = s.undefReads)
    (h : ∀ x, wordsAt a 1 x → t.mem.byte? x = s.mem.byte? x) : t.cell a = s.cell a := by
  rw [State.cell, State.cell, cellOf, cellOf, hu, word?_congr t.mem s.mem _ fun x h1 h2 => h x ⟨h1, by omega⟩]

section
variable {n v : Nat} {a : State} (hn : n < 16) (hv : v < 8) (hr : VoiceReady a n v)
include hn hv hr

theorem undefReads_liveSources : (liveSources n v a).st.undefReads = a.undefReads :=
  (runSources_ready n (3 + 3 * v) a (by omega) (by omega) hr.sources hn).1

omit hn hv hr in
theorem byte?_liveSources (x : Nat) : (liveSources n v a).st.mem.byte? x = a.mem.byte? x :=
  (within_liveSources n v a).bytes x id

omit hn hv in
theorem vibrato_liveSources (k : Nat) (hk : k < ((liveSources n v a).st.voice n v).usize.toNat)
    (h1 : ((liveSources n v a).st.voice n v).usize ≠ 1) : (liveSources n v a).st.Written (uniAddr n v k) 3 := by
  rw [voice_liveSources] at hk h1
  exact (within_liveSources n v a).written (hr.vibrato k hk h1) fun _ _ => id

theorem undefReads_livePrep (gp : Int) : (livePrep n v gp a).undefReads = a.undefReads := by
  have h1 : ∀ c d s, (voiceAmp n v c d s).undefReads = s.undefReads := fun _ _ _ => rfl
  rw [livePrep, voicePrep, h1, undefReads_retuned _ _ _ _ (vibrato_liveSources hr), undefReads_liveSources hn hv hr]

omit hn hv hr in
theorem cell_voiceAmp (c d : Int) (s : State) (x : Nat) : (voiceAmp n v c d s).cell x = s.cell x :=
  (within_voiceAmp n v c d s).cell rfl fun _ _ => id

omit hn hv hr in
/-- The cells of the records when the oscillators start are those the ratios left. -/
theorem cell_livePrep (gp : Int) (x : Nat) : (livePrep n v gp a).cell x = (retuned n v gp (liveSources n v a)).cell x := by
  rw [livePrep, voicePrep, cell_voiceAmp]

omit hn hv hr in
/-- A byte that the ratios do not touch. -/
theorem byte?_livePrep (gp : Int) (x : Nat) (hx : ¬ fieldsBytes n v (a.voice n v).retunes x) :
    (livePrep n v gp a).mem.byte? x = a.mem.byte? x :=
  ((within_livePrep n v gp a).bytes x hx).trans (byte?_liveSources x)

omit hn hv hr in
theorem written_livePrep (gp : Int) (b m : Nat) (hb : a.Written b m)
    (hd : ∀ x, wordsAt b m x → ¬ fieldsBytes n v (a.voice n v).retunes x) : (livePrep n v gp a).Written b m :=
  (within_livePrep n v gp a).written ((within_liveSources n v a).written hb fun _ _ => id) hd

omit hn hv hr in
/-- Neighbouring words of a record lie in fields that the ratios do not touch. -/
theorem pair_not_retuned {k d x : Nat} (y : Voice) (hd : d = 0x0C ∨ d = 0x18 ∨ d = 0x20 ∨ d = 0x28)
    (hx : wordsAt (uniAddr n v k + d) 2 x) : ¬ fieldsBytes n v y.retunes x := by
  rintro ⟨f, hf, j, _, hj⟩
  have hof : f.offset = 0x14 ∨ f.offset = 0x04 ∨ f.offset = 0x08 := by
    rcases hf with rfl | ⟨_, rfl | rfl⟩
    · exact .inl rfl
    · exact .inr (.inl rfl)
    · exact .inr (.inr rfl)
  simp only [wordsAt, uniAddr] at *
  omega

omit hn hv hr in
theorem outside_not_retuned {x : Nat} (y : Voice) (hx : x < voiceBase n v + 0x1000 ∨ voiceBase n v + 0x2000 ≤ x) :
    ¬ fieldsBytes n v y.retunes x := by
  rintro ⟨f, _, hf⟩
  have := fieldBytes_voice hf
  omega

theorem oscReady_livePrep (gp : Int) : OscReady (livePrep n v gp a) n v := by
  have hy := voice_livePrep n v gp a hn hv
  have hu : ((livePrep n v gp a).voice n v).usize = (a.voice n v).usize := by rw [hy]; rfl
  have ht : ((livePrep n v gp a).voice n v).topo = (a.voice n v).topo := by rw [hy]; rfl
  have he : ((livePrep n v gp a).voice n v).modext = (a.voice n v).modext := by rw [hy]; rfl
  have hm : ((livePrep n v gp a).voice n v).modvoice = (a.voice n v).modvoice := by rw [hy]; rfl
  have hW := written_livePrep (n := n) (v := v) (a := a) gp
  have hwave : ∀ sel, ∀ x, wordsAt (vwaveAddr n v sel) 1024 x → ¬ fieldsBytes n v (a.voice n v).retunes x := by
    intro sel x hx
    refine outside_not_retuned _ (.inr ?_)
    simp only [wordsAt, vwaveAddr] at hx
    cases sel <;> simp at hx <;> omega
  refine ⟨hW _ _ hr.wave (hwave false), ?_, ?_, ?_, ?_, ?_, ?_⟩
  · rw [ht, he]; exact fun h0 h1 => hW _ _ (hr.ownWave h0 h1) (hwave true)
  · rw [ht, he, hm]
    refine fun h0 h1 => hW _ _ (hr.external h0 h1) fun x hx => outside_not_retuned _ ?_
    simp only [wordsAt, voutAddr, voiceBase] at *
    omega
  · rw [hu]; exact fun k hk => hW _ _ (hr.pan k hk) fun x hx => pair_not_retuned _ (.inl rfl) hx
  · rw [hu]; exact fun k hk => hW _ _ (hr.carrier k hk) fun x hx => pair_not_retuned _ (.inr (.inl rfl)) hx
  · rw [hu, ht, he]
    exact fun k hk h0 h1 => hW _ _ (hr.modulator k hk h0 h1) fun x hx => pair_not_retuned _ (.inr (.inr (.inl rfl))) hx
  · rw [hu, ht]
    exact fun k hk h4 => hW _ _ (hr.integrator k hk h4) fun x hx => pair_not_retuned _ (.inr (.inr (.inr rfl))) hx

omit hn hv hr in
theorem undefReads_storePhases (ps : List SubPhase) (s : State) : (storePhases n v ps s).undefReads = s.undefReads := by
  unfold storePhases
  dsimp only
  split_ifs <;> simp only [undefReads_setPhases]

theorem undefReads_liveSignal (gp : Int) : (voiceSignal n v gp (liveSources n v a)).st.undefReads = a.undefReads := by
  rw [voiceSignal_eq, voiceOscillators_st, undefReads_storePhases]
  unfold mixed
  rw [noteSat_undefReads]
  have ht : touchOscillators n v (livePrep n v gp a) = livePrep n v gp a :=
    touchOscillators_of_ready (oscReady_livePrep hn hv hr gp)
  exact (congrArg State.undefReads ht).trans (undefReads_livePrep hn hv hr gp)

end

/-- From the mix on nothing of a voice's block reads an undef cell. -/
theorem undefReads_liveVoice (n v : Nat) (gp : Int) (acc : Sums) (hn : n < 16) (hv : v < 8) (hr : VoiceReady acc.st n v) :
    (liveVoice n v gp acc).st.undefReads = acc.st.undefReads := by
  have h0 := undefReads_liveSignal hn hv hr gp
  have h1 : (liveStereo n v gp acc.st).st.undefReads = (voiceSignal n v gp (liveSources n v acc.st)).st.undefReads :=
    ((within_voiceFadeOut n v _).undef (by simp)).trans (((within_liveAmped n v gp acc.st).undef (by simp)).trans
      ((within_voiceFadeIn n v (fun _ => False) nowhere _).undef (by simp)))
  have h2 := (within_deposit n v acc _ (len_liveStereo n v gp acc.st)).undef (by simp)
  rw [liveVoice_eq, (within_modVoice (P := fun p => p = .voice v) (A := nowhere) v _ _ (.inl rfl) (.inr rfl)).undef (by simp),
    h2, h1, h0]

end Sys2Proof.Machine
end

section
/-! PROOFS. The cells of a voice's block as NOTE.OUT shows them (R334 to R352): ratios, vibrato, phases, the channels and
VOUT, and when the block raises ERR.SAT. -/

namespace Sys2Proof.Machine

theorem usize_lt (y : Voice) {k : Nat} (hk : k < y.usize.toNat) : k < 64 := by have := y.usize.isLt; omega

theorem signedCells_congr {s t : State} {a m : Nat} (hu : t.undefReads = s.undefReads)
    (h : ∀ x, wordsAt a m x → t.mem.byte? x = s.mem.byte? x) : t.signedCells a m = s.signedCells a m := by
  rw [State.signedCells, State.signedCells, cells_congr hu h]

/-- The phases that the oscillators stored. -/
theorem phase_storePhases (s : State) (n v k : Nat) (ps : List SubPhase) (hk : k < ps.length)
    (hb : ∀ p ∈ ps, p.ph < 17179869184 ∧ p.phm < 17179869184 ∧ p.fmi < 17179869184) :
    let p := ps.getD k ⟨0, 0, 0⟩
    (storePhases n v ps s).phase n v k .phhi .phlo = p.ph ∧
    ((s.voice n v).topo ≠ 0 → (s.voice n v).modext = false → (storePhases n v ps s).phase n v k .phmhi .phmlo = p.phm) ∧
    ((s.voice n v).topo = 4 → (storePhases n v ps s).phase n v k .fmihi .fmilo = p.fmi) := by
  have hg : ∀ f : SubPhase → Nat, (ps.map f).getD k 0 = f (ps.getD k ⟨0, 0, 0⟩) := fun f => by
    simp [List.getD, List.getElem?_eq_getElem hk]
  have hp : ps.getD k ⟨0, 0, 0⟩ ∈ ps := by
    rw [List.getD, List.getElem?_eq_getElem hk]; exact List.getElem_mem hk
  have stored : ∀ (t : State) (hi lo : UniField) (f : SubPhase → Nat), hi ≠ lo → f (ps.getD k ⟨0, 0, 0⟩) < 17179869184 →
      (t.setPhases n v hi lo (ps.map f)).phase n v k hi lo = f (ps.getD k ⟨0, 0, 0⟩) := by
    intro t hi lo f hne hlt
    rw [phase_setPhases t n v k hi lo _ hne (by simpa using hk) (by rw [hg]; exact hlt), hg]
  have kept : ∀ (c : Prop) [Decidable c] (t : State) (hi lo hi' lo' : UniField) (f : SubPhase → Nat), hi ≠ lo →
      (hi ≠ hi' ∧ hi ≠ lo' ∧ lo ≠ hi' ∧ lo ≠ lo') →
      (if c then t.setPhases n v hi lo (ps.map f) else t).phase n v k hi' lo' = t.phase n v k hi' lo' := by
    intro c _ t hi lo hi' lo' f hne hd
    split
    · exact phase_setPhases_of_ne t n v k hi lo hi' lo' _ hne hd
    · rfl
  obtain ⟨b1, b2, b3⟩ := hb _ hp
  intro p
  have eq : storePhases n v ps s =
      (fun s2 => if (s.voice n v).topo = 4 then s2.setPhases n v .fmihi .fmilo (ps.map (·.fmi)) else s2)
        ((fun s1 => if ¬ ((s.voice n v).topo = 0 ∨ (s.voice n v).modext) then s1.setPhases n v .phmhi .phmlo (ps.map (·.phm))
          else s1) (s.setPhases n v .phhi .phlo (ps.map (·.ph)))) := by
    unfold storePhases; simp only [ite_not]
  rw [eq]
  beta_reduce
  refine ⟨?_, fun h0 h1 => ?_, fun h4 => ?_⟩
  · rw [kept _ _ _ _ _ _ _ (by decide) (by decide), kept _ _ _ _ _ _ _ (by decide) (by decide),
      stored _ _ _ (·.ph) (by decide) b1]
  · rw [kept _ _ _ _ _ _ _ (by decide) (by decide), if_pos (by rw [h1]; simpa using h0), stored _ _ _ (·.phm) (by decide) b2]
  · rw [if_pos h4, stored _ _ _ (·.fmi) (by decide) b3]

/-- A sub-voice's block depends on its own modulator's waveform only where that runs, and on the other voice's output only
where that drives it. -/
theorem subBlock_congr_of (topo : Nat) (ext : Bool) (wave w w' : List Int) (inc incm : Nat) (m : Int) (p : SubPhase)
    (f f' g : Nat → Int) (l : List Nat) (hw : topo ≠ 0 → ext = false → w = w') (hf : topo ≠ 0 → ext = true → f = f') :
    subBlock { topo := topo, ext := ext, wave := wave, wavem := w, inc := inc, incm := incm, modgain := m } p
        (l.map fun i => (f i, g i)) =
      subBlock { topo := topo, ext := ext, wave := wave, wavem := w', inc := inc, incm := incm, modgain := m } p
        (l.map fun i => (f' i, g i)) :=
  subBlock_congr _ w' g f f' (fun h0 h1 => (hw h0 h1).symm) hf l p

namespace SeenCells
variable {n v : Nat} {gp : Int} {acc : Sums} {s t : State} (h : SeenCells n v gp acc s t)
include h

/-! ## Cells -/

theorem cellA {x : Nat} (hx : ∀ y, wordsAt x 1 y → voiceBytes n v y) : acc.st.cell x = s.cell x :=
  cell_congr h.undef fun y hy => h.bytes y (hx y hy)

theorem undefB : (liveVoice n v gp acc).st.undefReads = s.undefReads :=
  (undefReads_liveVoice n v gp acc h.hn h.hv h.ready).trans h.undef

theorem cellB {x : Nat} (hx : ∀ y, wordsAt x 1 y → voiceBytes n v y) : t.cell x = (liveVoice n v gp acc).st.cell x :=
  cell_congr (h.undef'.trans h.undefB.symm) fun y hy => h.bytes' y (hx y hy)

theorem cellM {x : Nat} (hx : ∀ y, wordsAt x 1 y → voiceBytes n v y) : (liveSources n v acc.st).st.cell x = s.cell x :=
  ((within_liveSources n v acc.st).cell (undefReads_liveSources h.hn h.hv h.ready) fun _ _ => id).trans (h.cellA hx)

theorem uniM {k : Nat} (f : UniField) (hk : k < 64) : (liveSources n v acc.st).st.uni n v k f = s.uni n v k f :=
  congrArg BitVec.toInt (h.cellM (uni_in_voice f hk))

/-- The records after NOTE.OUT are those the oscillators left. -/
theorem cell_signal {k : Nat} (g : UniField) (hk : k < 64) : t.cell (uniAddr n v k + g.offset) =
    (voiceSignal n v gp (liveSources n v acc.st)).st.cell (uniAddr n v k + g.offset) := by
  rw [h.cellB (uni_in_voice g hk)]
  refine (within_afterSignal n v gp acc).cell
    (h.undefB.trans (h.undef.symm.trans (undefReads_liveSignal h.hn h.hv h.ready gp).symm)) fun x hx hv => ?_
  have h1 := fieldBytes_voice ⟨k, hk, hx⟩
  have h2 := hv.1
  simp only [voutAddr] at h2
  omega

/-- The fields that the oscillators do not move are as the ratios left them. -/
theorem cell_prep {k : Nat} (g : UniField) (hk : k < 64) (hg : ∀ y : Voice, ¬ y.advances g) :
    t.cell (uniAddr n v k + g.offset) = (retuned n v gp (liveSources n v acc.st)).cell (uniAddr n v k + g.offset) := by
  rw [h.cell_signal g hk, ← cell_livePrep]
  refine (within_voiceOscillators n v _ _ _ (livePrep n v gp acc.st)).cell
    ((undefReads_liveSignal h.hn h.hv h.ready gp).trans (undefReads_livePrep h.hn h.hv h.ready gp).symm) ?_
  rintro x hx ⟨f, hf, hfx⟩
  exact fieldBytes_apart (fun he => hg _ (he ▸ hf)) hx hfx

/-! ## Ratios and vibrato -/

theorem hw : ∀ k, k < ((liveSources n v acc.st).st.voice n v).usize.toNat →
    ((liveSources n v acc.st).st.voice n v).usize ≠ 1 → (liveSources n v acc.st).st.Written (uniAddr n v k) 3 :=
  vibrato_liveSources h.ready

theorem voiceM : (liveSources n v acc.st).st.voice n v = s.voice n v := (voice_liveSources n v acc.st).trans h.voice

theorem ctlM : (liveSources n v acc.st).st.ctl = s.ctl := (within_liveSources n v acc.st).ctl.trans h.ctl

theorem ratio_eq {k : Nat} (hk : k < (s.voice n v).usize.toNat) :
    (blockRatios (liveSources n v acc.st).st n v).val.ratio.getD k 0 = t.uni n v k .ratio := by
  have hk' := usize_lt _ hk
  have := (uni_retuned n v gp (liveSources n v acc.st) h.hw k (by rw [h.voiceM]; exact hk)).1
  rw [← this, State.uni, State.uni, h.cell_prep .ratio hk' (by simp [Voice.advances])]

/-- Ratio and vibrato of a sub-voice (R334). -/
theorem ratios {k : Nat} (hk : k < (s.voice n v).usize.toNat) :
    t.uni n v k .ratio = (subRatio s t n v k).val ∧
    ((s.voice n v).usize ≠ 1 →
      t.uni n v k .vibpos = clamp (s.uni n v k .vibpos + s.uni n v k .vibstep) (-16777216) 16777216 ∧
      t.uni n v k .vibstep = (subStep s n v k).val) := by
  have hk' := usize_lt _ hk
  obtain ⟨_, h1, h2⟩ := uni_retuned n v gp (liveSources n v acc.st) h.hw k (by rw [h.voiceM]; exact hk)
  rw [h.voiceM, h.uniM _ hk', h.uniM _ hk', h.uniM _ hk', h.ctlM, h.ratio_eq hk] at h2
  rw [h.voiceM, h.ratio_eq hk] at h1
  by_cases hu : (s.voice n v).usize = 1
  · refine ⟨?_, fun h' => absurd hu h'⟩
    rw [h1 hu, subRatio, if_pos hu]; rfl
  · obtain ⟨hp, hs, hr⟩ := h2 hu
    have hpos : t.uni n v k .vibpos = clamp (s.uni n v k .vibpos + s.uni n v k .vibstep) (-16777216) 16777216 := by
      rw [← hp, State.uni, State.uni, h.cell_prep .vibpos hk' (by simp [Voice.advances])]
    refine ⟨?_, fun _ => ⟨hpos, ?_⟩⟩
    · rw [hr, subRatio, if_neg hu, hpos]; rfl
    · have hstep : subStep (liveSources n v acc.st).st n v k = subStep s n v k := by
        unfold subStep; rw [h.uniM _ hk', h.uniM _ hk']
      rw [← hstep, ← hs, State.uni, State.uni, h.cell_prep .vibstep hk' (by simp [Voice.advances])]

/-- The flags of the ratios (R334). -/
theorem ratios_sat : (blockRatios (liveSources n v acc.st).st n v).sat =
    ((mapSat (subRatio s t n v) (List.range (s.voice n v).usize.toNat)).sat ||
      ((s.voice n v).usize != 1 && (mapSat (subStep s n v) (List.range (s.voice n v).usize.toNat)).sat)) := by
  by_cases hu : (s.voice n v).usize = 1
  · have hone : (mapSat (subRatio s t n v) (List.range (s.voice n v).usize.toNat)).sat = false :=
      List.any_eq_false.2 fun x hx => by
        obtain ⟨k, _, rfl⟩ := List.mem_map.1 hx
        rw [subRatio, if_pos hu]
        exact Bool.false_ne_true
    rw [hone, show ((s.voice n v).usize != 1) = false by simpa using hu, Bool.false_and, Bool.or_false]
    exact congrArg Sat.sat (blockRatios_single n v _ (by rw [h.voiceM]; exact hu))
  · rw [blockRatios_eq _ n v (by rw [h.voiceM]; exact hu)]
    dsimp only
    rw [h.voiceM, h.ctlM, show ((s.voice n v).usize != 1) = true by simpa using hu, Bool.true_and, Bool.or_comm]
    refine congrArg₂ or (congrArg Sat.sat ?_) (congrArg Sat.sat ?_)
    · refine mapSat_congr _ _ _ fun k hk => ?_
      have hk0 := List.mem_range.1 hk
      have hk' := usize_lt _ hk0
      rw [subRatio, if_neg hu, ((h.ratios hk0).2 hu).1, h.uniM _ hk', h.uniM _ hk', h.uniM _ hk', (vibratoMove_eq _ _).1]
      rfl
    · refine mapSat_congr _ _ _ fun k hk => ?_
      have hk' := usize_lt _ (List.mem_range.1 hk)
      unfold subStep
      rw [h.uniM _ hk', h.uniM _ hk']

/-! ## Oscillators -/

theorem undefP : (livePrep n v gp acc.st).undefReads = s.undefReads :=
  (undefReads_livePrep h.hn h.hv h.ready gp).trans h.undef

theorem waveP (sel : Bool) :
    (livePrep n v gp acc.st).signedCells (vwaveAddr n v sel) 1024 = s.signedCells (vwaveAddr n v sel) 1024 := by
  refine signedCells_congr h.undefP fun x hx => ?_
  rw [byte?_livePrep gp x, h.bytes x (wave_in_voice sel x hx)]
  refine outside_not_retuned _ (.inr ?_)
  simp only [wordsAt, vwaveAddr] at hx
  cases sel <;> simp at hx <;> omega

theorem cellP {k : Nat} (g : UniField) (hk : k < 64) (h1 : g ≠ .ratio) (h2 : g ≠ .vibstep) (h3 : g ≠ .vibpos) :
    (livePrep n v gp acc.st).cell (uniAddr n v k + g.offset) = s.cell (uniAddr n v k + g.offset) := by
  rw [cell_livePrep, cell_retuned_of_ne n v gp _ h.hw k g h1 h2 h3, h.cellM (uni_in_voice g hk)]

theorem phaseP {k : Nat} (hi lo : UniField) (hk : k < 64) (hh : hi = .phhi ∧ lo = .phlo ∨ hi = .phmhi ∧ lo = .phmlo ∨
    hi = .fmihi ∧ lo = .fmilo) : (livePrep n v gp acc.st).phase n v k hi lo = s.phase n v k hi lo := by
  unfold State.phase
  rcases hh with ⟨rfl, rfl⟩ | ⟨rfl, rfl⟩ | ⟨rfl, rfl⟩ <;>
    rw [h.cellP _ hk (by decide) (by decide) (by decide), h.cellP _ hk (by decide) (by decide) (by decide)]

theorem externalP (h0 : (s.voice n v).topo ≠ 0) (h1 : (s.voice n v).modext = true) :
    (livePrep n v gp acc.st).signedCells (voutAddr n (s.voice n v).modvoice) 256 =
      t.signedCells (voutAddr n (s.voice n v).modvoice) 256 := by
  obtain ⟨hlt, hb⟩ := h.other h0 h1
  refine (signedCells_congr (h.undef'.trans h.undefP.symm) fun x hx => ?_).symm
  rw [hb x hx, byte?_livePrep gp x]
  refine outside_not_retuned _ (.inl ?_)
  simp only [wordsAt, voutAddr, voiceBase] at *
  omega

theorem voiceP : (livePrep n v gp acc.st).voice n v = ampedVoice (s.voice n v) (voiceGain s t n v) := by
  rw [voice_livePrep n v gp acc.st h.hn h.hv, h.voice, h.gain]

/-- The sub-voices' blocks (R340 to R345). -/
theorem subBlocks_eq : subBlocks (livePrep n v gp acc.st) n v (floorFreq (exp2 (blockPitch s t n v).val))
    (floorFreq (exp2 (modPitch s t n v).val)) (blockRatios (liveSources n v acc.st).st n v).val.ratio =
      mapSat (subSamples s t n v) (List.range (s.voice n v).usize.toNat) := by
  have hy := h.voiceP
  have ht : ((livePrep n v gp acc.st).voice n v).topo = (s.voice n v).topo := by rw [hy]; rfl
  have he : ((livePrep n v gp acc.st).voice n v).modext = (s.voice n v).modext := by rw [hy]; rfl
  have hm : ((livePrep n v gp acc.st).voice n v).modvoice = (s.voice n v).modvoice := by rw [hy]; rfl
  have hu : ((livePrep n v gp acc.st).voice n v).usize = (s.voice n v).usize := by rw [hy]; rfl
  have ho : ((livePrep n v gp acc.st).voice n v).modampold = (s.voice n v).modampold := by rw [hy]; rfl
  have ha : ((livePrep n v gp acc.st).voice n v).modamp = (s.voice n v).modamp := by rw [hy]; rfl
  have hg : ((livePrep n v gp acc.st).voice n v).modgain = (s.voice n v).modgain := by rw [hy]; rfl
  have htn : (s.voice n v).topo.toNat ≠ 0 → (s.voice n v).topo ≠ 0 := fun h h' => h (by rw [h']; rfl)
  unfold subBlocks
  dsimp only
  rw [ht, he, hm, hu, ho, ha, hg]
  refine mapSat_congr _ _ _ fun k hk => ?_
  have hk0 := List.mem_range.1 hk
  have hk' := usize_lt _ hk0
  rw [h.phaseP _ _ hk' (.inl ⟨rfl, rfl⟩), h.phaseP _ _ hk' (.inr (.inl ⟨rfl, rfl⟩)),
    h.phaseP _ _ hk' (.inr (.inr ⟨rfl, rfl⟩)), h.waveP, h.ratio_eq hk0, increment_eq, increment_eq]
  unfold subSamples
  dsimp only
  refine subBlock_congr_of _ _ _ _ _ _ _ _ _ _ _ _ _ (fun h0 h1 => ?_) (fun h0 h1 => ?_)
  · have h1' : (s.voice n v).modext = false := h1
    rw [h1', if_neg (by simpa using htn h0), h.waveP]
  · have h1' : (s.voice n v).modext = true := h1
    rw [h1', if_neg (by simpa using htn h0), h.externalP (htn h0) h1']

/-- The channels after mix and fade-in (R347, R348). -/
theorem faded_eq (right : Bool) : liveFaded n v gp acc.st right = voiceMix s t n v right := by
  have hy := h.voiceP
  have hu : ((livePrep n v gp acc.st).voice n v).usize = (s.voice n v).usize := by rw [hy]; rfl
  have hn : ((livePrep n v gp acc.st).voice n v).uninorm = (s.voice n v).uninorm := by rw [hy]; rfl
  unfold liveFaded liveMix voiceMix rawMix
  dsimp only
  rw [h.toSeen.sigPitch, h.toSeen.sigModPitch, h.subBlocks_eq, hu, hn, h.voice]
  have hw : ((List.range (s.voice n v).usize.toNat).map fun k =>
      panWeight right ((livePrep n v gp acc.st).uni n v k .pos)
        (((livePrep n v gp acc.st).cell (uniAddr n v k + UniField.invert.offset)).getLsbD 0)) =
      (List.range (s.voice n v).usize.toNat).map fun k =>
        panWeight right (s.uni n v k .pos) ((s.cell (uniAddr n v k + 0x10)).getLsbD 0) := by
    refine List.map_congr_left fun k hk => ?_
    have hk' := usize_lt _ (List.mem_range.1 hk)
    rw [State.uni, h.cellP _ hk' (by decide) (by decide) (by decide), h.cellP _ hk' (by decide) (by decide) (by decide)]
    rfl
  rw [hw, Sat.bind_assoc]

/-- The filters after the block, from the channels of R348 (R346). -/
theorem flt_after' (right : Bool) : t.flt n (2 + 2 * v + right.toNat) =
    if (s.voice n v).filterOn then
      ((s.flt n (2 + 2 * v + right.toNat)).coefficients (exp2 (voiceCutoff s t n v).val) (s.voice n v).vfq.toInt).withStages
        (fltRun (s.flt n (2 + 2 * v + right.toNat)) (exp2 (voiceCutoff s t n v).val) (s.voice n v).vfq.toInt
          (voiceMix s t n v right).val).val.2
    else s.flt n (2 + 2 * v + right.toNat) := by
  rw [← h.faded_eq]; exact h.flt_after right

/-- The filter of a channel is that of R346. -/
theorem filter_eq (right : Bool) : liveFilter n v acc.st right = fun b =>
    if (s.voice n v).filterOn then (filtered s t n (2 + 2 * v + right.toNat) b).map (·.1) else .ok b := by
  funext b
  unfold liveFilter
  rw [h.voice, h.flt, h.pitch]
  by_cases hon : (s.voice n v).filterOn = true
  · have hl := h.flt_after' right
    rw [if_pos hon] at hl
    rw [if_pos hon, if_pos hon, filtered_eq b rfl hl]
  · rw [if_neg hon, if_neg hon]

theorem vamp_after (hf : (s.voice n v).finished = false) :
    (t.voice n v).vampnew = toWord (voiceGain s t n v).val ∧
    (t.voice n v).vampold = (ampedVoice (s.voice n v) (voiceGain s t n v)).vampold ∧
    (t.voice n v).finished = (t.env n (3 + 3 * v)).finished := by
  have hz := h.voice_after hf
  have hnew : (t.voice n v).vampnew = toWord (voiceGain s t n v).val := by rw [hz]
  have hold : (t.voice n v).vampold = if (s.voice n v).first then (t.voice n v).vampnew else (s.voice n v).vampnew :=
    congrArg Voice.vampold hz
  exact ⟨hnew, by rw [hold, hnew]; rfl, by rw [hz]⟩

/-- A channel as it is deposited (R346, R349, R350). -/
theorem channel_eq (hf : (s.voice n v).finished = false) (right : Bool) :
    liveChannel n v gp acc.st right = voiceChannel s t n v right := by
  obtain ⟨hnew, hold, hfin⟩ := h.vamp_after hf
  have hmix : ((liveMix n v gp acc.st right).bind fun b => if (acc.st.voice n v).first then fadeInBuf b else .ok b) =
      voiceMix s t n v right := h.faded_eq right
  unfold liveChannel channelFrom voiceChannel
  dsimp only
  rw [hmix, h.filter_eq, h.ends, h.voice, h.gain, hold, hnew, hfin, Sat.bind_assoc, Sat.bind_assoc]
  rfl

/-! ## Phases -/

omit h in
theorem subSamples_phases (s t : State) (n v k : Nat) :
    let c := (subSamples s t n v k).val.2
    c.ph = (s.phase n v k .phhi .phlo + 256 * carrierStep s t n v k) % 17179869184 ∧
    c.phm = (if (s.voice n v).topo ≠ 0 ∧ (s.voice n v).modext = false then
      (s.phase n v k .phmhi .phmlo + 256 * modulatorStep s t n v k) % 17179869184 else s.phase n v k .phmhi .phmlo) ∧
    c.fmi < 17179869184 := by
  have htn : ((s.voice n v).topo.toNat != 0) = true ↔ (s.voice n v).topo ≠ 0 := by
    rw [bne_iff_ne, not_iff_not]
    exact ⟨fun h => BitVec.eq_of_toNat_eq h, fun h => by rw [h]; rfl⟩
  unfold subSamples
  dsimp only
  refine ⟨?_, ?_, fmi_lt _ _ _ (phase_lt _ _ _ _ _ _)⟩
  · rw [(subBlock_phases _ _ _ (phase_lt _ _ _ _ _ _) (phase_lt _ _ _ _ _ _)).1, List.length_map, List.length_range]
  · rw [(subBlock_phases _ _ _ (phase_lt _ _ _ _ _ _) (phase_lt _ _ _ _ _ _)).2, List.length_map, List.length_range]
    simp only [SubCfg.ownMod, Bool.and_eq_true, htn, Bool.not_eq_true']

omit h in
theorem subSamples_phases_lt (s t : State) (n v k : Nat) :
    let c := (subSamples s t n v k).val.2
    c.ph < 17179869184 ∧ c.phm < 17179869184 ∧ c.fmi < 17179869184 := by
  obtain ⟨h1, h2, h3⟩ := subSamples_phases s t n v k
  refine ⟨by rw [h1]; exact Nat.mod_lt _ (by decide), ?_, h3⟩
  rw [h2]
  split
  · exact Nat.mod_lt _ (by decide)
  · exact phase_lt _ _ _ _ _ _

/-- The phases after the block (R335, R341, R345, R356). -/
theorem phases {k : Nat} (hk : k < (s.voice n v).usize.toNat) :
    t.phase n v k .phhi .phlo = (s.phase n v k .phhi .phlo + 256 * carrierStep s t n v k) % 17179869184 ∧
    ((s.voice n v).topo ≠ 0 → (s.voice n v).modext = false → t.phase n v k .phmhi .phmlo =
      (s.phase n v k .phmhi .phmlo + 256 * modulatorStep s t n v k) % 17179869184) ∧
    ((s.voice n v).topo = 4 → t.phase n v k .fmihi .fmilo = (subSamples s t n v k).val.2.fmi) := by
  have hk' := usize_lt _ hk
  have hphase : ∀ hi lo, t.phase n v k hi lo =
      (voiceSignal n v gp (liveSources n v acc.st)).st.phase n v k hi lo := fun hi lo => by
    unfold State.phase; rw [h.cell_signal hi hk', h.cell_signal lo hk']
  have hst : (voiceSignal n v gp (liveSources n v acc.st)).st =
      storePhases n v ((mapSat (subSamples s t n v) (List.range (s.voice n v).usize.toNat)).val.map (·.2))
        (mixed n v (floorFreq (exp2 (blockPitch s t n v).val)) (floorFreq (exp2 (modPitch s t n v).val))
          (blockRatios (liveSources n v acc.st).st n v).val.ratio (livePrep n v gp acc.st)) := by
    rw [voiceSignal_eq, voiceOscillators_st, h.toSeen.sigPitch, h.toSeen.sigModPitch, ← h.subBlocks_eq]; rfl
  have hy : (mixed n v (floorFreq (exp2 (blockPitch s t n v).val)) (floorFreq (exp2 (modPitch s t n v).val))
      (blockRatios (liveSources n v acc.st).st n v).val.ratio (livePrep n v gp acc.st)).voice n v =
        ampedVoice (s.voice n v) (voiceGain s t n v) :=
    ((within_mixed n v _ _ _ _).voice (by simp) (by simp)).trans h.voiceP
  have hl : ((mapSat (subSamples s t n v) (List.range (s.voice n v).usize.toNat)).val.map (·.2)).getD k ⟨0, 0, 0⟩ =
      (subSamples s t n v k).val.2 := by
    rw [mapSat, List.map_map, List.map_map]
    exact getD_map_range _ _ _ _ hk
  have hp := phase_storePhases (mixed n v (floorFreq (exp2 (blockPitch s t n v).val))
    (floorFreq (exp2 (modPitch s t n v).val)) (blockRatios (liveSources n v acc.st).st n v).val.ratio
      (livePrep n v gp acc.st)) n v k
    ((mapSat (subSamples s t n v) (List.range (s.voice n v).usize.toNat)).val.map (·.2)) (by simpa using hk) (by
      intro p hp
      simp only [mapSat, List.map_map, List.mem_map, List.mem_range, Function.comp_apply] at hp
      obtain ⟨j, _, rfl⟩ := hp
      exact subSamples_phases_lt s t n v j)
  rw [hl, hy] at hp
  obtain ⟨s1, s2, _⟩ := subSamples_phases s t n v k
  rw [hphase, hphase, hphase, hst]
  refine ⟨hp.1.trans s1, fun h0 h1 => (hp.2.1 h0 h1).trans (s2.trans (if_pos ⟨h0, h1⟩)), hp.2.2⟩

/-! ## VOUT and ERR.SAT -/

omit h in
theorem addChannels_eq (s t : State) (n v : Nat) :
    addChannels (voiceChannel s t n v false).val (voiceChannel s t n v true).val = voiceSum s t n v := rfl

theorem vout (hf : (s.voice n v).finished = false) (i : Nat) (hi : i < 256) :
    t.mem.word? (voutAddr n v + 4 * i) =
      some (if (s.voice n v).dest then toWord ((voiceSum s t n v).val.getD i 0) else 0) := by
  obtain ⟨_, _, _, _, hv, _⟩ := deposit_liveVoice n v gp acc.st h.hn h.hv acc rfl
  rw [word?_congr _ _ _ fun x h1 h2 => h.bytes' x (vout_in_voice x ⟨by omega, by omega⟩), hv i hi, h.voice,
    h.channel_eq hf, h.channel_eq hf, addChannels_eq]

/-- Some narrowing of the voice's block changes its argument, its sources' calls included (R14). -/
theorem saturates (hf : (s.voice n v).finished = false) :
    (sourcesSat acc.st n (3 + 3 * v) || ((sigPitch n v gp (liveSources n v acc.st)).sat ||
      (sigModPitch n v gp (liveSources n v acc.st)).sat || (blockRatios (liveSources n v acc.st).st n v).sat ||
      (liveGain n v acc.st).sat) || ((acc.st.voice n v).filterOn && (livePitch n v acc.st).sat) ||
      ((liveChannel n v gp acc.st false).sat || (liveChannel n v gp acc.st true).sat) ||
      ((acc.st.voice n v).dest && (addChannels (liveChannel n v gp acc.st false).val
        (liveChannel n v gp acc.st true).val).sat)) =
    (sourcesSat acc.st n (3 + 3 * v) || voiceSaturates s t n v) := by
  rw [h.toSeen.sigPitch, h.toSeen.sigModPitch, h.ratios_sat, h.gain, h.pitch, h.voice, h.channel_eq hf, h.channel_eq hf,
    addChannels_eq, voiceSaturates]
  simp only [Bool.or_assoc]
  ac_rfl

end SeenCells

end Sys2Proof.Machine
end

section
/-! PROOFS. The stages of one block of an active note (R320): which parts and bytes each of them may change. -/

namespace Sys2Proof.Machine

/-- The parts that phase A changes (R320, R330, R336). -/
def startParts : Part → Prop := fun p => sourcesParts 0 p ∨ p = .amp

/-- The parts that change after the global filter: legato registers and NSTAT, the budget, CREATED bits. -/
def endParts : Part → Prop := fun p => p = .head ∨ p = .budget ∨ ∃ v, p = .created v

/-- The parts that change after the voices: those and the global filters. -/
def closeParts : Part → Prop := fun p => (p = .flt 0 ∨ p = .flt 1) ∨ endParts p

/-- The bytes of OUTL and OUTR (R64). -/
def channelBytes (n : Nat) : Nat → Prop := fun x => noteBase n + 0x8000 ≤ x ∧ x < noteBase n + 0x8800

section
variable {n : Nat} {P : Part → Prop} {A : Nat → Prop}

theorem within_advance (s : State) : Within n P A s s.advance := .of_eq rfl rfl rfl rfl rfl rfl rfl

theorem within_modNote_head (h : P .head) (f : Note → Note) (hf : ∀ x, (f x).gampold = x.gampold ∧ (f x).gampnew = x.gampnew ∧
    (f x).envs = x.envs ∧ (f x).lfos = x.lfos ∧ (f x).flts = x.flts ∧ (f x).voices = x.voices) (s : State) :
    Within n P A s (s.modNote n f) := by
  obtain ⟨h1, h2, h3, h4, h5, h6⟩ := hf (s.note n)
  exact within_setNote _ s (absurd h) (fun _ => ⟨h1, h2⟩) (fun k _ => by rw [Note.env, h3]; rfl)
    (fun k _ => by rw [Note.lfo, h4]; rfl) (fun k _ => by rw [Note.flt, h5]; rfl) (fun k _ => by rw [Note.voice, h6]; rfl)
    fun k _ => by rw [Note.voice, h6]; rfl

theorem Note.voice_finish (x : Note) (v : Nat) : x.finish.voice v = { x.voice v with created := false } := by
  unfold Note.voice Note.finish
  dsimp only
  rw [Vector.getElem?_map]
  cases x.voices[v]? <;> rfl

theorem within_finish (s : State) : Within n endParts A s (s.modNote n Note.finish) := by
  refine within_setNote _ s (absurd (.inl rfl)) (fun _ => ⟨rfl, rfl⟩) (fun _ _ => rfl) (fun _ _ => rfl) (fun _ _ => rfl)
    (fun v _ => ?_) fun v hv => absurd (.inr (.inr ⟨v, rfl⟩)) hv
  rw [Note.voice_finish]
  rfl

theorem within_setOut (s : State) (l r : List Int) (hl : l.length = 256) (hr : r.length = 256) :
    Within n P (channelBytes n) s (s.setOut n l r) := by
  refine (within_setSignedCells _ _ (fun x hx => ?_) s).trans (within_setSignedCells _ _ (fun x hx => ?_) _) <;>
    simp only [wordsAt, channelBytes, outlAddr, outrAddr, hl, hr] at * <;> omega

theorem within_noteAmp (a al : Int) (s : State) : Within n (fun p => p = .amp) nowhere s (noteAmp n a al s) :=
  (within_noteSat _ s).trans (within_setNote (s := s.noteSat _) _ (fun _ => rfl) (absurd rfl) (fun _ _ => rfl) (fun _ _ => rfl)
    (fun _ _ => rfl) (fun _ _ => rfl) fun _ _ => rfl)

theorem within_phaseA (s : State) : Within n startParts nowhere s (phaseA n s).st :=
  (((within_runSources n 0 s (by decide)).mono (fun _ => .inl) fun _ h => h).trans (within_noteSat _ _)).trans
    ((within_noteAmp _ _ _).mono (fun _ => .inr) fun _ h => h)

theorem within_finishNote (x : Stereo) (h : x.Len) : Within n endParts (channelBytes n) x.st (finishNote n x) :=
  (((within_scale n _ _ _ x).trans (within_setOut _ _ _ (by simp [Stereo.scale, h.1]) (by simp [Stereo.scale, h.2]))).trans
    (within_nvoices _ (.inr (.inl rfl)) _)).trans (within_finish _)

theorem within_releaseVoice (v : Nat) (s : State) :
    Within n (fun p => p = .budget ∨ p = .created v) A s (releaseVoice n s v) := by
  unfold releaseVoice
  dsimp only
  split
  · exact (within_nvoices _ (.inl rfl) s).trans (within_setVoice v _ _ (.inr rfl) (.inl (.inr rfl)))
  · exact .refl _

theorem within_releaseVoices (s : State) :
    Within n (fun p => p = .budget ∨ ∃ v, p = .created v) A s (releaseVoices n s) :=
  Within.foldl _ _ (fun v _ u => (within_releaseVoice v u).mono (fun _ h => h.imp_right fun h => ⟨v, h⟩) fun _ h => h) s

theorem within_noteEnd (x : Stereo) (h : x.Len) : Within n endParts (channelBytes n) x.st (noteEnd n x) := by
  unfold noteEnd
  dsimp only
  split
  · exact (within_finishNote x h).trans (within_setRes _ _ _)
  · exact ((within_setOut _ _ _ h.1 h.2).trans
      ((within_releaseVoices _).mono (fun _ => .inr) fun _ h => h)).trans (within_setRes _ _ _)

theorem within_globalFilter (gff : Nat) (x : Stereo) :
    Within n (fun p => p = .flt 0 ∨ p = .flt 1) nowhere x.st (globalFilter n gff x).st := by
  unfold globalFilter
  split
  · exact within_stereoFilter n 0 gff _ x
  · exact .refl _

theorem within_withLegato (g : Legato) (s : State) :
    Within n (fun p => p = .head) A s (s.modNote n fun z => z.withLegato g) :=
  within_modNote_head (P := fun p => p = .head) rfl (fun z => z.withLegato g) (fun _ => ⟨rfl, rfl, rfl, rfl, rfl, rfl⟩) s

theorem within_noteLegatoApply (x : Stereo) : Within n (fun p => p = .head) A x.st (noteLegatoApply n x).st := by
  unfold noteLegatoApply
  dsimp only
  generalize Legato.gains 256 _ = gs
  generalize Legato.after 256 _ = g
  exact (within_scale n _ A (fun i => gs.getD i 0) x).trans (within_withLegato g _)

theorem within_notePan (x : Stereo) : Within n P A x.st (notePan n x).st := within_noteSat _ _

end

/-! ## The stages -/

section
variable (n : Nat) (s : State)

/-- Sums and state before voice v in the block of a note. -/
def noteBefore (v : Nat) : Sums := beforeVoice n (phaseA n s).gpitch (phaseA n s).st v

/-- The note's channels when its voices are done (R320 phase C). -/
def mixedNote : Stereo := noteChannels (noteBefore n s 8)

/-- After the global filter (R351). -/
def filteredNote : Stereo := globalFilter n (phaseA n s).gff (mixedNote n s)

/-- After amplitude, panning and legato (R351, R362). -/
def legatoNote : Stereo := noteLegatoApply n (notePan n (noteAmpApply n (filteredNote n s)))

/-- The state after NOTE.OUT on an active slot. -/
def noteDone : State := ((noteEnd n (legatoNote n s)).modNote n Note.rendered).advance

theorem exec_noteOut (b : Byte) (hn : b.toNat < 16) (hact : s.active b.toNat = true) :
    exec (.noteOut b) s = .next (noteDone b.toNat s) := by
  have hr : ∀ k, noteRender k s = (noteEnd k (legatoNote k s)).modNote k Note.rendered := fun _ => rfl
  have ok : noteIndexOk b = true := by simp [noteIndexOk, hn]
  have hi : index b = b.toNat := rfl
  simp only [exec, execNoteOut, ranged, ok, if_true, noteOut, hi, hact, hr, noteDone]

theorem within_mixedNote : Within n (fun _ => False) nowhere (noteBefore n s 8).st (mixedNote n s).st := within_noteSat _ _

theorem len_filteredNote : (filteredNote n s).Len := len_globalFilter n _ _ (len_noteChannels n _ _)

theorem len_legatoNote : (legatoNote n s).Len :=
  len_noteLegatoApply n _ (len_notePan n _ (len_scale _ _ (len_filteredNote n s)))

theorem within_filteredNote : Within n (fun p => p = .flt 0 ∨ p = .flt 1) nowhere (noteBefore n s 8).st
    (filteredNote n s).st :=
  ((within_mixedNote n s).mono (fun _ h => False.elim h) fun _ h => h).trans (within_globalFilter _ _)

theorem within_legatoNote : Within n (fun p => p = .head) nowhere (filteredNote n s).st (legatoNote n s).st :=
  ((within_scale n _ nowhere _ (filteredNote n s)).trans
    (within_notePan (noteAmpApply n (filteredNote n s)))).trans (within_noteLegatoApply _)

theorem within_noteDone_end : Within n endParts (channelBytes n) (legatoNote n s).st (noteDone n s) :=
  ((within_noteEnd _ (len_legatoNote n s)).trans (within_modNote_head (P := endParts) (.inl rfl) Note.rendered
    (fun _ => ⟨rfl, rfl, rfl, rfl, rfl, rfl⟩) _)).trans (within_advance _)

theorem within_noteDone_filtered : Within n endParts (channelBytes n) (filteredNote n s).st (noteDone n s) :=
  ((within_legatoNote n s).mono (fun _ => .inl) fun _ h => False.elim h).trans (within_noteDone_end n s)

theorem within_noteDone : Within n closeParts (channelBytes n) (noteBefore n s 8).st (noteDone n s) :=
  ((within_filteredNote n s).mono (fun _ => .inl) fun _ h => False.elim h).trans
    ((within_noteDone_filtered n s).mono (fun _ => .inr) fun _ h => h)

end

/-! ## Which voice a part or a byte belongs to -/

theorem rangeParts_env {s : State} {n v w k : Nat} (h : rangeParts s n v w (.env k)) :
    ∃ u, v ≤ u ∧ u < w ∧ s.live n u = true ∧ 3 + 3 * u ≤ k ∧ k < 6 + 3 * u := by
  obtain ⟨u, h1, h2, hl, h⟩ := h
  rcases h with h | h | ⟨j, hj, h | h⟩ | h | h <;> simp at h
  exact ⟨u, h1, h2, hl, by omega, by omega⟩

theorem rangeParts_lfo {s : State} {n v w k : Nat} (h : rangeParts s n v w (.lfo k)) :
    ∃ u, v ≤ u ∧ u < w ∧ s.live n u = true ∧ 3 + 3 * u ≤ k ∧ k < 6 + 3 * u := by
  obtain ⟨u, h1, h2, hl, h⟩ := h
  rcases h with h | h | ⟨j, hj, h | h⟩ | h | h <;> simp at h
  exact ⟨u, h1, h2, hl, by omega, by omega⟩

theorem rangeParts_flt {s : State} {n v w f : Nat} (h : rangeParts s n v w (.flt f)) :
    ∃ u, v ≤ u ∧ u < w ∧ s.live n u = true ∧ 2 + 2 * u ≤ f ∧ f < 4 + 2 * u := by
  obtain ⟨u, h1, h2, hl, h⟩ := h
  rcases h with h | h | ⟨j, hj, h | h⟩ | h | h <;> simp at h
  all_goals exact ⟨u, h1, h2, hl, by omega, by omega⟩

theorem rangeParts_voice {s : State} {n v w u : Nat} (h : rangeParts s n v w (.voice u)) :
    v ≤ u ∧ u < w ∧ s.live n u = true := by
  obtain ⟨u, h1, h2, hl, h⟩ := h
  rcases h with h | h | ⟨j, hj, h | h⟩ | h | h <;> simp at h
  subst h
  exact ⟨h1, h2, hl⟩

/-- Phase B leaves the note's own registers, its amplitudes, CREATED bits, the budget and the oscillators. -/
theorem not_rangeParts {s : State} {n v w : Nat} {p : Part}
    (hp : p = .head ∨ p = .amp ∨ (∃ u, p = .created u) ∨ p = .budget ∨ ∃ o, p = .osc o) : ¬ rangeParts s n v w p := by
  rintro ⟨u, _, _, _, h⟩
  rcases h with h | h | ⟨j, _, h | h⟩ | h | h <;>
  · subst h
    simp at hp

/-- A byte that phase B stores to lies in the slot of the voice it belongs to. -/
theorem not_rangeBytes {s : State} {n v w x : Nat} (h : ∀ u, v ≤ u → u < w → ¬ voiceBytes n u x) :
    ¬ rangeBytes s n v w x := by
  rintro ⟨u, h1, h2, hb⟩
  have := blockBytes_voice hb
  exact h u h1 h2 ⟨by omega, by omega⟩

theorem voiceBytes_unique {n u v x : Nat} (hu : voiceBytes n u x) (hv : voiceBytes n v x) : u = v := by
  simp only [voiceBytes, voiceBase] at *
  omega

theorem not_tableBytes_voiceBytes {n v x : Nat} (h : voiceBytes n v x) : ¬ tableBytes n x := by
  simp only [voiceBytes, voiceBase, tableBytes] at *
  omega

theorem not_channelBytes_of_voiceBytes {n v x : Nat} (h : voiceBytes n v x) : ¬ channelBytes n x := by
  simp only [voiceBytes, voiceBase, channelBytes] at *
  omega

/-- What phase A changes is no voice's. -/
theorem startParts_lt {p : Part} (h : startParts p) : p = .undef ∨ p = .amp ∨ ∃ k, k < 3 ∧ (p = .env k ∨ p = .lfo k) := by
  rcases h with (h | ⟨j, hj, h⟩) | h
  · exact .inl h
  · rw [Nat.zero_add] at h
    exact .inr (.inr ⟨j, hj, h⟩)
  · exact .inr (.inl h)

end Sys2Proof.Machine
end

section
/-! PROOFS. The voices of a note in one block (R320): every live voice's block finds its slot as it was before NOTE.OUT and
leaves it as it is after NOTE.OUT. -/

namespace Sys2Proof.Machine

section
variable (n : Nat) (s : State)

theorem voice_phaseA (v : Nat) : (phaseA n s).st.voice n v = s.voice n v :=
  (within_phaseA s).voice (by simp [startParts, sourcesParts]) (by simp [startParts, sourcesParts])

theorem live_phaseA (v : Nat) : (phaseA n s).st.live n v = s.live n v := by
  rw [State.live, State.live, voice_phaseA]

/-- The sources of the note run before anything else (R320 phase A). -/
theorem within_noteAmp_phaseA : Within n (fun p => p = .amp) nowhere (runSources n 0 s).st (phaseA n s).st :=
  (within_noteSat (P := fun p => p = .amp) _ _).trans (within_noteAmp _ _ _)

theorem noteBefore_zero : (noteBefore n s 0).st = (phaseA n s).st := rfl

theorem noteBefore_succ (v : Nat) :
    noteBefore n s (v + 1) = voiceBlock n (phaseA n s).gpitch (noteBefore n s v) v := beforeVoice_succ _ _ _ _

variable (hn : n < 16)
include hn

theorem within_noteBefore (v w : Nat) (hvw : v ≤ w) (hw : w ≤ 8) : Within n (rangeParts (phaseA n s).st n v w)
    (rangeBytes (phaseA n s).st n v w) (noteBefore n s v).st (noteBefore n s w).st :=
  within_beforeVoice n _ _ hn v w hvw hw

/-- From the start of NOTE.OUT to a voice's turn. -/
theorem within_before (v : Nat) (hv : v ≤ 8) : Within n (fun p => startParts p ∨ rangeParts (phaseA n s).st n 0 v p)
    (rangeBytes (phaseA n s).st n 0 v) s (noteBefore n s v).st :=
  ((within_phaseA s).mono (fun _ => .inl) fun _ h => False.elim h).trans
    ((within_noteBefore n s hn 0 v (Nat.zero_le v) hv).mono (fun _ => .inr) fun _ h => h)

/-- From a voice's turn to the end of NOTE.OUT. -/
theorem within_after (v : Nat) (hv : v ≤ 8) : Within n (fun p => closeParts p ∨ rangeParts (phaseA n s).st n v 8 p)
    (fun x => channelBytes n x ∨ rangeBytes (phaseA n s).st n v 8 x) (noteBefore n s v).st (noteDone n s) :=
  ((within_noteBefore n s hn v 8 hv le_rfl).mono (fun _ => .inr) fun _ => .inr).trans
    ((within_noteDone n s).mono (fun _ => .inl) fun _ => .inl)

theorem voice_noteBefore (v : Nat) (hv : v ≤ 8) : (noteBefore n s v).st.voice n v = s.voice n v :=
  (voice_beforeVoice n _ _ hn v hv v le_rfl).trans (voice_phaseA n s v)

theorem live_noteBefore (v : Nat) (hv : v ≤ 8) : (noteBefore n s v).st.live n v = s.live n v :=
  (live_beforeVoice n _ _ hn v hv).trans (live_phaseA n s v)

theorem noteBefore_live (v : Nat) (hv : v < 8) (hl : s.live n v = true) :
    noteBefore n s (v + 1) = liveVoice n v (phaseA n s).gpitch (noteBefore n s v) := by
  rw [noteBefore_succ, voiceBlock_live _ _ _ _ ((live_noteBefore n s hn v (by omega)).trans hl)]

/-! ## The global sources -/

/-- No voice's block and no later stage touches the first three envelopes and LFOs. -/
theorem source_noteDone (k : Nat) (hk : k < 3) : (noteDone n s).env n k = (runSources n 0 s).st.env n k ∧
    (noteDone n s).lfo n k = (runSources n 0 s).st.lfo n k := by
  have w := within_after n s hn 0 (Nat.zero_le 8)
  have he : ¬ rangeParts (phaseA n s).st n 0 8 (.env k) := fun h => by obtain ⟨u, _, _, _, h, _⟩ := rangeParts_env h; omega
  have hl : ¬ rangeParts (phaseA n s).st n 0 8 (.lfo k) := fun h => by obtain ⟨u, _, _, _, h, _⟩ := rangeParts_lfo h; omega
  have w' := within_noteAmp_phaseA n s
  exact ⟨(w.env (by simp [closeParts, endParts, he])).trans (w'.env (by simp)), (w.lfo (by simp [closeParts, endParts, hl])).trans (w'.lfo (by simp))⟩

/-- The values of the global sources stand in ERET and LOUT after NOTE.OUT (R330). -/
theorem global_outs : let m := runSources n 0 s
    let t := noteDone n s
    m.a = t.ret n 0 ∧ m.al = t.lout n 0 ∧ m.f = t.ret n 1 ∧ m.fl = t.lout n 1 ∧ m.c = t.ret n 2 ∧ m.cl = t.lout n 2 := by
  obtain ⟨h1, h2, h3, h4, h5, h6⟩ := runSources_outs n 0 s (by decide) hn (by decide)
  have he : ∀ k, k < 3 → (noteDone n s).ret n k = (runSources n 0 s).st.ret n k := fun k hk => by
    rw [State.ret, State.ret, (source_noteDone n s hn k hk).1]
  have hl : ∀ k, k < 3 → (noteDone n s).lout n k = (runSources n 0 s).st.lout n k := fun k hk => by
    rw [State.lout, State.lout, (source_noteDone n s hn k hk).2]
  dsimp only
  rw [he 0 (by decide), he 1 (by decide), he 2 (by decide), hl 0 (by decide), hl 1 (by decide), hl 2 (by decide)]
  exact ⟨h1, h2, h3, h4, h5, h6⟩

theorem globalPitch_eq : globalPitch (runSources n 0 s).f (runSources n 0 s).fl (runSources n 0 s).st.ctl.modwheel =
    notePitch s (noteDone n s) n := by
  obtain ⟨_, _, h3, h4, _, _⟩ := global_outs n s hn
  rw [globalPitch, notePitch, h3, h4, (within_runSources n 0 s (by decide)).ctl]

theorem gpitch_eq : (phaseA n s).gpitch = (notePitch s (noteDone n s) n).val :=
  congrArg Sat.val (globalPitch_eq n s hn)

/-! ## What a live voice's block finds and leaves -/

theorem seen_voice (v : Nat) (hv : v < 8) (hl : s.live n v = true) :
    Seen n v (phaseA n s).gpitch (noteBefore n s v) s (noteDone n s) := by
  have b := within_before n s hn v (by omega)
  have e := within_after n s hn (v + 1) (by omega)
  have hnext := noteBefore_live n s hn v hv hl
  refine ⟨hn, hv, ?_, b.ctl, voice_noteBefore n s hn v (by omega), fun right => b.flt ?_, gpitch_eq n s hn, fun j hj => ?_,
    fun j hj => ?_, fun right => ?_, ?_⟩
  · exact (congrArg Note.log2freq (b.head (by simp [startParts, sourcesParts, not_rangeParts])) :)
  · rintro (h | h)
    · simp [startParts, sourcesParts] at h
    · obtain ⟨u, _, hu, _, _, h⟩ := rangeParts_flt h; omega
  · rw [← hnext]
    refine e.env ?_
    rintro (h | h)
    · simp [closeParts, endParts] at h
    · obtain ⟨u, hu, _, _, h, _⟩ := rangeParts_env h; omega
  · rw [← hnext]
    refine e.lfo ?_
    rintro (h | h)
    · simp [closeParts, endParts] at h
    · obtain ⟨u, hu, _, _, h, _⟩ := rangeParts_lfo h; omega
  · rw [← hnext]
    refine e.flt ?_
    have hb : right.toNat ≤ 1 := right.toNat_le
    rintro (h | h)
    · simp [closeParts, endParts] at h; omega
    · obtain ⟨u, hu, _, _, h, _⟩ := rangeParts_flt h; omega
  · rw [← hnext]
    refine e.core ?_
    rintro (h | h)
    · simp [closeParts, endParts] at h
    · have := rangeParts_voice h; omega

/-! ## Where every cell is written -/

/-- VOUT of a created voice is written when its turn is over (R320, R352). -/
theorem written_vout (v : Nat) (hv : v < 8) (hc : (s.voice n v).created = true) :
    (noteBefore n s (v + 1)).st.Written (voutAddr n v) 256 := by
  intro i hi
  rw [noteBefore_succ]
  cases hl : (noteBefore n s v).st.live n v with
  | true =>
    rw [voiceBlock_live _ _ _ _ hl]
    obtain ⟨_, _, _, _, hw, _⟩ := deposit_liveVoice n v (phaseA n s).gpitch (noteBefore n s v).st hn hv _ rfl
    rw [hw i hi]; rfl
  | false =>
    rw [voiceBlock_finished _ _ _ _ hl (by rw [voice_noteBefore n s hn v (by omega)]; exact hc),
      setSignedCells_word? _ _ _ _ (by simpa using hi)]
    rfl

/-- What phase B stores before a voice's turn is none of its slot's bytes. -/
theorem bytes_before (v : Nat) (hv : v ≤ 8) (x : Nat) (hx : voiceBytes n v x) :
    (noteBefore n s v).st.mem.byte? x = s.mem.byte? x :=
  (within_before n s hn v hv).bytes x (not_rangeBytes fun u _ hu h => by have := voiceBytes_unique h hx; omega)

theorem written_before (v : Nat) (hv : v ≤ 8) {a m : Nat} (h : s.Written a m) (ha : ∀ x, wordsAt a m x → voiceBytes n v x) :
    (noteBefore n s v).st.Written a m :=
  (within_before n s hn v hv).written h fun x hx => not_rangeBytes fun u _ hu h => by
    have := voiceBytes_unique h (ha x hx); omega

omit hn in
theorem live_stepped (v j : Nat) (hj : j < 3) (hl : s.live n v = true) : s.stepped n (3 + 3 * v + j) = true := by
  rw [State.stepped, show (3 + 3 * v + j - 3) / 3 = v by omega, hl, Bool.or_true]

variable (hr : NoteReady s n)
include hr

theorem sourceReady_before (v j : Nat) (hv : v < 8) (hj : j < 3) (hl : s.live n v = true) :
    SourceReady (noteBefore n s v).st n (3 + 3 * v + j) := by
  refine (within_before n s hn v (by omega)).sourceReady ?_ (by omega) ?_
    (hr.envs _ (by omega) (live_stepped n s v j hj hl))
  · rintro (h | h)
    · have := startParts_lt h
      simp at this
      omega
    · obtain ⟨u, _, hu, _, _, h⟩ := rangeParts_env h; omega
  · exact fun x hx => not_rangeBytes fun u _ _ h => not_tableBytes_voiceBytes h hx

theorem voiceReady_before (v : Nat) (hv : v < 8) (hl : s.live n v = true) : VoiceReady (noteBefore n s v).st n v := by
  have hy := voice_noteBefore n s hn v (by omega)
  have keep := fun {a m : Nat} => @written_before n s hn v (by omega) a m
  have record : ∀ k d m x, k < (s.voice n v).usize.toNat → d + 4 * m ≤ 64 → wordsAt (uniAddr n v k + d) m x →
      voiceBytes n v x := by
    intro k d m x hk hd hx
    have := usize_lt _ hk
    simp only [wordsAt, uniAddr, voiceBytes] at *
    omega
  obtain ⟨hw, hwm⟩ := hr.waves v hv hl
  have recs := fun k (hk : k < (s.voice n v).usize.toNat) => hr.records v k hv hl hk
  constructor <;> try rw [hy]
  case sources => exact fun j hj => sourceReady_before n s hn hr v j hv hj hl
  case wave => exact keep hw (wave_in_voice false)
  case ownWave => exact fun h0 h1 => keep (hwm h0 h1) (wave_in_voice true)
  case external =>
    intro h0 h1
    obtain ⟨hlt, hc⟩ := hr.modulators v hv hl h0 h1
    refine (within_noteBefore n s hn ((s.voice n v).modvoice + 1) v hlt (by omega)).written
      (written_vout n s hn _ (by omega) hc) fun x hx => not_rangeBytes fun u hu _ h => ?_
    have := voiceBytes_unique h (vout_in_voice x hx)
    omega
  case vibrato => exact fun k hk h1 => keep ((recs k hk).1 h1) fun x => record k 0 3 x hk (by decide)
  case pan => exact fun k hk => keep (recs k hk).2.1 fun x => record k _ 2 x hk (by decide)
  case carrier => exact fun k hk => keep (recs k hk).2.2.1 fun x => record k _ 2 x hk (by decide)
  case modulator => exact fun k hk h0 h1 => keep ((recs k hk).2.2.2.1 h0 h1) fun x => record k _ 2 x hk (by decide)
  case integrator => exact fun k hk h4 => keep ((recs k hk).2.2.2.2 h4) fun x => record k _ 2 x hk (by decide)

omit hn in
theorem globalReady (j : Nat) (hj : j < 3) : SourceReady s n (0 + j) := by
  rw [Nat.zero_add]
  exact hr.envs j (by omega) (by simp [State.stepped, hj])

theorem undefReads_phaseA : (phaseA n s).st.undefReads = s.undefReads :=
  ((within_noteAmp_phaseA n s).undef (by simp)).trans
    (runSources_ready n 0 s (by decide) (by decide) (globalReady n s hr) hn).1

theorem undefReads_before (v : Nat) (hv : v ≤ 8) : (noteBefore n s v).st.undefReads = s.undefReads := by
  induction v with
  | zero => exact undefReads_phaseA n s hn hr
  | succ v ih =>
    cases hl : s.live n v with
    | true =>
      rw [noteBefore_live n s hn v (by omega) hl,
        undefReads_liveVoice n v _ _ hn (by omega) (voiceReady_before n s hn hr v (by omega) hl)]
      exact ih (by omega)
    | false =>
      have hl' := (live_noteBefore n s hn v (by omega)).trans hl
      rw [noteBefore_succ]
      cases hc : ((noteBefore n s v).st.voice n v).created with
      | true => rw [voiceBlock_finished _ _ _ _ hl' hc]; exact ih (by omega)
      | false => rw [voiceBlock_absent _ _ _ _ hc]; exact ih (by omega)

theorem undefReads_noteDone : (noteDone n s).undefReads = s.undefReads :=
  ((within_noteDone n s).undef (by simp [closeParts, endParts])).trans (undefReads_before n s hn hr 8 le_rfl)

theorem seenCells_voice (v : Nat) (hv : v < 8) (hl : s.live n v = true) :
    SeenCells n v (phaseA n s).gpitch (noteBefore n s v) s (noteDone n s) where
  toSeen := seen_voice n s hn v hv hl
  ready := voiceReady_before n s hn hr v hv hl
  undef := undefReads_before n s hn hr v (by omega)
  undef' := undefReads_noteDone n s hn hr
  bytes := bytes_before n s hn v (by omega)
  bytes' x hx := by
    rw [← noteBefore_live n s hn v hv hl]
    refine (within_after n s hn (v + 1) (by omega)).bytes x ?_
    rintro (h | h)
    · exact not_channelBytes_of_voiceBytes hx h
    · exact not_rangeBytes (fun u hu _ h => by have := voiceBytes_unique h hx; omega) h
  other h0 h1 := by
    obtain ⟨hlt, _⟩ := hr.modulators v hv hl h0 h1
    refine ⟨hlt, fun x hx => (within_after n s hn v (by omega)).bytes x ?_⟩
    rintro (h | h)
    · exact not_channelBytes_of_voiceBytes (vout_in_voice x hx) h
    · exact not_rangeBytes (fun u hu _ h => by have := voiceBytes_unique h (vout_in_voice x hx); omega) h

end

end Sys2Proof.Machine
end

section
/-! PROOFS. What phases A and B of NOTE.OUT compute (R320): the note's amplitude, the flags of the voices, and the sums that
the voices deposit. -/

namespace Sys2Proof.Machine

theorem finished_of_live {s : State} {n v : Nat} (h : s.live n v = true) : (s.voice n v).finished = false := by
  unfold State.live at h
  simp only [Bool.and_eq_true, Bool.not_eq_true'] at h
  exact h.2

/-! ## Flags of the voices -/

/-- The three flags that the block of a note may raise, read bit by bit (R44). -/
theorem getLsbD_flags (a b c d e : Bool) :
    let f := flag a .sat ||| flag b .clamp ||| flag c .cfg ||| flag d .sat ||| flag e .sat
    f.getLsbD 1 = c ∧ f.getLsbD 2 = b ∧ f.getLsbD 3 = (a || d || e) := by
  simp only [BitVec.getLsbD_or, getLsbD_flag, ErrBit.pos]
  simp

/-- The flags that phase B raises for a voice. -/
def blockFlags (n v : Nat) (gp : Int) (acc : Sums) : BitVec 8 :=
  if acc.st.live n v then
    liveFlags n v gp acc.st ||| flag ((liveChannel n v gp acc.st false).sat || (liveChannel n v gp acc.st true).sat) .sat |||
      flag ((acc.st.voice n v).dest && (addChannels (liveChannel n v gp acc.st false).val
        (liveChannel n v gp acc.st true).val).sat) .sat
  else 0

theorem err_voiceBlock (n v : Nat) (gp : Int) (acc : Sums) (hn : n < 16) (hv : v < 8) :
    (voiceBlock n gp acc v).st.err = acc.st.err ||| blockFlags n v gp acc := by
  unfold blockFlags
  cases hl : acc.st.live n v with
  | true =>
    obtain ⟨_, _, _, _, _, he⟩ := deposit_liveVoice n v gp acc.st hn hv acc rfl
    rw [voiceBlock_live _ _ _ _ hl, he, if_pos rfl]
    simp only [BitVec.or_assoc]
  | false =>
    rw [if_neg (by decide)]
    refine Eq.trans ?_ (BitVec.or_zero ..).symm
    cases hc : (acc.st.voice n v).created with
    | true => rw [voiceBlock_finished _ _ _ _ hl hc]; rfl
    | false => rw [voiceBlock_absent _ _ _ _ hc]

/-! ## Deposits -/

/-- One of the two accumulators. -/
def Sums.side (acc : Sums) (right : Bool) : List Int := if right then acc.r else acc.l

/-- What voice v deposits in a channel of the note (R352). -/
def depositOf (s t : State) (n v : Nat) (right : Bool) : List Int :=
  if s.live n v && !(s.voice n v).dest then
    (voiceChannel s t n v right).val.map (· * (if right then (s.voice n v).vpanr else (s.voice n v).vpanl).toInt)
  else []

theorem noteDeposit_eq (s t : State) (n : Nat) (right : Bool) : noteDeposit s t n right =
    mapSat (fun i => sat32 (fdiv ((((List.range 8).map fun v => depositOf s t n v right).map (·.getD i 0)).sum + 8388608)
      16777216)) (List.range 256) := rfl

theorem side_voiceBlock_live (n v : Nat) (gp : Int) (acc : Sums) (hn : n < 16) (hv : v < 8) (hl : acc.st.live n v = true)
    (right : Bool) : (liveChannel n v gp acc.st right).val.length = 256 ∧ (voiceBlock n gp acc v).side right =
      if (acc.st.voice n v).dest then acc.side right
      else addWeighted (acc.side right) (liveChannel n v gp acc.st right).val
        (if right then (acc.st.voice n v).vpanr else (acc.st.voice n v).vpanl).toInt := by
  obtain ⟨h1, h2, h3, h4, _, _⟩ := deposit_liveVoice n v gp acc.st hn hv acc rfl
  rw [voiceBlock_live _ _ _ _ hl]
  cases right with
  | false => exact ⟨h1, h3⟩
  | true => exact ⟨h2, h4⟩

theorem side_voiceBlock_idle (n v : Nat) (gp : Int) (acc : Sums) (hl : acc.st.live n v = false) (right : Bool) :
    (voiceBlock n gp acc v).side right = acc.side right := by
  cases hc : (acc.st.voice n v).created with
  | true => rw [voiceBlock_finished _ _ _ _ hl hc]; rfl
  | false => rw [voiceBlock_absent _ _ _ _ hc]

theorem getD_map_mul (l : List Int) (w : Int) (i : Nat) : (l.map (· * w)).getD i 0 = l.getD i 0 * w := by
  rw [List.getD_eq_getElem?_getD, List.getD_eq_getElem?_getD, List.getElem?_map]
  cases l[i]? with
  | none => exact (Int.zero_mul w).symm
  | some x => rfl

theorem noteSum_eq (acc : List Int) (h : acc.length = 256) :
    noteSum acc = mapSat (fun i => sat32 (fdiv (acc.getD i 0 + 8388608) 16777216)) (List.range 256) := by
  have ha : acc = (List.range 256).map fun i => acc.getD i 0 := by
    apply List.ext_getElem
    · simp [h]
    · intro i h1 h2
      simp [List.getD, List.getElem?_eq_getElem h1]
  conv_lhs => rw [ha]
  rw [noteSum, mapSat_map]

section
variable (n : Nat) (s : State) (hn : n < 16)
include hn

theorem getLsbD_err_noteBefore (i v : Nat) (hv : v ≤ 8) : (noteBefore n s v).st.err.getLsbD i =
    ((phaseA n s).st.err.getLsbD i ||
      (List.range v).any fun u => (blockFlags n u (phaseA n s).gpitch (noteBefore n s u)).getLsbD i) := by
  induction v with
  | zero => rw [noteBefore_zero]; simp
  | succ v ih =>
    rw [noteBefore_succ, err_voiceBlock _ _ _ _ hn (by omega), BitVec.getLsbD_or, ih (by omega), List.range_succ,
      List.any_append, Bool.or_assoc]
    simp

/-- The sums before a voice's turn (R320, R352). -/
theorem sums_noteBefore (hr : NoteReady s n) (right : Bool) (v : Nat) (hv : v ≤ 8) :
    ((noteBefore n s v).side right).length = 256 ∧ ∀ i, ((noteBefore n s v).side right).getD i 0 =
      (((List.range v).map fun u => depositOf s (noteDone n s) n u right).map (·.getD i 0)).sum := by
  induction v with
  | zero =>
    have hz : (noteBefore n s 0).side right = zeros 256 := by cases right <;> rfl
    rw [hz]
    exact ⟨List.length_replicate, fun i => getD_zeros 256 i⟩
  | succ v ih =>
    obtain ⟨hlen, hsum⟩ := ih (by omega)
    have hl := live_noteBefore n s hn v (by omega)
    have hy := voice_noteBefore n s hn v (by omega)
    have step : ∀ i, (((List.range (v + 1)).map fun u => depositOf s (noteDone n s) n u right).map (·.getD i 0)).sum =
        ((noteBefore n s v).side right).getD i 0 + (depositOf s (noteDone n s) n v right).getD i 0 := fun i => by
      rw [hsum, List.range_succ, List.map_append, List.map_append, List.sum_append]
      simp
    simp only [step]
    rw [noteBefore_succ]
    cases hlive : s.live n v with
    | false =>
      rw [side_voiceBlock_idle _ _ _ _ (hl.trans hlive)]
      refine ⟨hlen, fun i => ?_⟩
      rw [depositOf, hlive, Bool.false_and, if_neg (by decide)]
      exact (Int.add_zero _).symm
    | true =>
      obtain ⟨hc, hside⟩ := side_voiceBlock_live n v (phaseA n s).gpitch (noteBefore n s v) hn (by omega) (hl.trans hlive) right
      have hch := (seenCells_voice n s hn hr v (by omega) hlive).channel_eq (finished_of_live hlive) right
      rw [hside, hy]
      rw [hch] at hc ⊢
      unfold depositOf
      rw [hlive, Bool.true_and]
      cases (s.voice n v).dest with
      | true => exact ⟨hlen, fun i => (Int.add_zero _).symm⟩
      | false =>
        refine ⟨?_, fun i => ?_⟩
        · rw [if_neg (by decide), addWeighted, List.length_zipWith, hlen, hc, Nat.min_self]
        · rw [if_neg (by decide), getD_addWeighted _ _ _ _ (hlen.trans hc.symm), Bool.not_false, if_pos rfl, getD_map_mul]

/-- The channels after the voices (R320 phase C). -/
theorem noteSum_before (hr : NoteReady s n) (right : Bool) :
    noteSum ((noteBefore n s 8).side right) = noteDeposit s (noteDone n s) n right := by
  obtain ⟨hlen, hsum⟩ := sums_noteBefore n s hn hr right 8 le_rfl
  rw [noteSum_eq _ hlen, noteDeposit_eq]
  simp only [hsum]

/-! ## When the voices raise a flag -/

theorem blockFlags_live (v : Nat) (hv : v < 8) : blockFlags n v (phaseA n s).gpitch (noteBefore n s v) =
    if s.live n v then
      liveFlags n v (phaseA n s).gpitch (noteBefore n s v).st |||
        flag ((liveChannel n v (phaseA n s).gpitch (noteBefore n s v).st false).sat ||
          (liveChannel n v (phaseA n s).gpitch (noteBefore n s v).st true).sat) .sat |||
        flag (((noteBefore n s v).st.voice n v).dest && (addChannels
          (liveChannel n v (phaseA n s).gpitch (noteBefore n s v).st false).val
          (liveChannel n v (phaseA n s).gpitch (noteBefore n s v).st true).val).sat) .sat
    else 0 := by
  rw [blockFlags, live_noteBefore n s hn v (by omega)]

theorem blockFlags_clamp (v : Nat) (hv : v < 8) :
    (blockFlags n v (phaseA n s).gpitch (noteBefore n s v)).getLsbD 2 = true ↔ s.live n v = true ∧
      (exp2 (blockPitch s (noteDone n s) n v).val < 6554 ∨ exp2 (modPitch s (noteDone n s) n v).val < 6554 ∨
        (s.voice n v).filterOn = true ∧
          setCoefClamps (exp2 (voiceCutoff s (noteDone n s) n v).val) (s.voice n v).vfq) := by
  rw [blockFlags_live n s hn v hv]
  cases hl : s.live n v with
  | false => simp
  | true =>
    rw [← (seen_voice n s hn v hv hl).clamps, if_pos rfl, liveFlags, (getLsbD_flags _ _ _ _ _).2.1]
    exact ⟨fun h => ⟨rfl, h⟩, fun h => h.2⟩

theorem blockFlags_cfg (v : Nat) (hv : v < 8) :
    (blockFlags n v (phaseA n s).gpitch (noteBefore n s v)).getLsbD 1 = true ↔ s.live n v = true ∧
      (s.voice n v).filterOn = true ∧
        ((s.flt n (2 + 2 * v)).stagesBad = true ∨ (s.flt n (3 + 2 * v)).stagesBad = true) := by
  rw [blockFlags_live n s hn v hv]
  cases hl : s.live n v with
  | false => simp
  | true =>
    have h := seen_voice n s hn v hv hl
    rw [← h.voice, ← h.flt0, ← h.flt1, if_pos rfl, liveFlags, (getLsbD_flags _ _ _ _ _).1, Bool.and_eq_true,
      Bool.or_eq_true]
    exact ⟨fun h => ⟨rfl, h⟩, fun h => h.2⟩

theorem blockFlags_sat (hr : NoteReady s n) (v : Nat) (hv : v < 8) :
    (blockFlags n v (phaseA n s).gpitch (noteBefore n s v)).getLsbD 3 =
      (s.live n v && (sourcesSat (noteBefore n s v).st n (3 + 3 * v) || voiceSaturates s (noteDone n s) n v)) := by
  rw [blockFlags_live n s hn v hv]
  cases hl : s.live n v with
  | false => simp
  | true =>
    rw [← (seenCells_voice n s hn hr v hv hl).saturates (finished_of_live hl), if_pos rfl, liveFlags,
      (getLsbD_flags _ _ _ _ _).2.2, Bool.true_and]

end

end Sys2Proof.Machine
end

section
/-! PROOFS. The note's channels after its voices (R351, R353, R362): global filter, amplitude, panning, legato gain and
fade-out, with their flags, and OUTL and OUTR after NOTE.OUT. -/

namespace Sys2Proof.Machine

/-! ## Phase A (R331, R333, R336) -/

section
variable (n : Nat) (s : State) (hn : n < 16)
include hn

theorem cutoff_eq : sat32 (((runSources n 0 s).st.note n).gfbase.toInt + ((runSources n 0 s).st.note n).cutoff.toInt +
    (runSources n 0 s).c + (runSources n 0 s).cl) = noteCutoff s (noteDone n s) n := by
  obtain ⟨_, _, _, _, h5, h6⟩ := global_outs n s hn
  have hh := (within_runSources n 0 s (by decide)).head (by simp [sourcesParts])
  have h1 : ((runSources n 0 s).st.note n).gfbase = (s.note n).gfbase := (congrArg Note.gfbase hh :)
  have h2 : ((runSources n 0 s).st.note n).cutoff = (s.note n).cutoff := (congrArg Note.cutoff hh :)
  rw [noteCutoff, h1, h2, h5, h6]

theorem gff_eq : (phaseA n s).gff = exp2 (noteCutoff s (noteDone n s) n).val := by
  rw [← cutoff_eq n s hn]; rfl

theorem gain_eq : ((qmul ((runSources n 0 s).st.note n).volume.toInt ((runSources n 0 s).st.note n).velocity.toInt).bind fun l =>
    blockGain l (runSources n 0 s).a (runSources n 0 s).al) = noteGain s (noteDone n s) n := by
  obtain ⟨h1, h2, _⟩ := global_outs n s hn
  have hh := (within_runSources n 0 s (by decide)).head (by simp [sourcesParts])
  have h3 : ((runSources n 0 s).st.note n).volume = (s.note n).volume := (congrArg Note.volume hh :)
  have h4 : ((runSources n 0 s).st.note n).velocity = (s.note n).velocity := (congrArg Note.velocity hh :)
  rw [noteGain, h1, h2, h3, h4]
  rfl

theorem note_noteAmp (a al : Int) (u : State) : ((noteAmp n a al u).note n) =
    let g := (qmul (u.note n).volume.toInt (u.note n).velocity.toInt).bind fun l => blockGain l a al
    { u.note n with gampold := if (u.note n).nstat.first then toWord g.val else (u.note n).gampnew, gampnew := toWord g.val } :=
  note_setNote_self _ _ _ hn

omit hn in
theorem err_noteAmp (a al : Int) (u : State) : (noteAmp n a al u).err =
    u.err ||| flag ((qmul (u.note n).volume.toInt (u.note n).velocity.toInt).bind fun l => blockGain l a al).sat .sat :=
  err_noteSat _ _

/-- The note's amplitudes (R336). -/
theorem amp_noteDone : ((noteDone n s).note n).gampnew = toWord (noteGain s (noteDone n s) n).val ∧
    ((noteDone n s).note n).gampold =
      if (s.note n).nstat.first then ((noteDone n s).note n).gampnew else (s.note n).gampnew := by
  have wa := (within_after n s hn 0 (by decide)).parts .amp
    (by simp [closeParts, endParts, not_rangeParts])
  have wm := within_runSources n 0 s (by decide)
  have hm : ((runSources n 0 s).st.note n).gampnew = (s.note n).gampnew :=
    (wm.parts .amp (by simp [sourcesParts])).2
  have hf : ((runSources n 0 s).st.note n).nstat.first = (s.note n).nstat.first :=
    (congrArg (fun x : Note => x.nstat.first) (wm.head (by simp [sourcesParts])) :)
  have hp : (noteBefore n s 0).st = noteAmp n (runSources n 0 s).a (runSources n 0 s).al
    ((runSources n 0 s).st.noteSat ((globalPitch (runSources n 0 s).f (runSources n 0 s).fl
      (runSources n 0 s).st.ctl.modwheel).sat || (sat32 (((runSources n 0 s).st.note n).gfbase.toInt +
        ((runSources n 0 s).st.note n).cutoff.toInt + (runSources n 0 s).c + (runSources n 0 s).cl)).sat)) := rfl
  have hk : ∀ (u : State) b, (u.noteSat b).note n = u.note n := fun _ _ => rfl
  obtain ⟨h1, h2⟩ := wa
  rw [hp, note_noteAmp n hn] at h1 h2
  dsimp only at h1 h2
  rw [hk, gain_eq n s hn, hm, hf] at h1
  rw [hk, gain_eq n s hn] at h2
  exact ⟨h2, by rw [h1, h2]⟩

/-- The flags of phase A. -/
theorem err_phaseA : (phaseA n s).st.err = s.err ||| flag (sourcesSat s n 0 || (notePitch s (noteDone n s) n).sat ||
    (noteCutoff s (noteDone n s) n).sat || (noteGain s (noteDone n s) n).sat) .sat := by
  have hk : ∀ (u : State) b, (u.noteSat b).note n = u.note n := fun _ _ => rfl
  rw [← globalPitch_eq n s hn, ← cutoff_eq n s hn, ← gain_eq n s hn]
  refine (err_noteAmp n _ _ _).trans ?_
  rw [hk, err_noteSat, err_runSources n 0 s (by decide)]
  simp only [flag_or, BitVec.or_assoc]

end

/-! ## The chain of the two channels -/

section
variable {x : Stereo} {e : BitVec 8} {l r : Sat (List Int)}

theorem Carries.pan (n : Nat) (h : Carries x e l r) {gl gr : Int} (hl : (x.st.note n).panl.toInt = gl)
    (hr : (x.st.note n).panr.toInt = gr) :
    Carries (notePan n x) e (l.bind (scaleBy fun _ => gl)) (r.bind (scaleBy fun _ => gr)) := by
  have hL : (notePan n x).l = (scaleBy (fun _ => gl) x.l).val := by rw [← hl]; rfl
  have hR : (notePan n x).r = (scaleBy (fun _ => gr) x.r).val := by rw [← hr]; rfl
  have hS : (notePan n x).st = x.st.noteSat ((scaleBy (fun _ => gl) x.l).sat || (scaleBy (fun _ => gr) x.r).sat) := by
    rw [← hl, ← hr]; rfl
  refine ⟨by rw [hL, h.left]; rfl, by rw [hR, h.right]; rfl, ?_⟩
  rw [hS, err_noteSat, h.err, h.left, h.right, flag_pairs]
  rfl

theorem getD_gains (m : Nat) : ∀ (g : Legato) (i : Nat), i < m → (Legato.gains m g).getD i 0 = (Legato.after i g).gain := by
  induction m with
  | zero => exact fun _ _ h => absurd h (Nat.not_lt_zero _)
  | succ m ih =>
    intro g i hi
    cases i with
    | zero => rfl
    | succ i => exact ih g.next i (by omega)

theorem scaleBy_congr {f g : Nat → Int} (b : List Int) (h : ∀ i, i < b.length → f i = g i) : scaleBy f b = scaleBy g b :=
  mapSat_congr _ _ _ fun i hi => by rw [h i (List.mem_range.1 hi)]

theorem scale_congr {f g : Nat → Int} (x : Stereo) (hx : x.Len) (h : ∀ i, i < 256 → f i = g i) : x.scale f = x.scale g := by
  unfold Stereo.scale
  rw [scaleBy_congr x.l fun i hi => h i (hx.1 ▸ hi), scaleBy_congr x.r fun i hi => h i (hx.2 ▸ hi)]

theorem Carries.legato (n : Nat) (h : Carries x e l r) (hx : x.Len) {g : Legato} (hg : (x.st.note n).legato = g) :
    Carries (noteLegatoApply n x) e (l.bind (scaleBy fun i => (Legato.after i g).gain))
      (r.bind (scaleBy fun i => (Legato.after i g).gain)) := by
  have hs := h.scale fun i => (Legato.after i g).gain
  have hg' := scale_congr x hx (getD_gains 256 g)
  unfold noteLegatoApply
  rw [hg]
  dsimp only
  rw [hg']
  exact ⟨hs.left, hs.right, hs.err⟩

end

/-- A channel from the deposits to the legato gain (R351, R362). -/
def noteTail (x : Note) (old new : Int) (right : Bool) (c : Sat (List Int)) : Sat (List Int) :=
  ((c.bind (scaleBy (ampGain old new))).bind (scaleBy fun _ => (if right then x.panr else x.panl).toInt)).bind
    (scaleBy fun i => (Legato.after i x.legato).gain)

/-- The global filter on a channel (R351). -/
def noteRun (s t : State) (n : Nat) (right : Bool) (b : List Int) : Sat (List Int) :=
  if (s.note n).gfen = 1 then
    (fltRun (s.flt n right.toNat) (exp2 (noteCutoff s t n).val) (s.note n).gfq.toInt b).map (·.1)
  else .ok b

/-- The channel before the note's fade-out. -/
def legatoChannel (n : Nat) (s : State) (right : Bool) : Sat (List Int) :=
  noteTail (s.note n) ((noteDone n s).note n).gampold.toInt ((noteDone n s).note n).gampnew.toInt right
    ((noteSum ((noteBefore n s 8).side right)).bind (noteRun s (noteDone n s) n right))

section
variable (n : Nat) (s : State) (hn : n < 16)
include hn

theorem head_noteBefore : ((noteBefore n s 8).st.note n).head = (s.note n).head :=
  (within_before n s hn 8 le_rfl).head (by simp [startParts, sourcesParts, not_rangeParts])

theorem head_mixedNote : ((mixedNote n s).st.note n).head = (s.note n).head :=
  ((within_mixedNote n s).head id).trans (head_noteBefore n s hn)

theorem head_filteredNote : ((filteredNote n s).st.note n).head = (s.note n).head :=
  ((within_filteredNote n s).head (by simp)).trans (head_noteBefore n s hn)

theorem flt_mixedNote (f : Nat) (hf : f < 2) : (mixedNote n s).st.flt n f = s.flt n f := by
  refine ((within_mixedNote n s).flt id).trans ((within_before n s hn 8 le_rfl).flt ?_)
  rintro (h | h)
  · simp [startParts, sourcesParts] at h
  · obtain ⟨u, _, _, _, h, _⟩ := rangeParts_flt h; omega

omit hn in
/-- The flags before the note's channels are filtered. -/
theorem carries_mixedNote : Carries (mixedNote n s) (noteBefore n s 8).st.err (noteSum ((noteBefore n s 8).side false))
    (noteSum ((noteBefore n s 8).side true)) := ⟨rfl, rfl, err_noteSat _ _⟩

theorem carries_filteredNote : Carries (filteredNote n s) ((noteBefore n s 8).st.err |||
      flag (decide ((s.note n).gfen = 1) && coefClamped (exp2 (noteCutoff s (noteDone n s) n).val) (s.note n).gfq.toInt) .clamp |||
      flag (decide ((s.note n).gfen = 1) && ((s.flt n 0).stagesBad || (s.flt n 1).stagesBad)) .cfg)
    ((noteSum ((noteBefore n s 8).side false)).bind (noteRun s (noteDone n s) n false))
    ((noteSum ((noteBefore n s 8).side true)).bind (noteRun s (noteDone n s) n true)) := by
  have hh := head_mixedNote n s hn
  have h1 : ((mixedNote n s).st.note n).gfen = (s.note n).gfen := (congrArg Note.gfen hh :)
  have h2 : ((mixedNote n s).st.note n).gfq = (s.note n).gfq := (congrArg Note.gfq hh :)
  have hc := carries_mixedNote n s
  have hrun : ∀ right, noteRun s (noteDone n s) n right = fun b => if (s.note n).gfen = 1 then
      (fltRun (s.flt n right.toNat) (exp2 (noteCutoff s (noteDone n s) n).val) (s.note n).gfq.toInt b).map (·.1)
    else .ok b := fun _ => rfl
  unfold filteredNote globalFilter
  rw [h1, h2, gff_eq n s hn, hrun, hrun]
  by_cases hon : (s.note n).gfen = 1
  · have hf := hc.filter (f := 0) (exp2 (noteCutoff s (noteDone n s) n).val) (s.note n).gfq.toInt hn (by decide)
    rw [flt_mixedNote n s hn 0 (by decide), flt_mixedNote n s hn (0 + 1) (by decide)] at hf
    simp only [hon, if_true, decide_true, Bool.true_and]
    exact hf
  · simp only [hon, if_false, decide_false, Bool.false_and, flag_false, BitVec.or_zero, Sat.bind_ok]
    exact hc

theorem carries_legatoNote : Carries (legatoNote n s) ((noteBefore n s 8).st.err |||
      flag (decide ((s.note n).gfen = 1) && coefClamped (exp2 (noteCutoff s (noteDone n s) n).val) (s.note n).gfq.toInt) .clamp |||
      flag (decide ((s.note n).gfen = 1) && ((s.flt n 0).stagesBad || (s.flt n 1).stagesBad)) .cfg)
    (legatoChannel n s false) (legatoChannel n s true) := by
  have hh := head_filteredNote n s hn
  have hamp := (within_noteDone_filtered n s).parts .amp (by simp [endParts])
  have hk : ∀ (y : Stereo) g, (y.scale g).st.note n = y.st.note n := fun _ _ => rfl
  have hp : ∀ y : Stereo, (notePan n y).st.note n = y.st.note n := fun _ => rfl
  have ha := (carries_filteredNote n s hn).scale (ampGain ((filteredNote n s).st.note n).gampold.toInt
    ((filteredNote n s).st.note n).gampnew.toInt)
  rw [← hamp.1, ← hamp.2] at ha
  have hb := Carries.pan n ha (gl := (s.note n).panl.toInt) (gr := (s.note n).panr.toInt)
    (by rw [hk]; exact (congrArg (fun y : Note => y.panl.toInt) hh :))
    (by rw [hk]; exact (congrArg (fun y : Note => y.panr.toInt) hh :))
  have hd := Carries.legato n hb (len_notePan n _ (len_scale _ _ (len_filteredNote n s))) (g := (s.note n).legato) (by rw [hp, hk]; exact (congrArg Note.legato hh :))
  unfold legatoNote noteAmpApply
  rw [← hamp.1, ← hamp.2]
  exact hd

end

end Sys2Proof.Machine
end

section
/-! PROOFS. The end of a note's block (R353, R354): whether the note finishes, the release of its voices, NVOICES and the
number of created voices, and the buffers and flags it leaves. -/

namespace Sys2Proof.Machine

/-! ## Counting created voices -/

theorem voices_toList (x : Note) : x.voices.toList = (List.range 8).map x.voice := by
  apply List.ext_getElem
  · simp
  · intro i h1 h2
    have h8 : i < 8 := by simpa using h1
    simp [Note.voice, h8]

theorem createdCount_eq (x : Note) : x.createdCount = (List.range 8).countP fun v => (x.voice v).created := by
  rw [Note.createdCount, voices_toList, List.countP_map]; rfl

theorem createdCount_congr {x y : Note} (h : ∀ v, v < 8 → (y.voice v).created = (x.voice v).created) :
    y.createdCount = x.createdCount := by
  rw [createdCount_eq, createdCount_eq]
  exact List.countP_congr fun v hv => by rw [h v (List.mem_range.1 hv)]

theorem createdCount_eq_zero {x : Note} (h : ∀ v, v < 8 → (x.voice v).created = false) : x.createdCount = 0 := by
  rw [createdCount_eq, List.countP_eq_zero]
  exact fun v hv => by rw [h v (List.mem_range.1 hv)]; decide

/-- Changing the CREATED bit of one voice changes the count by one. -/
theorem createdCount_update {x y : Note} {v : Nat} (hv : v < 8) (hx : (x.voice v).created = true)
    (hy : (y.voice v).created = false) (h : ∀ w, w ≠ v → (y.voice w).created = (x.voice w).created) :
    y.createdCount + 1 = x.createdCount := by
  have key : ∀ m, (List.range m).countP (fun w => (y.voice w).created) + (if v < m then 1 else 0) =
      (List.range m).countP fun w => (x.voice w).created := by
    intro m
    induction m with
    | zero => simp
    | succ m ih =>
      rw [List.range_succ, List.countP_append, List.countP_append, ← ih]
      by_cases hm : m = v
      · subst hm
        simp [hx, hy]
      · have : v < m + 1 ↔ v < m := by omega
        simp [List.countP_cons, h m hm, this]
        omega
  rw [createdCount_eq, createdCount_eq, ← key 8, if_pos hv]

/-! ## Release of single voices (R354) -/

/-- The state after the release of the voices from 7 down, `k` of them. -/
def releasedTop (n : Nat) (s : State) (k : Nat) : State := (List.range k).foldl (fun u i => releaseVoice n u (7 - i)) s

section
variable (n : Nat) (s : State)

theorem releasedTop_succ (k : Nat) : releasedTop n s (k + 1) = releaseVoice n (releasedTop n s k) (7 - k) := by
  simp [releasedTop, List.range_succ]

theorem releaseVoices_eq : releaseVoices n s = releasedTop n s 8 := rfl

theorem releaseVoice_keeps (v : Nat) : (releaseVoice n s v).err = s.err ∧ (releaseVoice n s v).mem = s.mem := by
  unfold releaseVoice
  dsimp only
  split
  · exact ⟨rfl, rfl⟩
  · exact ⟨rfl, rfl⟩

theorem releasedTop_keeps (k : Nat) : (releasedTop n s k).err = s.err ∧ (releasedTop n s k).mem = s.mem := by
  induction k with
  | zero => exact ⟨rfl, rfl⟩
  | succ k ih =>
    rw [releasedTop_succ]
    obtain ⟨h1, h2⟩ := releaseVoice_keeps n (releasedTop n s k) (7 - k)
    exact ⟨h1.trans ih.1, h2.trans ih.2⟩

variable (hn : n < 16)
include hn

/-- The CREATED bit of a voice after its own release step. -/
theorem created_releaseVoice (v : Nat) (hv : v < 8) : ((releaseVoice n s v).voice n v).created =
    ((s.voice n v).created && !((s.voice n v).finished && !(s.note n).modulates v)) := by
  unfold releaseVoice
  dsimp only
  split
  · next h =>
    simp only [Bool.and_eq_true, Bool.not_eq_true'] at h
    rw [voice_setVoice _ _ _ _ hn hv]
    simp [h.1.2, h.2]
  · next h =>
    generalize (s.voice n v).created = c at h ⊢
    generalize (s.voice n v).finished = f at h ⊢
    generalize (s.note n).modulates v = m at h ⊢
    revert h; revert c f m; decide

/-- A release step frees one unit of the budget for the voice it releases. -/
theorem budget_releaseVoice (v : Nat) (hv : v < 8) :
    (releaseVoice n s v = s) ∨ ((releaseVoice n s v).nvoices = s.nvoices - 1 ∧
      ((releaseVoice n s v).note n).createdCount + 1 = (s.note n).createdCount) := by
  have hw := within_releaseVoice (n := n) (A := nowhere) v s
  have hc := created_releaseVoice n s hn v hv
  by_cases h : ((s.voice n v).created && (s.voice n v).finished && !(s.note n).modulates v) = true
  · refine .inr ⟨by unfold releaseVoice; rw [if_pos h]; rfl, ?_⟩
    simp only [Bool.and_eq_true, Bool.not_eq_true'] at h
    obtain ⟨⟨h1, h2⟩, h3⟩ := h
    rw [h1, h2, h3] at hc
    exact createdCount_update hv h1 hc fun w hw' => hw.created (by simp [hw'])
  · exact .inl (if_neg h)

theorem budget_releasedTop (k : Nat) (hk : k ≤ 8) :
    ((releasedTop n s k).note n).createdCount ≤ (s.note n).createdCount ∧ (releasedTop n s k).nvoices =
      s.nvoices - BitVec.ofNat 8 ((s.note n).createdCount - ((releasedTop n s k).note n).createdCount) := by
  induction k with
  | zero => exact ⟨le_rfl, by simp [releasedTop]⟩
  | succ k ih =>
    obtain ⟨h1, h2⟩ := ih (by omega)
    rw [releasedTop_succ]
    rcases budget_releaseVoice n (releasedTop n s k) hn (7 - k) (by omega) with h | ⟨h, hc⟩
    · rw [h]; exact ⟨h1, h2⟩
    · refine ⟨by omega, ?_⟩
      rw [h, h2, show (s.note n).createdCount - ((releaseVoice n (releasedTop n s k) (7 - k)).note n).createdCount =
        (s.note n).createdCount - ((releasedTop n s k).note n).createdCount + 1 by omega, BitVec.ofNat_add]
      simp [BitVec.sub_sub]

omit hn in
/-- The steps after a voice's own one leave it alone, and so do those before. -/
theorem voice_releasedTop (v j k : Nat) (hjk : j ≤ k) (h : ∀ i, j ≤ i → i < k → 7 - i ≠ v) :
    (releasedTop n s k).voice n v = (releasedTop n s j).voice n v := by
  induction k, hjk using Nat.le_induction with
  | base => rfl
  | succ k hjk ih =>
    rw [releasedTop_succ]
    have hv : (Part.created v) ≠ .created (7 - k) := fun he => h k hjk (by omega) (Part.created.inj he).symm
    exact ((within_releaseVoice (A := nowhere) (7 - k) _).voice (by simp) (by simpa using fun he => hv (by rw [he]))).trans
      (ih fun i h1 h2 => h i h1 (by omega))

omit hn in
theorem Note.modulates_iff (x : Note) (v : Nat) : x.modulates v = true ↔ ∃ w, v < w ∧ w < 8 ∧ (x.voice w).created = true ∧
    (x.voice w).topo ≠ 0 ∧ (x.voice w).modext = true ∧ (x.voice w).modvoice = v := by
  simp only [Note.modulates, List.any_eq_true, List.mem_range, Bool.and_eq_true, decide_eq_true_eq, bne_iff_ne, beq_iff_eq]
  constructor
  · rintro ⟨w, h8, ⟨⟨⟨h1, h2⟩, h3⟩, h4⟩, h5⟩; exact ⟨w, h1, h8, h2, h3, h4, h5⟩
  · rintro ⟨w, h1, h8, h2, h3, h4, h5⟩; exact ⟨w, h8, ⟨⟨⟨h1, h2⟩, h3⟩, h4⟩, h5⟩

/-- Which voices are still created after the releases (R354). -/
theorem created_releaseVoices (v : Nat) (hv : v < 8) : let u := releaseVoices n s
    (u.voice n v).created = true ↔ (s.voice n v).created = true ∧ ((u.voice n v).finished = true → ∃ w, v < w ∧ w < 8 ∧
      (u.voice n w).created = true ∧ (u.voice n w).topo ≠ 0 ∧ (u.voice n w).modext = true ∧ (u.voice n w).modvoice = v) := by
  dsimp only
  rw [releaseVoices_eq]
  have before : (releasedTop n s (7 - v)).voice n v = s.voice n v :=
    voice_releasedTop n s v 0 (7 - v) (Nat.zero_le _) fun i _ hi => by omega
  have after : ∀ w, v < w → w < 8 → (releasedTop n s 8).voice n w = (releasedTop n s (7 - v)).voice n w := fun w hw h8 =>
    voice_releasedTop n s w (7 - v) 8 (by omega) fun i h1 h2 => by omega
  have own : (releasedTop n s 8).voice n v = (releaseVoice n (releasedTop n s (7 - v)) v).voice n v := by
    rw [voice_releasedTop n s v (7 - v + 1) 8 (by omega) fun i h1 h2 => by omega, releasedTop_succ,
      show 7 - (7 - v) = v by omega]
  have hfin : ((releasedTop n s 8).voice n v).finished = (s.voice n v).finished := by
    have := (within_releaseVoices (n := n) (A := nowhere) s).core (v := v) (by simp)
    exact (congrArg Voice.finished this :)
  have hmod := Note.modulates_iff ((releasedTop n s (7 - v)).note n) v
  rw [hfin, own, created_releaseVoice n _ hn v hv, before]
  have hex : (∃ w, v < w ∧ w < 8 ∧ ((releasedTop n s 8).voice n w).created = true ∧
      ((releasedTop n s 8).voice n w).topo ≠ 0 ∧ ((releasedTop n s 8).voice n w).modext = true ∧
        ((releasedTop n s 8).voice n w).modvoice = v) ↔ ((releasedTop n s (7 - v)).note n).modulates v = true := by
    rw [hmod]
    refine exists_congr fun w => and_congr_right fun hw => and_congr_right fun h8 => ?_
    rw [after w hw h8]
    rfl
  rw [hex]
  generalize ((releasedTop n s (7 - v)).note n).modulates v = m
  cases (s.voice n v).created <;> cases (s.voice n v).finished <;> cases m <;> decide

end

/-! ## The end of the block -/

/-- The channels as they are delivered (R353). -/
def endedNote (n : Nat) (x : Stereo) : Stereo := if (x.st.note n).finishes then x.scale fadeOutGain else x

theorem noteEnd_finishes (n : Nat) (x : Stereo) (h : (x.st.note n).finishes = true) : noteEnd n x =
    (finishNote n x).setRes 0 (BitVec.ofNat 32 ((finishNote n x).note n).createdCount) := if_pos h

theorem noteEnd_continues (n : Nat) (x : Stereo) (h : (x.st.note n).finishes = false) : noteEnd n x =
    (releaseVoices n (x.st.setOut n x.l x.r)).setRes 1
      (BitVec.ofNat 32 ((releaseVoices n (x.st.setOut n x.l x.r)).note n).createdCount) := if_neg (by rw [h]; decide)

/-- ERR and memory when the note's block is over. -/
theorem noteEnd_keeps (n : Nat) (x : Stereo) : (noteEnd n x).err = (endedNote n x).st.err ∧
    (noteEnd n x).mem = ((endedNote n x).st.setOut n (endedNote n x).l (endedNote n x).r).mem := by
  unfold endedNote
  cases h : (x.st.note n).finishes with
  | true => rw [noteEnd_finishes n x h]; exact ⟨rfl, rfl⟩
  | false =>
    rw [noteEnd_continues n x h]
    exact releasedTop_keeps n (x.st.setOut n x.l x.r) 8

theorem finishes_iff (x : Note) : x.finishes = true ↔ (x.env 0).finished = true ∨ x.nstat.killed = true ∨
    ∀ v, v < 8 → (x.voice v).created = true → (x.voice v).finished = true := by
  have h : (!(x.voices.toList.any fun y => y.created && !y.finished)) = true ↔
      ∀ v, v < 8 → (x.voice v).created = true → (x.voice v).finished = true := by
    rw [voices_toList]
    simp
  rw [Note.finishes, Bool.or_eq_true, Bool.or_eq_true, h, or_assoc]

end Sys2Proof.Machine
end

section
/-! PROOFS. The state after NOTE.OUT on an active slot (R320, R353, R354, R362): note registers, results and budget, the
parts that stay, OUTL and OUTR, and the global filters. -/

namespace Sys2Proof.Machine

theorem setOut_words (u : State) (n : Nat) (l r : List Int) (hl : l.length = 256) (hr : r.length = 256) (i : Nat)
    (hi : i < 256) : (u.setOut n l r).mem.word? (noteBase n + 0x8000 + 4 * i) = some (toWord (l.getD i 0)) ∧
      (u.setOut n l r).mem.word? (noteBase n + 0x8400 + 4 * i) = some (toWord (r.getD i 0)) := by
  refine ⟨?_, setSignedCells_word? _ (outrAddr n) r i (hr ▸ hi)⟩
  have hw : ∀ (w : State) a xs, (∀ x, wordsAt (noteBase n + 0x8000 + 4 * i) 1 x → ¬ wordsAt a (List.length xs) x) →
      (w.setSignedCells a xs).mem.word? (noteBase n + 0x8000 + 4 * i) = w.mem.word? (noteBase n + 0x8000 + 4 * i) :=
    fun w a xs h => (within_setSignedCells (n := 0) (P := fun _ => False) (A := wordsAt a xs.length) a xs (fun _ h => h)
      w).word? h
  rw [State.setOut, hw _ _ _ fun x h1 h2 => by simp only [wordsAt, outrAddr, hr] at *; omega]
  exact setSignedCells_word? _ (outlAddr n) l i (hl ▸ hi)

/-- What storing the channels and the results keeps. -/
theorem setOut_keeps (u : State) (n : Nat) (l r : List Int) : (u.setOut n l r).note n = u.note n ∧
    (u.setOut n l r).nvoices = u.nvoices ∧ ∀ v, (u.setOut n l r).voice n v = u.voice n v := ⟨rfl, rfl, fun _ => rfl⟩

theorem setRes_keeps (u : State) (n : Nat) (a b : Word) : (u.setRes a b).res0 = a ∧ (u.setRes a b).res1 = b ∧
    (u.setRes a b).note n = u.note n ∧ (u.setRes a b).nvoices = u.nvoices := ⟨rfl, rfl, rfl, rfl⟩

/-- What `Note.rendered` keeps. -/
theorem rendered_keeps (x : Note) : x.rendered.createdCount = x.createdCount ∧ ∀ v, x.rendered.voice v = x.voice v :=
  ⟨rfl, fun _ => rfl⟩

theorem head_rendered {x y : Note} (h : x.head = y.head) : x.rendered.head = y.rendered.head :=
  (congrArg (fun z : Note => z.rendered.head) h :)

theorem head_finish_rendered {x y : Note} (h : x.head = y.head) : x.finish.rendered.head = y.finish.rendered.head :=
  (congrArg (fun z : Note => z.finish.rendered.head) h :)

theorem rendered_advance_keeps (u : State) (n : Nat) : let t := (u.modNote n Note.rendered).advance
    t.res0 = u.res0 ∧ t.res1 = u.res1 ∧ t.nvoices = u.nvoices ∧ t.err = u.err ∧ t.mem = u.mem := ⟨rfl, rfl, rfl, rfl, rfl⟩

theorem note_rendered_advance (u : State) (n : Nat) (hn : n < 16) :
    (u.modNote n Note.rendered).advance.note n = (u.note n).rendered := note_modNote_self u n _ hn

theorem head_withLegato {x y : Note} (h : y.head = x.head) (g : Legato) : (y.withLegato g).head = (x.withLegato g).head :=
  (congrArg (fun z : Note => z.withLegato g) h :)

section
variable (n : Nat) (s : State) (hn : n < 16)

/-- The legato machine after the block (R362). -/
def legatoAfter : Legato := Legato.after 256 (s.note n).legato

/-- Whether the note ends with its block (R353). -/
def noteEnds : Bool := ((legatoNote n s).st.note n).finishes

include hn

theorem head_legatoNote : ((legatoNote n s).st.note n).head = ((s.note n).withLegato (legatoAfter n s)).head := by
  have hh := head_filteredNote n s hn
  have hk : ∀ (y : Stereo) g, (y.scale g).st.note n = y.st.note n := fun _ _ => rfl
  have hp : ∀ y : Stereo, (notePan n y).st.note n = y.st.note n := fun _ => rfl
  have hl : ∀ y : Stereo, (noteLegatoApply n y).st.note n = (y.st.note n).withLegato (Legato.after 256 (y.st.note n).legato) :=
    fun y => by
      unfold noteLegatoApply
      dsimp only
      rw [note_modNote_self _ _ _ hn]
      rfl
  have hleg : ((filteredNote n s).st.note n).legato = (s.note n).legato := (congrArg Note.legato hh :)
  unfold legatoNote noteAmpApply
  rw [hl, hp, hk, hleg]
  exact head_withLegato hh _

/-- From NOTE.OUT's start to its end. -/
theorem within_noteOut : Within n
    (fun p => (startParts p ∨ rangeParts (phaseA n s).st n 0 8 p) ∨ closeParts p)
    (fun x => rangeBytes (phaseA n s).st n 0 8 x ∨ channelBytes n x) s (noteDone n s) :=
  ((within_before n s hn 8 le_rfl).mono (fun _ => .inl) fun _ => .inl).trans
    ((within_noteDone n s).mono (fun _ => .inr) fun _ => .inr)

theorem created_legatoNote (v : Nat) : ((legatoNote n s).st.voice n v).created = (s.voice n v).created :=
  ((within_legatoNote n s).created (by simp)).trans (((within_filteredNote n s).created (by simp)).trans
    ((within_before n s hn 8 le_rfl).created (by simp [startParts, sourcesParts, not_rangeParts])))

theorem budget_legatoNote : (legatoNote n s).st.nvoices = s.nvoices :=
  ((within_legatoNote n s).budget (by simp)).trans (((within_filteredNote n s).budget (by simp)).trans
    ((within_before n s hn 8 le_rfl).budget (by simp [startParts, sourcesParts, not_rangeParts])))

theorem count_legatoNote : ((legatoNote n s).st.note n).createdCount = (s.note n).createdCount :=
  createdCount_congr fun v _ => created_legatoNote n s hn v

omit hn in
theorem finished_noteDone (v : Nat) : ((legatoNote n s).st.voice n v).finished = ((noteDone n s).voice n v).finished :=
  (congrArg Voice.finished ((within_noteDone_end n s).core (by simp [endParts])) :).symm

/-- When the note ends (R353). -/
theorem noteEnds_iff : noteEnds n s = true ↔ ((noteDone n s).env n 0).finished = true ∨ (s.note n).nstat.killed = true ∨
    ∀ v, v < 8 → (s.voice n v).created = true → ((noteDone n s).voice n v).finished = true := by
  have henv : ((legatoNote n s).st.note n).env 0 = (noteDone n s).env n 0 :=
    ((within_noteDone_end n s).env (by simp [endParts])).symm
  have hkill : ((legatoNote n s).st.note n).nstat.killed = (s.note n).nstat.killed :=
    (congrArg (fun x : Note => x.nstat.killed) (head_legatoNote n s hn) :)
  rw [noteEnds, finishes_iff, henv, hkill]
  refine or_congr_right (or_congr_right (forall₂_congr fun v _ => ?_))
  rw [← created_legatoNote n s hn v, ← finished_noteDone n s v]
  rfl

/-! ## Registers, results and budget -/

theorem note_noteDone : (noteDone n s).note n = ((noteEnd n (legatoNote n s)).note n).rendered :=
  note_rendered_advance _ n hn

omit hn in
theorem noteDone_fields : (noteDone n s).res0 = (noteEnd n (legatoNote n s)).res0 ∧
    (noteDone n s).res1 = (noteEnd n (legatoNote n s)).res1 ∧ (noteDone n s).nvoices = (noteEnd n (legatoNote n s)).nvoices ∧
    (noteDone n s).err = (noteEnd n (legatoNote n s)).err ∧ (noteDone n s).mem = (noteEnd n (legatoNote n s)).mem :=
  rendered_advance_keeps _ n

theorem finishNote_note (x : Stereo) : (finishNote n x).note n = (x.st.note n).finish := by
  refine (note_modNote_self _ _ _ hn).trans ?_
  rfl

omit hn in
theorem finishNote_budget (x : Stereo) :
    (finishNote n x).nvoices = x.st.nvoices - BitVec.ofNat 8 (x.st.note n).createdCount := rfl

omit hn in
theorem count_finish (x : Note) : x.finish.createdCount = 0 :=
  createdCount_eq_zero fun v _ => by rw [Note.voice_finish]

/-- RES1 counts the voices that are still created (R353, R354). -/
theorem res1_noteDone : (noteDone n s).res1 = BitVec.ofNat 32 ((noteDone n s).note n).createdCount := by
  obtain ⟨_, e1, _⟩ := noteDone_fields n s
  rw [note_noteDone n s hn, (rendered_keeps _).1, e1]
  cases h : ((legatoNote n s).st.note n).finishes with
  | true =>
    obtain ⟨_, k1, k2, _⟩ := setRes_keeps (finishNote n (legatoNote n s)) n 0
      (BitVec.ofNat 32 ((finishNote n (legatoNote n s)).note n).createdCount)
    rw [noteEnd_finishes _ _ h, k1, k2]
  | false =>
    obtain ⟨_, k1, k2, _⟩ := setRes_keeps (releaseVoices n ((legatoNote n s).st.setOut n (legatoNote n s).l (legatoNote n s).r))
      n 1 (BitVec.ofNat 32 ((releaseVoices n ((legatoNote n s).st.setOut n (legatoNote n s).l
        (legatoNote n s).r)).note n).createdCount)
    rw [noteEnd_continues _ _ h, k1, k2]

/-- The end of a note that finishes (R353). -/
theorem noteDone_finishes (h : noteEnds n s = true) : (noteDone n s).res0 = 0 ∧
    ((noteDone n s).note n).createdCount = 0 ∧ (noteDone n s).nvoices = s.nvoices - BitVec.ofNat 8 (s.note n).createdCount ∧
    ((noteDone n s).note n).head = ((s.note n).withLegato (legatoAfter n s)).finish.rendered.head := by
  obtain ⟨e0, _, e2, _, _⟩ := noteDone_fields n s
  obtain ⟨k0, _, k2, k3⟩ := setRes_keeps (finishNote n (legatoNote n s)) n 0
    (BitVec.ofNat 32 ((finishNote n (legatoNote n s)).note n).createdCount)
  rw [note_noteDone n s hn, (rendered_keeps _).1, e0, e2, noteEnd_finishes _ _ h, k0, k2, k3,
    finishNote_note n hn, finishNote_budget, count_finish, budget_legatoNote n s hn, count_legatoNote n s hn]
  exact ⟨rfl, rfl, rfl, head_finish_rendered (head_legatoNote n s hn)⟩

/-- The state of a note that goes on, before its results are stored. -/
def releasedNote : State := releaseVoices n ((legatoNote n s).st.setOut n (legatoNote n s).l (legatoNote n s).r)

theorem releasedNote_head : ((releasedNote n s).note n).head = ((s.note n).withLegato (legatoAfter n s)).head := by
  have hhead := (within_releaseVoices (n := n) (A := nowhere)
    ((legatoNote n s).st.setOut n (legatoNote n s).l (legatoNote n s).r)).head (by simp)
  rw [(setOut_keeps _ _ _ _).1] at hhead
  exact hhead.trans (head_legatoNote n s hn)

theorem releasedNote_budget : ((releasedNote n s).note n).createdCount ≤ (s.note n).createdCount ∧
    (releasedNote n s).nvoices =
      s.nvoices - BitVec.ofNat 8 ((s.note n).createdCount - ((releasedNote n s).note n).createdCount) := by
  obtain ⟨k1, k2, _⟩ := setOut_keeps (legatoNote n s).st n (legatoNote n s).l (legatoNote n s).r
  have hb := budget_releasedTop n ((legatoNote n s).st.setOut n (legatoNote n s).l (legatoNote n s).r) hn 8 le_rfl
  rw [← releaseVoices_eq, k1, k2, count_legatoNote n s hn, budget_legatoNote n s hn] at hb
  exact hb

theorem releasedNote_created (v : Nat) (hv : v < 8) : ((releasedNote n s).voice n v).created = true ↔
    (s.voice n v).created = true ∧ (((releasedNote n s).voice n v).finished = true → ∃ w, v < w ∧ w < 8 ∧
      ((releasedNote n s).voice n w).created = true ∧ ((releasedNote n s).voice n w).topo ≠ 0 ∧
        ((releasedNote n s).voice n w).modext = true ∧ ((releasedNote n s).voice n w).modvoice = v) := by
  have hc := created_releaseVoices n ((legatoNote n s).st.setOut n (legatoNote n s).l (legatoNote n s).r) hn v hv
  rw [(setOut_keeps _ _ _ _).2.2, created_legatoNote n s hn] at hc
  exact hc

/-- The end of the block of a note that goes on (R354). -/
theorem noteDone_continues (h : noteEnds n s = false) : (noteDone n s).res0 = 1 ∧
    (noteDone n s).note n = ((releasedNote n s).note n).rendered ∧ (noteDone n s).nvoices = (releasedNote n s).nvoices := by
  obtain ⟨e0, _, e2, _, _⟩ := noteDone_fields n s
  obtain ⟨k0, _, k2, k3⟩ := setRes_keeps (releasedNote n s) n 1
    (BitVec.ofNat 32 ((releasedNote n s).note n).createdCount)
  have he : noteEnd n (legatoNote n s) =
      (releasedNote n s).setRes 1 (BitVec.ofNat 32 ((releasedNote n s).note n).createdCount) := noteEnd_continues _ _ h
  rw [note_noteDone n s hn, e0, e2, he, k0, k2, k3]
  exact ⟨rfl, rfl, rfl⟩

theorem res0_noteDone : (noteDone n s).res0 = if noteEnds n s then 0 else 1 := by
  cases h : noteEnds n s with
  | true => exact (noteDone_finishes n s hn h).1
  | false => exact (noteDone_continues n s hn h).1

/-! ## Channels, flags and filters -/

/-- A channel as it is delivered. -/
def finalChannel (right : Bool) : Sat (List Int) :=
  (legatoChannel n s right).bind fun g => if noteEnds n s then scaleBy fadeOutGain g else .ok g

theorem carries_endedNote : Carries (endedNote n (legatoNote n s)) ((noteBefore n s 8).st.err |||
      flag (decide ((s.note n).gfen = 1) && coefClamped (exp2 (noteCutoff s (noteDone n s) n).val) (s.note n).gfq.toInt) .clamp |||
      flag (decide ((s.note n).gfen = 1) && ((s.flt n 0).stagesBad || (s.flt n 1).stagesBad)) .cfg)
    (finalChannel n s false) (finalChannel n s true) := by
  have hc := carries_legatoNote n s hn
  unfold endedNote finalChannel noteEnds
  cases ((legatoNote n s).st.note n).finishes with
  | true => exact hc.scale fadeOutGain
  | false => simp only [Bool.false_eq_true, if_false, Sat.bind_ok]; exact hc

omit hn in
theorem len_endedNote : (endedNote n (legatoNote n s)).Len := by
  unfold endedNote
  split
  · exact len_scale _ _ (len_legatoNote n s)
  · exact len_legatoNote n s

/-- OUTL and OUTR (R320). -/
theorem channels_noteDone (i : Nat) (hi : i < 256) :
    (noteDone n s).mem.word? (noteBase n + 0x8000 + 4 * i) = some (toWord ((finalChannel n s false).val.getD i 0)) ∧
      (noteDone n s).mem.word? (noteBase n + 0x8400 + 4 * i) = some (toWord ((finalChannel n s true).val.getD i 0)) := by
  obtain ⟨hl, hr, _⟩ := carries_endedNote n s hn
  obtain ⟨_, _, _, _, hm⟩ := noteDone_fields n s
  have hlen := len_endedNote n s
  rw [hm, (noteEnd_keeps n _).2, ← hl, ← hr]
  exact setOut_words _ n _ _ hlen.1 hlen.2 i hi

theorem err_noteDone : (noteDone n s).err = (noteBefore n s 8).st.err |||
    flag (decide ((s.note n).gfen = 1) && coefClamped (exp2 (noteCutoff s (noteDone n s) n).val) (s.note n).gfq.toInt) .clamp |||
    flag (decide ((s.note n).gfen = 1) && ((s.flt n 0).stagesBad || (s.flt n 1).stagesBad)) .cfg |||
    flag ((finalChannel n s false).sat || (finalChannel n s true).sat) .sat := by
  obtain ⟨_, _, _, he, _⟩ := noteDone_fields n s
  rw [he, (noteEnd_keeps n _).1, (carries_endedNote n s hn).err]

/-- The global filters after the block (R351). -/
theorem flt_noteDone (right : Bool) : (noteDone n s).flt n right.toNat = if (s.note n).gfen = 1 then
      ((s.flt n right.toNat).coefficients (exp2 (noteCutoff s (noteDone n s) n).val) (s.note n).gfq.toInt).withStages
        (fltRun (s.flt n right.toNat) (exp2 (noteCutoff s (noteDone n s) n).val) (s.note n).gfq.toInt
          (noteSum ((noteBefore n s 8).side right)).val).val.2
    else s.flt n right.toNat := by
  have hr : right.toNat < 2 := by have := right.toNat_le; omega
  have hh := head_mixedNote n s hn
  have h1 : ((mixedNote n s).st.note n).gfen = (s.note n).gfen := (congrArg Note.gfen hh :)
  have h2 : ((mixedNote n s).st.note n).gfq = (s.note n).gfq := (congrArg Note.gfq hh :)
  refine ((within_noteDone_filtered n s).flt (by simp [endParts])).trans ?_
  unfold filteredNote globalFilter
  rw [h1, h2, gff_eq n s hn]
  split
  · obtain ⟨_, _, hL, hR, _⟩ := stereoFilter_eq n 0 (exp2 (noteCutoff s (noteDone n s) n).val) (s.note n).gfq.toInt
      (mixedNote n s) hn (by decide)
    rw [flt_mixedNote n s hn 0 (by decide), (carries_mixedNote n s).left] at hL
    rw [flt_mixedNote n s hn (0 + 1) (by decide), (carries_mixedNote n s).right] at hR
    cases right with
    | false => exact hL
    | true => exact hR
  · exact flt_mixedNote n s hn _ hr

/-- A delivered channel is that of R351 to R353. -/
theorem finalChannel_eq (hr : NoteReady s n) (right : Bool) :
    finalChannel n s right = noteChannel s (noteDone n s) n right := by
  have hrun : noteRun s (noteDone n s) n right = fun b =>
      if (s.note n).gfen = 1 then (filtered s (noteDone n s) n right.toNat b).map (·.1) else .ok b := by
    funext b
    unfold noteRun
    by_cases hon : (s.note n).gfen = 1
    · have hl := flt_noteDone n s hn right
      rw [if_pos hon] at hl
      rw [if_pos hon, if_pos hon, filtered_eq b rfl hl]
    · rw [if_neg hon, if_neg hon]
  have hend : ((noteDone n s).res0 = 0) = (noteEnds n s = true) := by
    rw [res0_noteDone n s hn]
    cases noteEnds n s <;> simp
  unfold finalChannel legatoChannel noteTail noteChannel
  rw [noteSum_before n s hn hr right, hrun, Sat.bind_assoc, Sat.bind_assoc, Sat.bind_assoc, Sat.bind_assoc]
  simp only [hend]
  rfl

end

end Sys2Proof.Machine
end

section
/-! PROOFS. NOTE.OUT on an active slot (R320 to R362): its statement, clause by clause. -/

namespace Sys2Proof.Machine

/-- The registers of the note after its block, but for NSTAT.ACTIVE and NSTAT.FINISHED (R318, R362). -/
theorem kept_registers {x z : Note} {g : Legato}
    (h : z.head = (x.withLegato g).rendered.head ∨ z.head = (x.withLegato g).finish.rendered.head) :
    (z.legstate = g.state ∧ z.silent = g.silent ∧ z.legcount = g.count ∧
      z.log2freq = (if g.fired then x.legpitch else x.log2freq) ∧ z.velocity = (if g.fired then x.legvel else x.velocity)) ∧
    (z.nstat.first = false ∧ z.nstat.killed = x.nstat.killed ∧ z.nstat.released = x.nstat.released) ∧
    z.rng = x.rng ∧ z.cutoff = x.cutoff ∧ z.legpitch = x.legpitch ∧ z.legvel = x.legvel := by
  rcases h with h | h <;>
  exact ⟨⟨(congrArg Note.legstate h :), (congrArg Note.silent h :), (congrArg Note.legcount h :),
      (congrArg Note.log2freq h :), (congrArg Note.velocity h :)⟩,
    ⟨(congrArg (fun y : Note => y.nstat.first) h :), (congrArg (fun y : Note => y.nstat.killed) h :),
      (congrArg (fun y : Note => y.nstat.released) h :)⟩,
    (congrArg Note.rng h :), (congrArg Note.cutoff h :), (congrArg Note.legpitch h :), (congrArg Note.legvel h :)⟩

section
variable (n : Nat) (s : State) (hn : n < 16)
include hn

theorem head_noteDone : ((noteDone n s).note n).head = ((s.note n).withLegato (legatoAfter n s)).rendered.head ∨
    ((noteDone n s).note n).head = ((s.note n).withLegato (legatoAfter n s)).finish.rendered.head := by
  cases h : noteEnds n s with
  | true => exact .inr (noteDone_finishes n s hn h).2.2.2
  | false =>
    obtain ⟨_, hnote, _⟩ := noteDone_continues n s hn h
    rw [hnote]
    exact .inl (head_rendered (releasedNote_head n s hn))

/-- The budget after the block (R353, R354). -/
theorem budget_noteDone : (noteDone n s).nvoices =
      s.nvoices - BitVec.ofNat 8 ((s.note n).createdCount - ((noteDone n s).note n).createdCount) ∧
    ((noteDone n s).note n).createdCount ≤ (s.note n).createdCount := by
  cases h : noteEnds n s with
  | true =>
    obtain ⟨_, hc, hb, _⟩ := noteDone_finishes n s hn h
    rw [hc, hb]
    exact ⟨rfl, Nat.zero_le _⟩
  | false =>
    obtain ⟨_, hnote, hb⟩ := noteDone_continues n s hn h
    rw [hnote, (rendered_keeps _).1, hb]
    exact (releasedNote_budget n s hn).symm

/-- How the block of a note ends (R353, R354). -/
theorem outcome_noteDone : (noteDone n s).res0 = 0 ∧ ((noteDone n s).note n).nstat.active = false ∧
      ((noteDone n s).note n).nstat.finished = true ∧ ((noteDone n s).note n).createdCount = 0 ∨
    (noteDone n s).res0 = 1 ∧ ((noteDone n s).note n).nstat.active = (s.note n).nstat.active ∧
      ((noteDone n s).note n).nstat.finished = (s.note n).nstat.finished := by
  cases h : noteEnds n s with
  | true =>
    obtain ⟨h0, hc, _, hh⟩ := noteDone_finishes n s hn h
    exact .inl ⟨h0, (congrArg (fun y : Note => y.nstat.active) hh :), (congrArg (fun y : Note => y.nstat.finished) hh :), hc⟩
  | false =>
    obtain ⟨h0, hnote, _⟩ := noteDone_continues n s hn h
    have hh := head_rendered (releasedNote_head n s hn)
    rw [← hnote] at hh
    exact .inr ⟨h0, (congrArg (fun y : Note => y.nstat.active) hh :), (congrArg (fun y : Note => y.nstat.finished) hh :)⟩

theorem res0_iff : (noteDone n s).res0 = 0 ↔ ((noteDone n s).env n 0).finished = true ∨ (s.note n).nstat.killed = true ∨
    ∀ v, v < 8 → (s.voice n v).created = true → ((noteDone n s).voice n v).finished = true := by
  rw [← noteEnds_iff n s hn, res0_noteDone n s hn]
  cases noteEnds n s <;> simp

theorem created_noteDone (h : (noteDone n s).res0 = 1) (v : Nat) (hv : v < 8) :
    ((noteDone n s).voice n v).created = true ↔ (s.voice n v).created = true ∧
      (((noteDone n s).voice n v).finished = true → ∃ w, v < w ∧ w < 8 ∧ ((noteDone n s).voice n w).created = true ∧
        ((noteDone n s).voice n w).topo ≠ 0 ∧ ((noteDone n s).voice n w).modext = true ∧
        ((noteDone n s).voice n w).modvoice = v) := by
  have he : noteEnds n s = false := by
    by_contra hc
    rw [res0_noteDone n s hn, if_pos (by simpa using hc)] at h
    exact absurd h (by decide)
  obtain ⟨_, hnote, _⟩ := noteDone_continues n s hn he
  have hy : ∀ w, (noteDone n s).voice n w = (releasedNote n s).voice n w := fun w => by
    rw [State.voice, hnote, (rendered_keeps _).2]; rfl
  simp only [hy]
  exact releasedNote_created n s hn v hv

/-! ## Voices that are not live -/

section
variable (v : Nat) (hv : v < 8) (hl : s.live n v = false)
include hv hl

omit hv in
theorem idle_core : ((noteDone n s).voice n v).core = (s.voice n v).core := by
  refine (within_noteOut n s hn).core ?_
  rintro ((h | h) | h)
  · simp [startParts, sourcesParts] at h
  · have := (rangeParts_voice h).2.2
    rw [live_phaseA, hl] at this
    cases this
  · simp [closeParts, endParts] at h

omit hv in
theorem idle_finished : ((noteDone n s).voice n v).finished = (s.voice n v).finished :=
  (congrArg Voice.finished (idle_core n s hn v hl) :)

theorem idle_flt (f : Nat) (h1 : 2 + 2 * v ≤ f) (h2 : f < 4 + 2 * v) : (noteDone n s).flt n f = s.flt n f := by
  refine (within_noteOut n s hn).flt ?_
  rintro ((h | h) | h)
  · simp [startParts, sourcesParts] at h
  · obtain ⟨u, _, _, hu, h3, h4⟩ := rangeParts_flt h
    rw [live_phaseA, show u = v by omega, hl] at hu
    cases hu
  · simp [closeParts, endParts] at h
    omega

/-- Of the slot of a voice that is not live only VOUT of a finished one is stored to (R320). -/
theorem idle_byte (x : Nat) (hx : voiceBytes n v x) (h : (s.voice n v).created = true → ¬ wordsAt (voutAddr n v) 256 x) :
    (noteDone n s).mem.byte? x = s.mem.byte? x := by
  refine (within_noteOut n s hn).bytes x ?_
  rintro (⟨u, _, _, hu⟩ | hc)
  · have hb := blockBytes_voice hu
    have huv : u = v := voiceBytes_unique (x := x) ⟨by omega, by omega⟩ hx
    subst huv
    rw [blockBytes, live_phaseA, hl, if_neg (by decide), voice_phaseA] at hu
    exact h hu.1 hu.2
  · exact not_channelBytes_of_voiceBytes hx hc

theorem idle_vout (hc : (s.voice n v).created = true) (i : Nat) (hi : i < 256) :
    (noteDone n s).mem.word? (voutAddr n v + 4 * i) = some 0 := by
  have hl' := (live_noteBefore n s hn v (by omega)).trans hl
  have hw : (noteDone n s).mem.word? (voutAddr n v + 4 * i) = (noteBefore n s (v + 1)).st.mem.word? (voutAddr n v + 4 * i) := by
    refine (within_after n s hn (v + 1) (by omega)).word? fun x hx => ?_
    have hx' : voiceBytes n v x := vout_in_voice x (by unfold wordsAt at *; omega)
    rintro (h | h)
    · exact not_channelBytes_of_voiceBytes hx' h
    · exact not_rangeBytes (fun u hu _ h => by have := voiceBytes_unique h hx'; omega) h
  rw [hw, noteBefore_succ, voiceBlock_finished _ _ _ _ hl' (by rw [voice_noteBefore n s hn v (by omega)]; exact hc),
    setSignedCells_word? _ _ _ _ (by simpa using hi), getD_zeros]
  rfl

end

/-! ## Flags -/

omit hn in
theorem any_range {m : Nat} {f : Nat → Bool} : (List.range m).any f = true ↔ ∃ v, v < m ∧ f v = true := by simp

theorem getLsbD_err_noteDone (i : Nat) : (noteDone n s).err.getLsbD i = (s.err.getLsbD i ||
    (flag (sourcesSat s n 0 || (notePitch s (noteDone n s) n).sat || (noteCutoff s (noteDone n s) n).sat ||
      (noteGain s (noteDone n s) n).sat) .sat).getLsbD i ||
    ((List.range 8).any fun u => (blockFlags n u (phaseA n s).gpitch (noteBefore n s u)).getLsbD i) ||
    (flag (decide ((s.note n).gfen = 1) && coefClamped (exp2 (noteCutoff s (noteDone n s) n).val) (s.note n).gfq.toInt)
      .clamp).getLsbD i ||
    (flag (decide ((s.note n).gfen = 1) && ((s.flt n 0).stagesBad || (s.flt n 1).stagesBad)) .cfg).getLsbD i ||
    (flag ((finalChannel n s false).sat || (finalChannel n s true).sat) .sat).getLsbD i) := by
  rw [err_noteDone n s hn, BitVec.getLsbD_or, BitVec.getLsbD_or, BitVec.getLsbD_or, getLsbD_err_noteBefore n s hn i 8 le_rfl,
    err_phaseA n s hn, BitVec.getLsbD_or]

theorem clamp_noteDone : (noteDone n s).err.getLsbD 2 = true ↔ s.err.getLsbD 2 = true ∨
    (∃ v, v < 8 ∧ s.live n v = true ∧ (exp2 (blockPitch s (noteDone n s) n v).val < 6554 ∨
      exp2 (modPitch s (noteDone n s) n v).val < 6554 ∨ (s.voice n v).filterOn = true ∧
        setCoefClamps (exp2 (voiceCutoff s (noteDone n s) n v).val) (s.voice n v).vfq)) ∨
    (s.note n).gfen = 1 ∧ setCoefClamps (exp2 (noteCutoff s (noteDone n s) n).val) (s.note n).gfq := by
  rw [getLsbD_err_noteDone n s hn 2]
  simp only [getLsbD_flag, ErrBit.pos, show ¬ (2 = 3) by decide, show ¬ (2 = 1) by decide, decide_true, decide_false,
    Bool.and_true, Bool.and_false, Bool.or_false, Bool.or_eq_true, Bool.and_eq_true, decide_eq_true_eq, any_range,
    coefClamped_iff, or_assoc]
  refine or_congr_right (or_congr_left (exists_congr fun v => and_congr_right fun hv => ?_))
  exact blockFlags_clamp n s hn v hv

theorem cfg_noteDone : (noteDone n s).err.getLsbD 1 = true ↔ s.err.getLsbD 1 = true ∨
    (∃ v, v < 8 ∧ s.live n v = true ∧ (s.voice n v).filterOn = true ∧
      ((s.flt n (2 + 2 * v)).stagesBad = true ∨ (s.flt n (3 + 2 * v)).stagesBad = true)) ∨
    (s.note n).gfen = 1 ∧ ((s.flt n 0).stagesBad = true ∨ (s.flt n 1).stagesBad = true) := by
  rw [getLsbD_err_noteDone n s hn 1]
  simp only [getLsbD_flag, ErrBit.pos, show ¬ (1 = 3) by decide, show ¬ (1 = 2) by decide, decide_true, decide_false,
    Bool.and_true, Bool.and_false, Bool.or_false, Bool.or_eq_true, Bool.and_eq_true, decide_eq_true_eq, any_range,
    or_assoc]
  refine or_congr_right (or_congr_left (exists_congr fun v => and_congr_right fun hv => ?_))
  exact blockFlags_cfg n s hn v hv

end

end Sys2Proof.Machine
end

section
/-! PROOFS. NOTE.OUT on an active slot where every cell it reads is written (R330 to R352): its sources, ERR.SAT and the
records of its live voices. -/

namespace Sys2Proof.Machine

section
variable (n : Nat) (s : State) (hn : n < 16) (hr : NoteReady s n)
include hn hr

/-! ## Sources (R330) -/

/-- Nothing that a voice's sources read changes before its turn. -/
theorem sourceKept_before (v j : Nat) (hv : v < 8) (hj : j < 3) :
    SourceKept n (3 + 3 * v + j) s (noteBefore n s v).st := by
  refine (within_before n s hn v (by omega)).sourceKept ?_ ?_ (undefReads_before n s hn hr v (by omega)) ?_
  · rintro (h | h)
    · have := startParts_lt h
      simp at this
      omega
    · obtain ⟨u, _, hu, _, _, h⟩ := rangeParts_env h; omega
  · rintro (h | h)
    · have := startParts_lt h
      simp at this
      omega
    · obtain ⟨u, _, hu, _, _, h⟩ := rangeParts_lfo h; omega
  · exact fun x hx => not_rangeBytes fun u _ _ h => not_tableBytes_voiceBytes h hx

/-- The sources of a live voice after NOTE.OUT. -/
theorem voiceSource_noteDone (v j : Nat) (hv : v < 8) (hj : j < 3) (hl : s.live n v = true) :
    (noteDone n s).env n (3 + 3 * v + j) = (sourceRun n (3 + 3 * v + j) s).env n (3 + 3 * v + j) ∧
    (noteDone n s).lfo n (3 + 3 * v + j) = (sourceRun n (3 + 3 * v + j) s).lfo n (3 + 3 * v + j) := by
  have h := seen_voice n s hn v hv hl
  have w := within_afterSources n v (phaseA n s).gpitch (noteBefore n s v) hn hv
  have k := sourceKept_before n s hn hr v j hv hj
  obtain ⟨_, hs, _⟩ := runSources_ready n (3 + 3 * v) (noteBefore n s v).st (by omega) (by omega)
    (voiceReady_before n s hn hr v hv hl).sources hn
  obtain ⟨he, hf⟩ := hs j hj
  have hk : 3 + 3 * v + j < 27 := by omega
  refine ⟨(h.env j hj).trans ((w.env (by simp [afterParts])).trans (he.trans ?_)),
    (h.lfo j hj).trans ((w.lfo (by simp [afterParts])).trans (hf.trans ?_))⟩
  · rw [env_sourceRun _ hn hk, env_sourceRun _ hn hk, k.sourceStep hk]
  · rw [lfo_sourceRun _ hn hk, lfo_sourceRun _ hn hk, k.lfo]

theorem globalSource_noteDone (k : Nat) (hk : k < 3) : (noteDone n s).env n k = (sourceRun n k s).env n k ∧
    (noteDone n s).lfo n k = (sourceRun n k s).lfo n k := by
  obtain ⟨_, hs, _⟩ := runSources_ready n 0 s (by decide) (by decide) (globalReady n s hr) hn
  obtain ⟨h1, h2⟩ := source_noteDone n s hn k hk
  have h := hs k hk
  rw [Nat.zero_add] at h
  exact ⟨h1.trans h.1, h2.trans h.2⟩

/-- The sources that NOTE.OUT advances, as their commands do (R330). -/
theorem stepped_noteDone (k : Nat) (hk : k < 27) (hs : s.stepped n k = true) :
    (noteDone n s).env n k = (sourceRun n k s).env n k ∧ (noteDone n s).lfo n k = (sourceRun n k s).lfo n k := by
  by_cases h3 : k < 3
  · exact globalSource_noteDone n s hn hr k h3
  · rw [State.stepped, decide_eq_false h3, Bool.false_or] at hs
    have h := voiceSource_noteDone n s hn hr ((k - 3) / 3) ((k - 3) % 3) (by omega) (Nat.mod_lt _ (by decide)) hs
    rwa [show 3 + 3 * ((k - 3) / 3) + (k - 3) % 3 = k by omega] at h

omit hr in
/-- The others stay (R320, R330). -/
theorem notStepped_noteDone (k : Nat) (hs : s.stepped n k = false) : (noteDone n s).env n k = s.env n k ∧
    (noteDone n s).lfo n k = s.lfo n k := by
  obtain ⟨h3, hl⟩ := Bool.or_eq_false_iff.1 hs
  have h3 := of_decide_eq_false h3
  have key : ∀ u, s.live n u = true → 3 + 3 * u ≤ k → k < 6 + 3 * u → False := by
    intro u hu h1 h2
    rw [show (k - 3) / 3 = u by omega, hu] at hl
    cases hl
  refine ⟨(within_noteOut n s hn).env ?_, (within_noteOut n s hn).lfo ?_⟩
  · rintro ((h | h) | h)
    · have := startParts_lt h
      simp at this
      omega
    · obtain ⟨u, _, _, hu, h1, h2⟩ := rangeParts_env h
      rw [live_phaseA] at hu
      exact key u hu h1 h2
    · simp [closeParts, endParts] at h
  · rintro ((h | h) | h)
    · have := startParts_lt h
      simp at this
      omega
    · obtain ⟨u, _, _, hu, h1, h2⟩ := rangeParts_lfo h
      rw [live_phaseA] at hu
      exact key u hu h1 h2
    · simp [closeParts, endParts] at h

/-! ## ERR.SAT (R14) -/

/-- The calls of a voice's sources saturate as they would at the start of NOTE.OUT. -/
theorem sourcesSat_before (v : Nat) (hv : v < 8) (hl : s.live n v = true) : sourcesSat (noteBefore n s v).st n (3 + 3 * v) =
    (sourceSat s n (3 + 3 * v) || sourceSat s n (3 + 3 * v + 1) || sourceSat s n (3 + 3 * v + 2)) := by
  obtain ⟨_, _, hsat⟩ := runSources_ready n (3 + 3 * v) (noteBefore n s v).st (by omega) (by omega)
    (voiceReady_before n s hn hr v hv hl).sources hn
  have k : ∀ j, j < 3 → sourceSat (noteBefore n s v).st n (3 + 3 * v + j) = sourceSat s n (3 + 3 * v + j) := fun j hj => by
    have k := sourceKept_before n s hn hr v j hv hj
    rw [sourceSat, sourceSat, k.sourceStep (by omega), k.lfo]
  have k0 := k 0 (by decide)
  rw [Nat.add_zero] at k0
  rw [hsat, k0, k 1 (by decide), k 2 (by decide)]

/-- The narrowings of all the sources' calls of NOTE.OUT. -/
theorem sourcesSat_all : (sourcesSat s n 0 || (List.range 8).any fun v =>
    s.live n v && sourcesSat (noteBefore n s v).st n (3 + 3 * v)) =
      (List.range 27).any fun k => s.stepped n k && sourceSat s n k := by
  have h0 := (runSources_ready n 0 s (by decide) (by decide) (globalReady n s hr) hn).2.2
  rw [h0, Bool.eq_iff_iff]
  simp only [Bool.or_eq_true, any_range, Bool.and_eq_true]
  constructor
  · rintro (((h | h) | h) | ⟨v, hv, hl, h⟩)
    · exact ⟨0, by decide, by simp [State.stepped], h⟩
    · exact ⟨1, by decide, by simp [State.stepped], h⟩
    · exact ⟨2, by decide, by simp [State.stepped], h⟩
    · rw [sourcesSat_before n s hn hr v hv hl] at h
      simp only [Bool.or_eq_true] at h
      rcases h with (h | h) | h
      · exact ⟨_, by omega, live_stepped n s v 0 (by decide) hl, h⟩
      · exact ⟨_, by omega, live_stepped n s v 1 (by decide) hl, h⟩
      · exact ⟨_, by omega, live_stepped n s v 2 (by decide) hl, h⟩
  · rintro ⟨k, hk, hs, h⟩
    by_cases h3 : k < 3
    · refine .inl ?_
      interval_cases k
      · exact .inl (.inl h)
      · exact .inl (.inr h)
      · exact .inr h
    · rw [State.stepped, decide_eq_false h3, Bool.false_or] at hs
      have hv : (k - 3) / 3 < 8 := by omega
      refine .inr ⟨(k - 3) / 3, hv, hs, ?_⟩
      rw [sourcesSat_before n s hn hr _ hv hs]
      simp only [Bool.or_eq_true]
      have hm : (k - 3) % 3 = 0 ∨ (k - 3) % 3 = 1 ∨ (k - 3) % 3 = 2 := by omega
      rcases hm with hm | hm | hm
      · rw [show 3 + 3 * ((k - 3) / 3) = k by omega]; exact .inl (.inl h)
      · rw [show 3 + 3 * ((k - 3) / 3) + 1 = k by omega]; exact .inl (.inr h)
      · rw [show 3 + 3 * ((k - 3) / 3) + 2 = k by omega]; exact .inr h

theorem sat_noteDone : (noteDone n s).err.getLsbD 3 = (s.err.getLsbD 3 ||
    (((List.range 27).any fun k => s.stepped n k && sourceSat s n k) || (notePitch s (noteDone n s) n).sat ||
      (noteCutoff s (noteDone n s) n).sat || (noteGain s (noteDone n s) n).sat ||
      ((List.range 8).any fun v => s.live n v && voiceSaturates s (noteDone n s) n v) ||
      (noteChannel s (noteDone n s) n false).sat || (noteChannel s (noteDone n s) n true).sat)) := by
  have hv : ((List.range 8).any fun u => (blockFlags n u (phaseA n s).gpitch (noteBefore n s u)).getLsbD 3) =
      (((List.range 8).any fun v => s.live n v && sourcesSat (noteBefore n s v).st n (3 + 3 * v)) ||
        ((List.range 8).any fun v => s.live n v && voiceSaturates s (noteDone n s) n v)) := by
    rw [Bool.eq_iff_iff, Bool.or_eq_true, any_range, any_range, any_range, ← exists_or]
    refine exists_congr fun v => ?_
    rw [← and_or_left]
    refine and_congr_right fun hv => ?_
    rw [blockFlags_sat n s hn hr v hv, Bool.and_or_distrib_left, Bool.or_eq_true]
  rw [getLsbD_err_noteDone n s hn 3, hv, ← sourcesSat_all n s hn hr, finalChannel_eq n s hn hr, finalChannel_eq n s hn hr]
  simp only [getLsbD_flag, ErrBit.pos, show ¬ (3 = 2) by decide, show ¬ (3 = 1) by decide, decide_true, decide_false,
    Bool.and_true, Bool.and_false, Bool.or_false]
  ac_rfl

omit hr in
theorem noteSaturates_eq (b : Byte) (hb : b.toNat = n) (t : State) : noteSaturates s t n =
    (((List.range 27).any fun k => s.stepped n k && sourceSat s n k) || (notePitch s t n).sat || (noteCutoff s t n).sat ||
      (noteGain s t n).sat || ((List.range 8).any fun v => s.live n v && voiceSaturates s t n v) ||
      (noteChannel s t n false).sat || (noteChannel s t n true).sat) := by
  have hk : ((List.range 27).any fun k => s.stepped n k && ((s.flagsOf (sourceCall (BitVec.ofNat 8 n) k)).getLsbD 3 ||
      (s.flagsOf (.lfoOut (BitVec.ofNat 8 n) (BitVec.ofNat 8 k))).getLsbD 3)) =
        (List.range 27).any fun k => s.stepped n k && sourceSat s n k := by
    rw [Bool.eq_iff_iff, any_range, any_range]
    refine exists_congr fun k => and_congr_right fun hk => ?_
    rw [← hb, BitVec.ofNat_toNat, BitVec.setWidth_eq, flagsOf_sourceCall b k s (hb ▸ hn) hk, flagsOf_lfoOut b k s (hb ▸ hn) hk,
      getLsbD_flag, getLsbD_flag, sourceSat]
    simp [ErrBit.pos]
  rw [noteSaturates, hk]

/-! ## The records of a live voice -/

omit hr in
/-- Fields that neither the ratios nor the oscillators store to keep their bytes. -/
theorem live_field_kept (v k : Nat) (hv : v < 8) (hk : k < 64) (hl : s.live n v = true) (g : UniField)
    (h1 : ¬ (s.voice n v).retunes g) (h2 : ¬ (s.voice n v).advances g) (x : Nat)
    (hx : wordsAt (uniAddr n v k + g.offset) 1 x) : (noteDone n s).mem.byte? x = s.mem.byte? x := by
  have hx' := uni_in_voice g hk x hx
  refine (within_noteOut n s hn).bytes x ?_
  rintro (⟨u, _, _, hu⟩ | hc)
  · have hb := blockBytes_voice hu
    have huv : u = v := voiceBytes_unique (x := x) ⟨by omega, by omega⟩ hx'
    subst huv
    rw [blockBytes, live_phaseA, hl, if_pos rfl, voice_phaseA] at hu
    rcases hu with ⟨f, hf, hfx⟩ | ⟨f, hf, hfx⟩ | hw
    · exact fieldBytes_apart (fun he : f = g => h1 (he ▸ hf)) hx hfx
    · exact fieldBytes_apart (fun he : f = g => h2 (he ▸ hf)) hx hfx
    · have h3 := fieldBytes_voice ⟨k, hk, hx⟩
      obtain ⟨h4, _⟩ := hw
      simp only [voutAddr] at h4
      omega
  · exact not_channelBytes_of_voiceBytes hx' hc

omit hn hr in
/-- A byte of two neighbouring fields lies in one of them. -/
theorem wordsAt_pair {a x : Nat} (h : wordsAt a 2 x) : wordsAt a 1 x ∨ wordsAt (a + 4) 1 x := by
  simp only [wordsAt] at *; omega

omit hr in
/-- The same for two neighbouring fields. -/
theorem live_fields_kept (v k : Nat) (hv : v < 8) (hk : k < 64) (hl : s.live n v = true) (g h : UniField)
    (ho : h.offset = g.offset + 4) (hg : ¬ (s.voice n v).retunes g ∧ ¬ (s.voice n v).advances g)
    (hh : ¬ (s.voice n v).retunes h ∧ ¬ (s.voice n v).advances h) (x : Nat)
    (hx : wordsAt (uniAddr n v k + g.offset) 2 x) : (noteDone n s).mem.byte? x = s.mem.byte? x := by
  rcases wordsAt_pair hx with hx | hx
  · exact live_field_kept n s hn v k hv hk hl g hg.1 hg.2 x hx
  · exact live_field_kept n s hn v k hv hk hl h hh.1 hh.2 x (by rwa [ho, ← Nat.add_assoc])

/-- The record of a sub-voice of a live voice after the block (R334, R335, R340 to R345). -/
theorem record_noteDone (v k : Nat) (hv : v < 8) (hl : s.live n v = true) (hk : k < (s.voice n v).usize.toNat) :
    let y := s.voice n v
    let t := noteDone n s
    (if y.usize = 1 then t.uni n v k .ratio = 16777216 ∧ ∀ a, vibratoBytes n v a → t.mem.byte? a = s.mem.byte? a
      else t.uni n v k .vibpos = clamp (s.uni n v k .vibpos + s.uni n v k .vibstep) (-16777216) 16777216 ∧
        t.uni n v k .vibstep = (subStep s n v k).val ∧ t.uni n v k .ratio = (subRatio s t n v k).val) ∧
    t.phase n v k .phhi .phlo = (s.phase n v k .phhi .phlo + 256 * carrierStep s t n v k) % 17179869184 ∧
    (if y.topo ≠ 0 ∧ y.modext = false then t.phase n v k .phmhi .phmlo =
        (s.phase n v k .phmhi .phmlo + 256 * modulatorStep s t n v k) % 17179869184
      else ∀ a, wordsAt (uniAddr n v k + 0x20) 2 a → t.mem.byte? a = s.mem.byte? a) ∧
    (if y.topo = 4 then t.phase n v k .fmihi .fmilo = (subSamples s t n v k).val.2.fmi
      else ∀ a, wordsAt (uniAddr n v k + 0x28) 2 a → t.mem.byte? a = s.mem.byte? a) := by
  have h := seenCells_voice n s hn hr v hv hl
  obtain ⟨p1, p2, p3⟩ := h.phases hk
  obtain ⟨r1, r2⟩ := h.ratios hk
  have hk' := usize_lt _ hk
  intro y t
  refine ⟨?_, p1, ?_, ?_⟩
  · split
    · next h1 =>
      refine ⟨by rw [r1, subRatio, if_pos h1]; rfl, ?_⟩
      rintro a ⟨j, hj, ha⟩
      have hno : ∀ g, g = .vibpos ∨ g = .vibstep → ¬ (s.voice n v).retunes g ∧ ¬ (s.voice n v).advances g := by
        rintro g (rfl | rfl) <;> exact ⟨by simpa [Voice.retunes] using h1, by simp [Voice.advances]⟩
      exact live_fields_kept n s hn v j hv hj hl .vibpos .vibstep rfl (hno _ (.inl rfl)) (hno _ (.inr rfl)) a ha
    · next h1 => exact ⟨(r2 h1).1, (r2 h1).2, r1⟩
  · split
    · next h1 => exact p2 h1.1 h1.2
    · next h1 =>
      have hno : ∀ g, g = .phmhi ∨ g = .phmlo → ¬ (s.voice n v).retunes g ∧ ¬ (s.voice n v).advances g := by
        rintro g (rfl | rfl) <;> exact ⟨by simp [Voice.retunes], by
          rintro (h | ⟨h, _⟩ | ⟨_, h⟩)
          · simp at h
          · exact h1 h
          · simp at h⟩
      exact live_fields_kept n s hn v k hv hk' hl .phmhi .phmlo rfl (hno _ (.inl rfl)) (hno _ (.inr rfl))
  · split
    · next h1 => exact p3 h1
    · next h1 =>
      have hno : ∀ g, g = .fmihi ∨ g = .fmilo → ¬ (s.voice n v).retunes g ∧ ¬ (s.voice n v).advances g := by
        rintro g (rfl | rfl) <;> exact ⟨by simp [Voice.retunes], by
          rintro (h | ⟨_, h⟩ | ⟨h, _⟩)
          · simp at h
          · simp at h
          · exact h1 h⟩
      exact live_fields_kept n s hn v k hv hk' hl .fmihi .fmilo rfl (hno _ (.inl rfl)) (hno _ (.inr rfl))

end

end Sys2Proof.Machine
end

section
/-! PROOFS. NOTE.OUT on an active slot (R320 to R362): its statement, put together. -/

namespace Sys2Proof.Machine

section
variable (b : Byte) (s : State) (hn : b.toNat < 16)
include hn

/-- The sources after the block (R330), in the words of the commands. -/
theorem sources_clause (hr : NoteReady s b.toNat) (k : Nat) (hk : k < 27) :
    if s.stepped b.toNat k then
      (∃ u, exec (sourceCall b k) s = .next u ∧ (noteDone b.toNat s).env b.toNat k = u.env b.toNat k) ∧
      ∃ u, exec (.lfoOut b (BitVec.ofNat 8 k)) s = .next u ∧ (noteDone b.toNat s).lfo b.toNat k = u.lfo b.toNat k
    else (noteDone b.toNat s).env b.toNat k = s.env b.toNat k ∧ (noteDone b.toNat s).lfo b.toNat k = s.lfo b.toNat k := by
  cases hs : s.stepped b.toNat k with
  | true =>
    obtain ⟨he, hl⟩ := stepped_noteDone b.toNat s hn hr k hk hs
    obtain ⟨u, hu, hue, _⟩ := exec_sourceCall b k s hn hk
    obtain ⟨w, hw, hwl, _⟩ := exec_lfoOut b k s hn hk
    exact ⟨⟨u, hu, he.trans hue.symm⟩, w, hw, hl.trans hwl.symm⟩
  | false => exact notStepped_noteDone b.toNat s hn k hs

/-- A filter of a live voice after the block (R333, R346). -/
theorem voiceFilter_clause (hr : NoteReady s b.toNat) (v : Nat) (hv : v < 8) (hl : s.live b.toNat v = true) (right : Bool) :
    let t := noteDone b.toNat s
    let y := s.voice b.toNat v
    let f := 2 + 2 * v + right.toNat
    if y.filterOn then
      (∃ u, exec (.fltSetfq b (BitVec.ofNat 8 f) (BitVec.ofNat 32 (exp2 (voiceCutoff s t b.toNat v).val)) y.vfq) s = .next u ∧
        t.flt b.toNat f = { u.flt b.toNat f with fst := (t.flt b.toNat f).fst }) ∧
      (t.flt b.toNat f).fst.toList = (filtered s t b.toNat f (voiceMix s t b.toNat v right).val).val.2 ++
        (s.flt b.toNat f).fst.toList.drop (t.flt b.toNat f).fnst.toNat
    else t.flt b.toNat f = s.flt b.toNat f := by
  have h := (seenCells_voice b.toNat s hn hr v hv hl).flt_after' right
  have hb := right.toNat_le
  dsimp only
  cases hon : (s.voice b.toNat v).filterOn with
  | true =>
    rw [hon, if_pos rfl] at h
    exact filter_left b _ _ _ s _ _ hn (by omega) (exp2_le _) h
  | false =>
    rw [hon, if_neg (by decide)] at h
    exact h

/-- A global filter after the block (R333, R351). -/
theorem globalFilter_clause (hr : NoteReady s b.toNat) (right : Bool) :
    let t := noteDone b.toNat s
    let x := s.note b.toNat
    if x.gfen = 1 then
      (∃ u, exec (.fltSetfq b (BitVec.ofNat 8 right.toNat) (BitVec.ofNat 32 (exp2 (noteCutoff s t b.toNat).val)) x.gfq) s =
          .next u ∧
        t.flt b.toNat right.toNat = { u.flt b.toNat right.toNat with fst := (t.flt b.toNat right.toNat).fst }) ∧
      (t.flt b.toNat right.toNat).fst.toList = (filtered s t b.toNat right.toNat (noteDeposit s t b.toNat right).val).val.2 ++
        (s.flt b.toNat right.toNat).fst.toList.drop (t.flt b.toNat right.toNat).fnst.toNat
    else t.flt b.toNat right.toNat = s.flt b.toNat right.toNat := by
  have h := flt_noteDone b.toNat s hn right
  have hb := right.toNat_le
  rw [noteSum_before b.toNat s hn hr right] at h
  dsimp only
  by_cases hon : (s.note b.toNat).gfen = 1
  · rw [if_pos hon] at h ⊢
    exact filter_left b _ _ _ s _ _ hn (by omega) (exp2_le _) h
  · rw [if_neg hon] at h ⊢
    exact h

end

/-- Settles O48. NOTE.OUT on an active slot: the stages of the block (R320), each read off the states before and after. -/
theorem noteOutActive : Obligations.NoteOutActive := by
  unfold Obligations.NoteOutActive
  intro b s hn hact
  dsimp only
  obtain ⟨⟨g1, g2, g3, g4, g5⟩, ⟨n1, n2, n3⟩, k1, k2, k3, k4⟩ := kept_registers (head_noteDone b.toNat s hn)
  obtain ⟨hb, hc⟩ := budget_noteDone b.toNat s hn
  have hres := res0_iff b.toNat s hn
  refine ⟨noteDone b.toNat s, exec_noteOut s b hn hact, fun i hi => ?_, g1, g2, g3, g4, g5, n1, n2, n3,
    res1_noteDone b.toNat s hn, hb, hc, ?_, fun h => ?_, hres, k1, k2, k3, k4, fun v hv hl => ⟨?_, ?_, ?_, ?_⟩,
    clamp_noteDone b.toNat s hn, ?_, created_noteDone b.toNat s hn, fun hr => ⟨sources_clause b s hn hr,
      (amp_noteDone b.toNat s hn).1, (amp_noteDone b.toNat s hn).2, fun v hv => ?_, globalFilter_clause b s hn hr,
      fun i hi => ?_, ?_⟩⟩
  · obtain ⟨hl, hr⟩ := channels_noteDone b.toNat s hn i hi
    rw [hl, hr]
    exact ⟨rfl, rfl⟩
  · have := outcome_noteDone b.toNat s hn
    rwa [show (s.note b.toNat).nstat.active = true from hact] at this
  · refine hres.2 (.inr (h.imp_right fun h v hv hcv => ?_))
    have hl : s.live b.toNat v = false := by
      rw [State.live, show (s.voice b.toNat v).finished = true from h v hv hcv]
      exact Bool.and_false _
    rw [idle_finished b.toNat s hn v hl]
    exact h v hv hcv
  · exact idle_flt b.toNat s hn v hv hl _ (by omega) (by omega)
  · exact idle_flt b.toNat s hn v hv hl _ (by omega) (by omega)
  · refine fun x hx => idle_byte b.toNat s hn v hv hl x ?_ fun _ hw => ?_ <;>
      simp only [wordsAt, uniAddr, voutAddr, voiceBytes] at * <;> omega
  · exact fun hcr x hx => idle_byte b.toNat s hn v hv hl x (vout_in_voice x hx) fun h => absurd h (by rw [hcr]; decide)
  · have h := cfg_noteDone b.toNat s hn
    simp only [Flt.stagesBad_iff] at h
    exact h
  · have hcore := fun h => idle_core b.toNat s hn v h
    cases hl : s.live b.toNat v with
    | true =>
      have hf := finished_of_live hl
      exact ⟨(seen_voice b.toNat s hn v hv hl).voice_after hf, fun k hk => record_noteDone b.toNat s hn hr v k hv hl hk,
        voiceFilter_clause b s hn hr v hv hl, (seenCells_voice b.toNat s hn hr v hv hl).vout hf⟩
    | false => exact ⟨Voice.ext_core (hcore hl) rfl, idle_vout b.toNat s hn v hv hl⟩
  · rw [← finalChannel_eq b.toNat s hn hr, ← finalChannel_eq b.toNat s hn hr]
    exact channels_noteDone b.toNat s hn i hi
  · rw [noteSaturates_eq b.toNat s hn b rfl, sat_noteDone b.toNat s hn hr, Bool.or_eq_true]

end Sys2Proof.Machine
end

section
/-! PROOFS. Table selection and OSC.GET as NOTE.INIT uses them (R186 to R201): what a preparation changes, and what a
delivery takes from the oscillator's registers, its published bank and the note's generator. -/

namespace Sys2Proof.Machine

/-! ## Table selection (R187, R189) -/

/-- OSC.GET would prepare oscillator o first (R189). -/
def State.unsettled (s : State) (o : Nat) : Bool := (s.osc o).dirty && (s.osc o).job.isNone

/-- The published bank of every oscillator that has one is written. -/
def State.BanksWritten (s : State) : Prop := ∀ o, o < 16 → (s.osc o).valid = true →
  s.Written (specAddr o (s.osc o).pubsel) 1024 ∧ s.Written (waveAddr o (s.osc o).pubsel) 1024

/-- The spectrum that a preparation computes (R178, R187). -/
def preparedSpectrum (s : State) (o : Nat) : Sat Spectrum :=
  prepareSpectrum (s.osc o).cfg (codes (s.cells (hmagAddr o) 128)) (codes (s.cells (hphaseAddr o) 128))

/-- The flags a preparation raises (R187). -/
def prepFlags (s : State) (o : Nat) : BitVec 8 :=
  flag (s.osc o).cfg.prepareBad .cfg ||| flag (preparedSpectrum s o).sat .sat

/-- The registers of an oscillator after a preparation (R187). -/
def Osc.prepared (x : Osc) : Osc := { x with pubsel := !x.pubsel, valid := true, pubver := x.cfgver, dirty := false }

theorem length_invT (S : Spectrum) : (invT S).length = 1024 := by
  simp only [invT, List.length_map, List.length_range]

theorem setCells_word? (s : State) (a : Nat) (ws : List Word) (i : Nat) (h : i < ws.length) :
    (s.setCells a ws).mem.word? (a + 4 * i) = some ws[i] :=
  (word?_splice_bytesOf _ _ _ _ h).trans (List.getElem?_eq_getElem h)

theorem written_setOsc (s : State) (o a m : Nat) (x : Osc) : (s.setOsc o x).Written a m ↔ s.Written a m := Iff.rfl

theorem written_setCells (s : State) (a : Nat) (ws : List Word) : (s.setCells a ws).Written a ws.length := fun i hi => by
  rw [setCells_word? _ _ _ _ hi]; rfl

theorem written_setSignedCells (s : State) (a : Nat) (xs : List Int) : (s.setSignedCells a xs).Written a xs.length := by
  have h := written_setCells s a (xs.map toWord)
  rwa [List.length_map] at h

section
variable {n : Nat} {P : Part → Prop} (o : Nat) (s : State)

theorem within_writeBank (b : Bool) (S : Spectrum) (h : S.length = 512) :
    Within n P (bankBytes o b) s (writeBank o b S s) :=
  (within_setCells _ _ (fun x hx => .inl (by simpa [h] using hx)) s).trans
    (within_setSignedCells _ _ (fun x hx => .inr (by simpa [length_invT] using hx)) _)

theorem written_writeBank (b : Bool) (S : Spectrum) (h : S.length = 512) :
    (writeBank o b S s).Written (specAddr o b) 1024 ∧ (writeBank o b S s).Written (waveAddr o b) 1024 := by
  have h1 := written_setCells s (specAddr o b) (spectrumWords S)
  rw [length_spectrumWords, h] at h1
  have h2 := written_setSignedCells (s.setCells (specAddr o b) (spectrumWords S)) (waveAddr o b) (invT S)
  rw [length_invT] at h2
  have hno : ∀ (i : Nat), i < 1024 → ∀ x, wordsAt (specAddr o b + 4 * i) 1 x → ¬ wordsAt (waveAddr o b) (invT S).length x := by
    intro i hi x hx hw
    rw [length_invT] at hw
    simp only [wordsAt, specAddr, waveAddr] at hx hw
    cases b <;> simp at hx hw <;> omega
  refine ⟨fun i hi => ?_, h2⟩
  have hw := within_setSignedCells (n := 0) (P := fun _ => False) (A := wordsAt (waveAddr o b) (invT S).length)
    (waveAddr o b) (invT S) (fun _ h => h) (s.setCells (specAddr o b) (spectrumWords S))
  unfold writeBank
  rw [hw.word? (hno i hi)]
  exact h1 i hi

theorem syncPrepare_eq : syncPrepare o s = (writeBank o (!(s.osc o).pubsel) (preparedSpectrum s o).val
    (((s.touch (hmagAddr o) 256).setErrIf (s.osc o).cfg.prepareBad .cfg).noteSat (preparedSpectrum s o).sat)).setOsc o
      (s.osc o).prepared := rfl

theorem length_preparedSpectrum : (preparedSpectrum s o).val.length = 512 := length_prepareSpectrum _ _ _

theorem within_syncPrepare : Within n (fun p => p = .undef ∨ p = .osc o) (bankBytes o !(s.osc o).pubsel) s
    (syncPrepare o s) := by
  rw [syncPrepare_eq]
  exact ((((within_touch _ _ (.inl rfl) s).trans (within_setErrIf _ _ _)).trans (within_noteSat _ _)).trans
    (within_writeBank o _ _ _ (length_preparedSpectrum o s))).trans (within_setOsc o _ (.inr rfl) _)

theorem err_syncPrepare : (syncPrepare o s).err = s.err ||| prepFlags s o := by
  have h : ∀ (u : State) b S x, ((writeBank o b S u).setOsc o x).err = u.err := fun _ _ _ _ => rfl
  rw [syncPrepare_eq, h, err_noteSat, err_setErrIf, prepFlags, BitVec.or_assoc]
  rfl

variable (ho : o < 16)
include ho

theorem osc_syncPrepare : (syncPrepare o s).osc o = (s.osc o).prepared := by
  rw [syncPrepare_eq]
  exact osc_setOsc_self _ _ _ ho

theorem written_syncPrepare : (syncPrepare o s).Written (specAddr o ((syncPrepare o s).osc o).pubsel) 1024 ∧
    (syncPrepare o s).Written (waveAddr o ((syncPrepare o s).osc o).pubsel) 1024 := by
  rw [osc_syncPrepare o s ho, syncPrepare_eq, written_setOsc, written_setOsc]
  exact written_writeBank o _ _ _ (length_preparedSpectrum o s)

theorem unsettled_syncPrepare : (syncPrepare o s).unsettled o = false := by
  rw [State.unsettled, osc_syncPrepare o s ho]; rfl

end

theorem tableSelect_settled {o : Nat} {s : State} (h : s.unsettled o = false) : tableSelect o s = s :=
  if_neg (by rw [← State.unsettled, h]; decide)

theorem tableSelect_unsettled {o : Nat} {s : State} (h : s.unsettled o = true) : tableSelect o s = syncPrepare o s := if_pos h

theorem unsettled_tableSelect (o : Nat) (s : State) (ho : o < 16) : (tableSelect o s).unsettled o = false := by
  cases h : s.unsettled o with
  | true => rw [tableSelect_unsettled h, unsettled_syncPrepare o s ho]
  | false => rw [tableSelect_settled h, h]

/-- OSC.GET goes on from the selected table (R188). -/
theorem oscGet_tableSelect (o n v : Nat) (sel useres : Bool) (freq : Nat) (s : State) (ho : o < 16) :
    oscGet o n v sel useres freq s = oscGet o n v sel useres freq (tableSelect o s) := by
  unfold oscGet
  rw [tableSelect_settled (unsettled_tableSelect o s ho)]

theorem within_tableSelect {n : Nat} (o : Nat) (s : State) : Within n
    (fun p => s.unsettled o = true ∧ (p = .undef ∨ p = .osc o))
    (fun x => s.unsettled o = true ∧ bankBytes o (!(s.osc o).pubsel) x) s (tableSelect o s) := by
  cases h : s.unsettled o with
  | true => rw [tableSelect_unsettled h]; exact (within_syncPrepare o s).mono (fun _ h => ⟨rfl, h⟩) fun _ h => ⟨rfl, h⟩
  | false => rw [tableSelect_settled h]; exact .refl s

/-- A preparation writes its bank, and leaves the others' alone. -/
theorem bankBytes_apart {o q x : Nat} {b c : Bool} (h : bankBytes o b x) (hq : bankBytes q c x) (ho : o < 16) (hq' : q < 16) :
    o = q ∧ b = c := by
  simp only [bankBytes, wordsAt, specAddr, waveAddr] at h hq
  cases b <;> cases c <;> simp at h hq ⊢ <;> omega

/-- Updates that keep the published banks keep them written. -/
theorem Within.banksWritten {n : Nat} {P : Part → Prop} {A : Nat → Prop} {s t : State} (h : Within n P A s t)
    (hP : ∀ o, ¬ P (.osc o)) (hA : ∀ o b x, o < 16 → bankBytes o b x → ¬ A x) (hs : s.BanksWritten) : t.BanksWritten := by
  intro o ho hv
  rw [h.osc (hP o)] at hv ⊢
  obtain ⟨h1, h2⟩ := hs o ho hv
  exact ⟨h.written h1 fun x hx => hA o _ x ho (.inl hx), h.written h2 fun x hx => hA o _ x ho (.inr hx)⟩

theorem banksWritten_tableSelect {o : Nat} {s : State} (ho : o < 16) (hs : s.BanksWritten) : (tableSelect o s).BanksWritten := by
  cases h : s.unsettled o with
  | false => rw [tableSelect_settled h]; exact hs
  | true =>
    rw [tableSelect_unsettled h]
    intro q hq hv
    by_cases hqo : q = o
    · subst hqo
      exact written_syncPrepare q s ho
    · have w := within_syncPrepare (n := 0) o s
      have hosc : (syncPrepare o s).osc q = s.osc q := w.osc (by simp [hqo])
      rw [hosc] at hv ⊢
      obtain ⟨h1, h2⟩ := hs q hq hv
      exact ⟨w.written h1 fun x hx hb => hqo (bankBytes_apart (.inl hx) hb hq ho).1,
        w.written h2 fun x hx hb => hqo (bankBytes_apart (.inr hx) hb hq ho).1⟩

/-! ## Delivery (R188 to R201) -/

/-- What OSC.GET delivers: the waveform, the start offset, the generator after it, the flags. -/
structure Delivery where
  words : List Word
  off : Nat
  rng : Word
  err : BitVec 8

/-- OSC.GET from an oscillator's registers, the words of its published bank and the note's generator (R188 to R201). -/
def delivery (x : Osc) (ctl : Ctl) (useres : Bool) (freq : Nat) (spec wave : List Word) (rng : Word) : Delivery :=
  let f := max freq Config.FREQ_MIN
  let S := getSpectrum x.cfg ctl useres f rng (spectrumOfWords spec)
  let r := if x.cfg.aa = 0 then rng else rngAfter (getDraws x.cfg (keepBins f)) rng
  if x.valid then
    { words := if x.cfg.aa = 0 then wave else (invT S.val).map toWord
      off := startOffset x.cfg r
      rng := if x.cfg.randmodeEff = 1 then rngNext r else r
      err := flag x.cfg.getBad .cfg ||| flag (decide (freq < Config.FREQ_MIN)) .clamp |||
        flag (x.cfg.aa != 0 && S.sat) .sat }
  else ⟨(zeros 1024).map toWord, 0, rng, flag true .noTable⟩

/-- The delivery that a state gives. -/
def deliveryOf (s : State) (o n : Nat) (useres : Bool) (freq : Nat) : Delivery :=
  delivery (s.osc o) s.ctl useres freq (s.cells (specAddr o (s.osc o).pubsel) 1024)
    (s.cells (waveAddr o (s.osc o).pubsel) 1024) (s.note n).rng

theorem startOffset_lt (c : OscCfg) (r : Word) : startOffset c r < 1024 := by
  have hd := c.randdepth.isLt
  have hi : rngIndex (rngNext r) < 1024 := by
    unfold rngIndex rngR31
    omega
  unfold startOffset
  split
  · have : rngIndex (rngNext r) * c.randdepth.toNat ≤ 1023 * 127 := Nat.mul_le_mul (by omega) (by omega)
    omega
  · decide

theorem delivery_off_lt (x : Osc) (ctl : Ctl) (useres : Bool) (freq : Nat) (spec wave : List Word) (rng : Word) :
    (delivery x ctl useres freq spec wave rng).off < 1024 := by
  unfold delivery
  dsimp only
  split
  · exact startOffset_lt _ _
  · exact Nat.zero_lt_of_lt (show 1 < 1024 by decide)

/-- The flags besides ERR.SAT do not depend on the bank and the generator. -/
theorem delivery_err (x : Osc) (ctl ctl' : Ctl) (useres : Bool) (freq : Nat) (spec wave spec' wave' : List Word)
    (rng rng' : Word) (i : Nat) (hi : i ≠ 3) : (delivery x ctl useres freq spec wave rng).err.getLsbD i =
      (delivery x ctl' useres freq spec' wave' rng').err.getLsbD i := by
  unfold delivery
  dsimp only
  split
  · simp only [BitVec.getLsbD_or, getLsbD_flag, ErrBit.pos, hi, decide_false, Bool.and_false, Bool.or_false]
  · rfl

/-- A delivery without a table takes nothing from the bank. -/
theorem delivery_congr (x : Osc) (ctl : Ctl) (useres : Bool) (freq : Nat) (spec wave spec' wave' : List Word) (rng : Word)
    (h : x.valid = true → spec = spec' ∧ wave = wave') :
    delivery x ctl useres freq spec wave rng = delivery x ctl useres freq spec' wave' rng := by
  cases hv : x.valid with
  | true =>
    obtain ⟨rfl, rfl⟩ := h hv
    rfl
  | false =>
    unfold delivery
    dsimp only
    rw [hv, if_neg (by decide), if_neg (by decide)]

/-- What a delivery leaves in a state: the waveform buffer, the offset, the generator and the flags. -/
structure Delivers (n v : Nat) (sel : Bool) (D : Delivery) (u : State) (g : GetOut) : Prop where
  off : g.off = D.off
  note : g.st.note n = { u.note n with rng := D.rng }
  words : g.st.cells (vwaveAddr n v sel) 1024 = D.words
  written : g.st.Written (vwaveAddr n v sel) 1024
  err : g.st.err = u.err ||| D.err
  within : Within n (fun p => p = .undef ∨ p = .head) (wordsAt (vwaveAddr n v sel) 1024) u g.st

section
variable {n : Nat} (hn : n < 16)

theorem note_setRng (u : State) (r : Word) (hn : n < 16) : (u.setRng n r).note n = { u.note n with rng := r } :=
  note_modNote_self u n _ hn

theorem setRng_keeps (u : State) (r : Word) (a m : Nat) : (u.setRng n r).cells a m = u.cells a m ∧
    (u.setRng n r).err = u.err ∧ (∀ o, (u.setRng n r).osc o = u.osc o) ∧ (u.setRng n r).ctl = u.ctl :=
  ⟨rfl, rfl, fun _ => rfl, rfl⟩

theorem within_setRng {P : Part → Prop} {A : Nat → Prop} (h : P .head) (u : State) (r : Word) :
    Within n P A u (u.setRng n r) :=
  within_modNote_head (P := P) h (fun x => { x with rng := r }) (fun _ => ⟨rfl, rfl, rfl, rfl, rfl, rfl⟩) u

theorem cells_setCells_of_length (u : State) (a m : Nat) (ws : List Word) (h : ws.length = m) :
    (u.setCells a ws).cells a m = ws := by subst h; exact cells_setCells u a ws

theorem within_setCells_of_length {P : Part → Prop} {A : Nat → Prop} (a m : Nat) (ws : List Word) (h : ws.length = m)
    (hA : ∀ x, wordsAt a m x → A x) (u : State) : Within n P A u (u.setCells a ws) := by
  subst h; exact within_setCells a ws hA u

theorem written_setCells_of_length (u : State) (a m : Nat) (ws : List Word) (h : ws.length = m) :
    (u.setCells a ws).Written a m := by subst h; exact written_setCells u a ws

theorem written_setRng (u : State) (r : Word) (a m : Nat) : (u.setRng n r).Written a m ↔ u.Written a m := Iff.rfl

/-- The copy of R190. -/
theorem delivers_getCopy (o v : Nat) (sel : Bool) (u : State) (off keep : Nat) :
    Delivers n v sel ⟨u.cells (waveAddr o (u.osc o).pubsel) 1024, off, (u.note n).rng, 0⟩ u ⟨getCopy o n v sel u, off, keep⟩ := by
  have hl : (u.cells (waveAddr o (u.osc o).pubsel) 1024).length = 1024 := length_cells _ _ _
  have heq : getCopy o n v sel u = (u.touch (waveAddr o (u.osc o).pubsel) 1024).setCells (vwaveAddr n v sel)
    (u.cells (waveAddr o (u.osc o).pubsel) 1024) := rfl
  have hc : ∀ (w : State) a ws b m, ((w.touch b m).setCells a ws).err = w.err ∧
    ((w.touch b m).setCells a ws).note n = w.note n := fun _ _ _ _ _ => ⟨rfl, rfl⟩
  refine ⟨rfl, ?_, ?_, ?_, ?_, ?_⟩ <;> dsimp only <;> rw [heq]
  · rw [(hc _ _ _ _ _).2]
  · exact cells_setCells_of_length _ _ _ _ hl
  · exact written_setCells_of_length _ _ _ _ hl
  · rw [(hc _ _ _ _ _).1]
    exact (BitVec.or_zero ..).symm
  · exact (within_touch _ _ (.inl rfl) u).trans (within_setCells_of_length _ _ _ hl (fun _ h => h) _)

include hn in
/-- The transform of R192 to R201. -/
theorem delivers_getAntiAliased (o v : Nat) (sel useres : Bool) (f : Nat) (u : State) (off keep : Nat) :
    let S := getSpectrum (u.osc o).cfg u.ctl useres f (u.note n).rng
      (spectrumOfWords (u.cells (specAddr o (u.osc o).pubsel) 1024))
    Delivers n v sel ⟨(invT S.val).map toWord, off, rngAfter (getDraws (u.osc o).cfg (keepBins f)) (u.note n).rng, flag S.sat .sat⟩
      u ⟨getAntiAliased o n v sel useres f u, off, keep⟩ := by
  intro S
  have hl : ((invT S.val).map toWord).length = 1024 := by rw [List.length_map, length_invT]
  have heq : getAntiAliased o n v sel useres f u = ((((u.touch (specAddr o (u.osc o).pubsel) 1024).noteSat S.sat).setCells
      (vwaveAddr n v sel) ((invT S.val).map toWord)).setRng n (rngAfter (getDraws (u.osc o).cfg (keepBins f)) (u.note n).rng)) :=
    rfl
  have hc : ∀ (w : State) a ws, (w.setCells a ws).err = w.err ∧ (w.setCells a ws).note n = w.note n := fun _ _ _ => ⟨rfl, rfl⟩
  have ht : ∀ (w : State) b m, ((w.touch b m).noteSat S.sat).note n = w.note n ∧ (w.touch b m).err = w.err :=
    fun _ _ _ => ⟨rfl, rfl⟩
  refine ⟨rfl, ?_, ?_, ?_, ?_, ?_⟩
  · rw [heq, note_setRng _ _ hn, (hc _ _ _).2, (ht _ _ _).1]
  · rw [heq, (setRng_keeps _ _ _ _).1, cells_setCells_of_length _ _ _ _ hl]
  · rw [heq, written_setRng]
    exact written_setCells_of_length _ _ _ _ hl
  · rw [heq, (setRng_keeps _ _ 0 0).2.1, (hc _ _ _).1, err_noteSat, (ht _ _ _).2]
  · rw [heq]
    exact (((within_touch _ _ (.inl rfl) u).trans (within_noteSat _ _)).trans
      (within_setCells_of_length _ _ _ hl (fun _ h => h) _)).trans (within_setRng (.inr rfl) _ _)

/-- A delivery from a state that differs by flags only. -/
theorem Delivers.after {v : Nat} {sel : Bool} {D : Delivery} {u u1 : State} {g : GetOut} {e : BitVec 8}
    (h : Delivers n v sel D u1 g) (hnote : u1.note n = u.note n) (he : u1.err = u.err ||| e)
    (hw : Within n (fun p => p = .undef ∨ p = .head) (wordsAt (vwaveAddr n v sel) 1024) u u1) :
    Delivers n v sel ⟨D.words, D.off, D.rng, e ||| D.err⟩ u g :=
  ⟨h.off, by rw [h.note, hnote], h.words, h.written, by rw [h.err, he, BitVec.or_assoc], hw.trans h.within⟩

include hn in
/-- The start offset and its draw (R196). -/
theorem Delivers.finish {v : Nat} {sel : Bool} {D : Delivery} {u w : State} {keep : Nat} (c : OscCfg) (keep' : Nat)
    (h : Delivers n v sel D u ⟨w, D.off, keep⟩) :
    Delivers n v sel ⟨D.words, startOffset c D.rng, if c.randmodeEff = 1 then rngNext D.rng else D.rng, D.err⟩ u
      ⟨if c.randmodeEff = 1 then w.setRng n (rngNext (w.note n).rng) else w, startOffset c (w.note n).rng, keep'⟩ := by
  have hnote : w.note n = { u.note n with rng := D.rng } := h.note
  have hr : (w.note n).rng = D.rng := by rw [hnote]
  rw [hr]
  split
  · exact ⟨rfl, by rw [note_setRng _ _ hn, hnote], h.words, h.written, h.err, h.within.trans (within_setRng (.inr rfl) _ _)⟩
  · exact ⟨rfl, h.note, h.words, h.written, h.err, h.within⟩

/-- The table's delivery before the start offset, where anti-aliasing is off (R190) or on (R192 to R201). -/
def tableDelivery (s : State) (o n : Nat) (useres : Bool) (f : Nat) : Delivery :=
  let S := getSpectrum (s.osc o).cfg s.ctl useres f (s.note n).rng
    (spectrumOfWords (s.cells (specAddr o (s.osc o).pubsel) 1024))
  if (s.osc o).cfg.aa = 0 then ⟨s.cells (waveAddr o (s.osc o).pubsel) 1024, 0, (s.note n).rng, 0⟩
  else ⟨(invT S.val).map toWord, 0, rngAfter (getDraws (s.osc o).cfg (keepBins f)) (s.note n).rng, flag S.sat .sat⟩

include hn in
theorem delivers_table (o v : Nat) (sel useres : Bool) (f keep : Nat) (u : State) :
    Delivers n v sel (tableDelivery u o n useres f) u
      ⟨if (u.osc o).cfg.aa = 0 then getCopy o n v sel u else getAntiAliased o n v sel useres f u,
        (tableDelivery u o n useres f).off, keep⟩ := by
  unfold tableDelivery
  dsimp only
  split
  · exact delivers_getCopy o v sel u 0 keep
  · exact delivers_getAntiAliased hn o v sel useres f u 0 keep

theorem deliveryOf_eq (u : State) (o n : Nat) (useres : Bool) (freq : Nat) (hv : (u.osc o).valid = true) :
    deliveryOf u o n useres freq =
      let D := tableDelivery u o n useres (max freq Config.FREQ_MIN)
      ⟨D.words, startOffset (u.osc o).cfg D.rng, if (u.osc o).cfg.randmodeEff = 1 then rngNext D.rng else D.rng,
        flag (u.osc o).cfg.getBad .cfg ||| flag (decide (freq < Config.FREQ_MIN)) .clamp ||| D.err⟩ := by
  unfold deliveryOf delivery tableDelivery
  dsimp only
  rw [if_pos hv]
  by_cases ha : (u.osc o).cfg.aa = 0
  · have hb : ((u.osc o).cfg.aa != 0) = false := by simpa using ha
    simp only [if_pos ha, hb, Bool.false_and, flag_false]
    rfl
  · have hb : ((u.osc o).cfg.aa != 0) = true := by simpa using ha
    simp only [if_neg ha, hb, Bool.true_and]

include hn in
/-- Steps 2 to 4 of OSC.GET (R188). -/
theorem delivers_getFromTable (o v : Nat) (sel useres : Bool) (freq : Nat) (u : State) (hv : (u.osc o).valid = true) :
    Delivers n v sel (deliveryOf u o n useres freq) u (getFromTable o n v sel useres freq u) := by
  have hflags : ∀ (w : State) a b, ((w.setErrIf a .cfg).setErrIf b .clamp).note n = w.note n ∧
      (∀ q, ((w.setErrIf a .cfg).setErrIf b .clamp).osc q = w.osc q) := fun _ _ _ => ⟨rfl, fun _ => rfl⟩
  have htable : ∀ (w : State) a b f, tableDelivery ((w.setErrIf a .cfg).setErrIf b .clamp) o n useres f =
      tableDelivery w o n useres f := fun _ _ _ _ => rfl
  rw [deliveryOf_eq u o n useres freq hv]
  have h := (delivers_table hn o v sel useres (max freq Config.FREQ_MIN) 0
    ((u.setErrIf (u.osc o).cfg.getBad .cfg).setErrIf (decide (freq < Config.FREQ_MIN)) .clamp))
  rw [htable, (hflags _ _ _).2] at h
  have h2 := (h.after (u := u) (hflags _ _ _).1 (e := flag (u.osc o).cfg.getBad .cfg |||
    flag (decide (freq < Config.FREQ_MIN)) .clamp) (by rw [err_setErrIf, err_setErrIf, BitVec.or_assoc])
    ((within_setErrIf _ _ _).trans (within_setErrIf _ _ _))).finish hn (u.osc o).cfg
      (if (u.osc o).cfg.aa = 0 then 511 else keepBins (max freq Config.FREQ_MIN))
  exact h2

include hn in
/-- OSC.GET from a settled oscillator (R188, R191). -/
theorem delivers_oscGet (o v : Nat) (sel useres : Bool) (freq : Nat) (u : State) (hs : u.unsettled o = false) :
    Delivers n v sel (deliveryOf u o n useres freq) u (oscGet o n v sel useres freq u) := by
  unfold oscGet
  rw [tableSelect_settled hs]
  dsimp only
  split
  · next hv => exact delivers_getFromTable hn o v sel useres freq u hv
  · next hv =>
    have hl : ((zeros 1024).map toWord).length = 1024 := by rw [List.length_map, length_zeros]
    have hd : deliveryOf u o n useres freq = ⟨(zeros 1024).map toWord, 0, (u.note n).rng, flag true .noTable⟩ := by
      unfold deliveryOf delivery
      dsimp only
      rw [if_neg hv]
    have hk : ∀ (w : State) a ws e, ((w.setCells a ws).setErr e).note n = w.note n ∧
      ((w.setCells a ws).setErr e).err = w.err ||| BitVec.twoPow 8 e.pos ∧
        ∀ b m, ((w.setCells a ws).setErr e).cells b m = (w.setCells a ws).cells b m ∧
          (((w.setCells a ws).setErr e).Written b m ↔ (w.setCells a ws).Written b m) :=
      fun _ _ _ _ => ⟨rfl, rfl, fun _ _ => ⟨rfl, Iff.rfl⟩⟩
    have hsg : ∀ (w : State) a xs, w.setSignedCells a xs = w.setCells a (xs.map toWord) := fun _ _ _ => rfl
    rw [hd, hsg]
    refine ⟨rfl, ?_, ?_, ?_, ?_, ?_⟩ <;> dsimp only
    · rw [(hk _ _ _ _).1]
    · rw [((hk _ _ _ _).2.2 _ _).1, cells_setCells_of_length _ _ _ _ hl]
    · rw [((hk _ _ _ _).2.2 _ _).2]
      exact written_setCells_of_length _ _ _ _ hl
    · rw [(hk _ _ _ _).2.1]; rfl
    · exact (within_setCells_of_length _ _ _ hl (fun _ h => h) u).trans (.of_eq rfl rfl rfl rfl rfl rfl rfl)

end

end Sys2Proof.Machine
end

section
/-! PROOFS. The commands that NOTE.INIT performs, as commands (R234, R256, R291, R186, R188): what they write and raise. -/

namespace Sys2Proof.Machine

/-! ## Resets -/

/-- The flags of ENV.RESET (R234). -/
def Env.resetFlags (e : Env) : BitVec 8 :=
  flag (decide (40 < e.npts.toNat) || decide (e.npts.toNat = 0)) .clamp |||
    flag (sustainBad e.sust (clampPoints e.npts)) .cfg

/-- The flags of LFO.RESET (R256). -/
def Lfo.resetFlags (l : Lfo) : BitVec 8 := flag (decide (4 < l.lshape.toNat)) .cfg

/-- EnvReset and LfoReset of one slot (R311, R312). -/
def resetSlot (n k : Nat) (s : State) : State := lfoReset n k (envReset n k s)

section
variable {n k : Nat} (s : State)

theorem within_envReset : Within n (fun p => p = .env k ∨ p = .undef) nowhere s (envReset n k s) :=
  (((within_touch _ _ (.inr rfl) s).trans (within_setErrIf _ _ _)).trans (within_setErrIf _ _ _)).trans
    (within_setEnv k _ (.inl rfl) _)

theorem within_lfoReset : Within n (fun p => p = .lfo k) nowhere s (lfoReset n k s) :=
  (within_setErrIf _ _ s).trans (within_setLfo (P := fun p => p = .lfo k) k _ rfl _)

theorem within_resetSlot : Within n (sourceParts k) nowhere s (resetSlot n k s) :=
  ((within_envReset s).mono (fun _ h => h.elim .inl fun h => .inr (.inr h)) fun _ h => h).trans
    ((within_lfoReset _).mono (fun _ h => .inr (.inl h)) fun _ h => h)

theorem err_envReset : (envReset n k s).err = s.err ||| (s.env n k).resetFlags := by
  have h : ∀ (u : State) e, (u.setEnv n k e).err = u.err := fun _ _ => rfl
  have ht : ∀ (u : State) a m, (u.touch a m).err = u.err := fun _ _ _ => rfl
  unfold envReset
  dsimp only
  rw [h, err_setErrIf, err_setErrIf, ht, BitVec.or_assoc]
  rfl

theorem err_lfoReset : (lfoReset n k s).err = s.err ||| (s.lfo n k).resetFlags := by
  have h : ∀ (u : State) e, (u.setLfo n k e).err = u.err := fun _ _ => rfl
  unfold lfoReset
  rw [h, err_setErrIf]
  rfl

theorem err_resetSlot : (resetSlot n k s).err = s.err ||| ((s.env n k).resetFlags ||| (s.lfo n k).resetFlags) := by
  rw [resetSlot, err_lfoReset, err_envReset, (within_envReset s).lfo (by simp), BitVec.or_assoc]

variable (hn : n < 16) (hk : k < 27)
include hn hk

theorem env_envReset : (envReset n k s).env n k = (s.env n k).construct (s.cell (valAddr n k 0)) := env_setEnv _ _ _ _ hn hk

theorem lfo_lfoReset : (lfoReset n k s).lfo n k = (s.lfo n k).restart := lfo_setLfo _ _ _ _ hn hk

theorem env_resetSlot : (resetSlot n k s).env n k = (s.env n k).construct (s.cell (valAddr n k 0)) :=
  ((within_lfoReset _).env (by simp)).trans (env_envReset s hn hk)

theorem lfo_resetSlot : (resetSlot n k s).lfo n k = (s.lfo n k).restart := by
  rw [resetSlot, lfo_lfoReset _ hn hk, (within_envReset s).lfo (by simp)]

end

/-! ## Three slots -/

/-- The flags of the resets of three consecutive slots. -/
def slotsFlags (s : State) (n base : Nat) : BitVec 8 :=
  ((s.env n base).resetFlags ||| (s.lfo n base).resetFlags) |||
    (((s.env n (base + 1)).resetFlags ||| (s.lfo n (base + 1)).resetFlags) |||
      ((s.env n (base + 2)).resetFlags ||| (s.lfo n (base + 2)).resetFlags))

section
variable (n base : Nat) (s : State)

theorem resetSlots_eq : resetSlots n base s = resetSlot n (base + 2) (resetSlot n (base + 1) (resetSlot n base s)) := rfl

theorem within_resetSlots : Within n (sourcesParts base) nowhere s (resetSlots n base s) := by
  rw [resetSlots_eq]
  have step := fun j (hj : j < 3) t => (within_resetSlot (n := n) (k := base + j) t).mono (sourceParts_le hj) fun _ h => h
  exact ((step 0 (by decide) s).trans (step 1 (by decide) _)).trans (step 2 (by decide) _)

theorem err_resetSlots : (resetSlots n base s).err = s.err ||| slotsFlags s n base := by
  have w1 := within_resetSlot (n := n) (k := base) s
  have w2 := within_resetSlot (n := n) (k := base + 1) (resetSlot n base s)
  rw [resetSlots_eq, err_resetSlot, err_resetSlot, err_resetSlot, w2.env (by simp [sourceParts]),
    w2.lfo (by simp [sourceParts]), w1.env (by simp [sourceParts]), w1.lfo (by simp [sourceParts]),
    w1.env (by simp [sourceParts]), w1.lfo (by simp [sourceParts]), slotsFlags]
  simp only [BitVec.or_assoc]

/-- The slots after their resets; VAL[0] of a written table is read as it stands (R234). -/
theorem resetSlots_slots (hn : n < 16) (hb : base + 2 < 27) (j : Nat) (hj : j < 3) :
    (s.Written (valAddr n (base + j) 0) 1 →
      (resetSlots n base s).env n (base + j) = (s.env n (base + j)).construct (s.cell (valAddr n (base + j) 0))) ∧
    (resetSlots n base s).lfo n (base + j) = (s.lfo n (base + j)).restart := by
  have hcell : ∀ {P : Part → Prop} {u : State} k, Within n P nowhere s u → s.Written (valAddr n k 0) 1 →
      u.cell (valAddr n k 0) = s.cell (valAddr n k 0) := by
    intro P u k w hw
    have h0 := hw 0 (by decide)
    rw [Nat.mul_zero, Nat.add_zero] at h0
    obtain ⟨x, hx⟩ := Option.isSome_iff_exists.1 h0
    rw [cell_of_word? hx, cell_of_word? ((w.word? fun _ _ => id).trans hx)]
  have w1 := within_resetSlot (n := n) (k := base) s
  have w2 := within_resetSlot (n := n) (k := base + 1) (resetSlot n base s)
  have w3 := within_resetSlot (n := n) (k := base + 2) (resetSlot n (base + 1) (resetSlot n base s))
  rw [resetSlots_eq]
  have hj : j = 0 ∨ j = 1 ∨ j = 2 := by omega
  rcases hj with rfl | rfl | rfl
  · rw [Nat.add_zero, w3.env (by simp [sourceParts]), w3.lfo (by simp [sourceParts]), w2.env (by simp [sourceParts]),
      w2.lfo (by simp [sourceParts]), env_resetSlot s hn (by omega), lfo_resetSlot s hn (by omega)]
    exact ⟨fun _ => rfl, rfl⟩
  · rw [w3.env (by simp [sourceParts]), w3.lfo (by simp [sourceParts]), env_resetSlot _ hn (by omega),
      lfo_resetSlot _ hn (by omega), w1.env (by simp [sourceParts]), w1.lfo (by simp [sourceParts])]
    exact ⟨fun h => by rw [hcell _ w1 h], rfl⟩
  · have w12 : Within n (fun _ => True) nowhere s (resetSlot n (base + 1) (resetSlot n base s)) :=
      (w1.mono (fun _ _ => trivial) fun _ h => h).trans (w2.mono (fun _ _ => trivial) fun _ h => h)
    rw [env_resetSlot _ hn (by omega), lfo_resetSlot _ hn (by omega), w2.env (by simp [sourceParts]),
      w2.lfo (by simp [sourceParts]), w1.env (by simp [sourceParts]), w1.lfo (by simp [sourceParts])]
    exact ⟨fun h => by rw [hcell _ w12 h], rfl⟩

end

/-! ## The commands -/

theorem advance_env (s : State) (n k : Nat) : s.advance.env n k = s.env n k ∧ s.advance.lfo n k = s.lfo n k ∧
    s.advance.err = s.err := ⟨rfl, rfl, rfl⟩

theorem exec_envReset (n : Byte) (k : Nat) (s : State) (hn : n.toNat < 16) (hk : k < 27) :
    exec (.envReset n (BitVec.ofNat 8 k)) s = .next (envReset n.toNat k s).advance := by
  have hk' := toNat_ofNat_byte hk
  have ok : (noteIndexOk n && slotIndexOk (BitVec.ofNat 8 k)) = true := by
    simp [noteIndexOk, slotIndexOk, hk', hn, hk]
  simp only [exec, execEnvReset, ranged, ok, if_true, index, hk']

theorem exec_lfoReset (n : Byte) (k : Nat) (s : State) (hn : n.toNat < 16) (hk : k < 27) :
    exec (.lfoReset n (BitVec.ofNat 8 k)) s = .next (lfoReset n.toNat k s).advance := by
  have hk' := toNat_ofNat_byte hk
  have ok : (noteIndexOk n && slotIndexOk (BitVec.ofNat 8 k)) = true := by
    simp [noteIndexOk, slotIndexOk, hk', hn, hk]
  simp only [exec, execLfoReset, ranged, ok, if_true, index, hk']

theorem exec_fltCleanup (n : Byte) (f : Nat) (s : State) (hn : n.toNat < 16) (hf : f < 18) :
    exec (.fltCleanup n (BitVec.ofNat 8 f)) s = .next (cleanup n.toNat f s).advance := by
  have hf' : (BitVec.ofNat 8 f).toNat = f := by rw [BitVec.toNat_ofNat]; omega
  have ok : (noteIndexOk n && filterIndexOk (BitVec.ofNat 8 f)) = true := by
    simp [noteIndexOk, filterIndexOk, hf', hn, hf]
  simp only [exec, execFltCleanup, ranged, ok, if_true, index, hf']

theorem exec_oscPrepare (o : Nat) (s : State) (ho : o < 16) :
    exec (.oscPrepare (BitVec.ofNat 8 o)) s = .next (oscPrepare o s).advance := by
  have ho' : (BitVec.ofNat 8 o).toNat = o := by rw [BitVec.toNat_ofNat]; omega
  have ok : oscIndexOk (BitVec.ofNat 8 o) = true := by simp [oscIndexOk, ho', ho]
  simp only [exec, execOscPrepare, ranged, ok, if_true, index, ho']

theorem exec_oscGet (n : Byte) (o v : Nat) (sel useres : Bool) (freq : Nat) (s : State) (hn : n.toNat < 16) (ho : o < 16)
    (hv : v < 8) (hq : freq ≤ 4294967295) :
    exec (.oscGet (BitVec.ofNat 8 o) n (BitVec.ofNat 3 v) sel useres (BitVec.ofNat 32 freq)) s =
      .next (oscGetCmd o n.toNat v sel useres freq s).advance := by
  have ho' : (BitVec.ofNat 8 o).toNat = o := by rw [BitVec.toNat_ofNat]; omega
  have hv' : (BitVec.ofNat 3 v).toNat = v := by rw [BitVec.toNat_ofNat]; omega
  have ok : (oscIndexOk (BitVec.ofNat 8 o) && noteIndexOk n && voiceIndexOk (BitVec.ofNat 3 v)) = true := by
    simp [oscIndexOk, noteIndexOk, voiceIndexOk, ho', hv', hn, ho, hv]
  simp only [exec, execOscGet, ranged, ok, if_true, index, ho', hv', freqOperand, toNat_freq hq]

theorem flagsOf_envReset (n : Byte) (k : Nat) (s : State) (hn : n.toNat < 16) (hk : k < 27) :
    s.flagsOf (.envReset n (BitVec.ofNat 8 k)) = (s.env n.toNat k).resetFlags :=
  flagsOf_eq (exec_envReset n k _ hn hk) (err_envReset _)

theorem flagsOf_lfoReset (n : Byte) (k : Nat) (s : State) (hn : n.toNat < 16) (hk : k < 27) :
    s.flagsOf (.lfoReset n (BitVec.ofNat 8 k)) = (s.lfo n.toNat k).resetFlags :=
  flagsOf_eq (exec_lfoReset n k _ hn hk) (err_lfoReset _)

theorem flagsOf_fltCleanup (n : Byte) (f : Nat) (s : State) (hn : n.toNat < 16) (hf : f < 18) :
    s.flagsOf (.fltCleanup n (BitVec.ofNat 8 f)) = flag (s.flt n.toNat f).stagesBad .cfg :=
  flagsOf_eq (exec_fltCleanup n f _ hn hf) (err_cleanup _)

theorem err_setRes0_advance (u : State) (a : Word) : (u.setRes0 a).advance.err = u.err := rfl

/-- OSC.PREPARE raises the flags of a preparation where it prepares (R186). -/
theorem flagsOf_oscPrepare (o : Nat) (s : State) (ho : o < 16) :
    s.flagsOf (.oscPrepare (BitVec.ofNat 8 o)) = if s.unsettled o then prepFlags s o else 0 := by
  refine flagsOf_eq (exec_oscPrepare o _ ho) ?_
  have hosc : ({ s with err := 0 } : State).osc o = s.osc o := rfl
  unfold oscPrepare State.unsettled
  rw [hosc]
  cases (s.osc o).dirty with
  | false => exact (BitVec.or_zero ..).symm
  | true =>
    cases (s.osc o).job with
    | some j => exact (BitVec.or_zero ..).symm
    | none =>
      simp only [Bool.not_true, Bool.false_eq_true, if_false, Option.isSome_none, Option.isNone_none, Bool.and_true, if_true]
      rw [err_setRes0_advance, err_syncPrepare]
      rfl

/-- OSC.GET from a settled oscillator, as a command (R188). -/
theorem oscGet_outcome (n : Byte) (o v : Nat) (sel useres : Bool) (freq : Nat) (s : State) (hn : n.toNat < 16) (ho : o < 16)
    (hv : v < 8) (hq : freq ≤ 4294967295) (hs : s.unsettled o = false) : let D := deliveryOf s o n.toNat useres freq
    ∃ w, exec (.oscGet (BitVec.ofNat 8 o) n (BitVec.ofNat 3 v) sel useres (BitVec.ofNat 32 freq)) s = .next w ∧
      w.cells (vwaveAddr n.toNat v sel) 1024 = D.words ∧ w.res0.toNat = D.off ∧ (w.note n.toNat).rng = D.rng ∧
      w.err = s.err ||| D.err := by
  intro D
  have h := delivers_oscGet hn o v sel useres freq s hs
  have hk : ∀ (u : State) a b, (u.setRes a b).advance.res0 = a ∧ (u.setRes a b).advance.err = u.err ∧
      (u.setRes a b).advance.note n.toNat = u.note n.toNat ∧
      ∀ c m, (u.setRes a b).advance.cells c m = u.cells c m := fun _ _ _ => ⟨rfl, rfl, rfl, fun _ _ => rfl⟩
  refine ⟨_, exec_oscGet n o v sel useres freq s hn ho hv hq, ?_, ?_, ?_, ?_⟩ <;> unfold oscGetCmd <;> dsimp only
  · rw [(hk _ _ _).2.2.2, h.words]
  · have hlt : D.off < 1024 := delivery_off_lt _ _ _ _ _ _ _
    rw [(hk _ _ _).1, h.off, BitVec.toNat_ofNat]
    exact Nat.mod_eq_of_lt (lt_trans hlt (by decide))
  · rw [(hk _ _ _).2.2.1, h.note]
  · rw [(hk _ _ _).2.1, h.err]

theorem deliveryOf_clearErr (s : State) (o n : Nat) (useres : Bool) (freq : Nat) :
    deliveryOf { s with err := 0 } o n useres freq = deliveryOf s o n useres freq := rfl

theorem flagsOf_oscGet (n : Byte) (o v : Nat) (sel useres : Bool) (freq : Nat) (s : State) (hn : n.toNat < 16) (ho : o < 16)
    (hv : v < 8) (hq : freq ≤ 4294967295) (hs : s.unsettled o = false) :
    s.flagsOf (.oscGet (BitVec.ofNat 8 o) n (BitVec.ofNat 3 v) sel useres (BitVec.ofNat 32 freq)) =
      (deliveryOf s o n.toNat useres freq).err := by
  obtain ⟨w, hw, _, _, _, he⟩ := oscGet_outcome n o v sel useres freq { s with err := 0 } hn ho hv hq hs
  rw [flagsOf_eq hw he, deliveryOf_clearErr]

theorem deliveryOf_setRng (s : State) (o n : Nat) (useres : Bool) (freq : Nat) (r : Word) (hn : n < 16) :
    deliveryOf (s.setRng n r) o n useres freq = delivery (s.osc o) s.ctl useres freq
      (s.cells (specAddr o (s.osc o).pubsel) 1024) (s.cells (waveAddr o (s.osc o).pubsel) 1024) r := by
  unfold deliveryOf
  rw [note_setRng _ _ hn, (setRng_keeps s r 0 0).2.2.1, (setRng_keeps s r 0 0).2.2.2, (setRng_keeps s r _ _).1,
    (setRng_keeps s r _ _).1]

end Sys2Proof.Machine
end

section
/-! PROOFS. What a stretch of NOTE.INIT may change (R311 to R317): parts and bytes of the voices it goes over, oscillators
that it prepares, the note's generator, flags that only rise. -/

namespace Sys2Proof.Machine

/-- The parts of a voice that NOTE.INIT constructs (R311). -/
def initParts (v : Nat) : Part → Prop := fun p => (p = .voice v ∨ p = .created v) ∨
  (∃ j, j < 3 ∧ (p = .env (3 + 3 * v + j) ∨ p = .lfo (3 + 3 * v + j))) ∨ p = .flt (2 + 2 * v) ∨ p = .flt (3 + 2 * v)

/-- The parts that a stretch of NOTE.INIT from `s` over the voices `V` may change. -/
def spanParts (V : Nat → Prop) (s : State) : Part → Prop := fun p => (p = .undef ∨ p = .budget ∨ p = .head) ∨
  (∃ v, V v ∧ initParts v p) ∨ ∃ o, o < 16 ∧ s.unsettled o = true ∧ p = .osc o

/-- The bytes that it may store to. -/
def spanBytes (n : Nat) (V : Nat → Prop) (s : State) : Nat → Prop := fun x =>
  (∃ v, V v ∧ v < 8 ∧ voiceBytes n v x) ∨ ∃ o, o < 16 ∧ s.unsettled o = true ∧ bankBytes o (!(s.osc o).pubsel) x

/-- A stretch of NOTE.INIT over the voices `V`. -/
structure Span (n : Nat) (V : Nat → Prop) (s t : State) : Prop where
  within : Within n (spanParts V s) (spanBytes n V s) s t
  oscs : ∀ o, t.osc o = s.osc o ∨ s.unsettled o = true ∧ t.osc o = (s.osc o).prepared
  head : (t.note n).head = { (s.note n).head with rng := (t.note n).rng }
  banks : s.BanksWritten → t.BanksWritten
  err : ∀ i, s.err.getLsbD i = true → t.err.getLsbD i = true
  prep : ∀ o, o < 16 → s.unsettled o = true → t.unsettled o = false → ∀ i, i ≠ 3 ∨ s.Written (hmagAddr o) 256 →
    (prepFlags s o).getLsbD i = true → t.err.getLsbD i = true

theorem Osc.prepared_dirty (x : Osc) : x.prepared.dirty = false := rfl

/-- An oscillator that a stretch leaves unsettled was not changed by it. -/
theorem unsettled_of_oscs {s t : State} {o : Nat} (h : t.osc o = s.osc o ∨ s.unsettled o = true ∧ t.osc o = (s.osc o).prepared)
    (hu : t.unsettled o = true) : t.osc o = s.osc o ∧ s.unsettled o = true := by
  rcases h with h | ⟨_, h⟩
  · exact ⟨h, by rwa [State.unsettled, ← h]⟩
  · rw [State.unsettled, h, Osc.prepared_dirty] at hu
    cases hu

/-- The bytes of an oscillator's harmonic tables are no voice's and no bank's (R52, R54, R65). -/
theorem tables_apart {n o x : Nat} (ho : o < 16) (hx : wordsAt (hmagAddr o) 256 x) :
    (∀ v, ¬ voiceBytes n v x) ∧ ∀ q b, q < 16 → ¬ bankBytes q b x := by
  simp only [wordsAt, hmagAddr, oscBase] at hx
  constructor
  · intro v h
    simp only [voiceBytes, voiceBase, noteBase] at h
    omega
  · intro q b hq h
    simp only [bankBytes, wordsAt, specAddr, waveAddr] at h
    cases b <;> simp at h <;> omega

theorem bank_voice_apart {n v o x : Nat} {b : Bool} (ho : o < 16) (h : bankBytes o b x) : ¬ voiceBytes n v x := by
  intro hv
  simp only [bankBytes, wordsAt, specAddr, waveAddr, voiceBytes, voiceBase, noteBase] at h hv
  cases b <;> simp at h <;> omega

/-- Written cells read alike in states with the same bytes. -/
theorem cells_of_written {s t : State} {a m : Nat} (h : s.Written a m)
    (hb : ∀ x, wordsAt a m x → t.mem.byte? x = s.mem.byte? x) : t.cells a m = s.cells a m := by
  rw [cells_eq, cells_eq]
  refine List.map_congr_left fun i hi => ?_
  have hi' := List.mem_range.1 hi
  obtain ⟨w, hw⟩ := Option.isSome_iff_exists.1 (h i hi')
  have ht : t.mem.word? (a + 4 * i) = s.mem.word? (a + 4 * i) :=
    word?_congr t.mem s.mem _ fun x h1 h2 => hb x ⟨by omega, by omega⟩
  rw [cell_of_word? hw, cell_of_word? (ht.trans hw)]

/-- The flags of a preparation depend on the registers and, for ERR.SAT, on the written tables. -/
theorem prepFlags_congr {s t : State} {o i : Nat} (ho : t.osc o = s.osc o)
    (hb : ∀ x, wordsAt (hmagAddr o) 256 x → t.mem.byte? x = s.mem.byte? x) (hi : i ≠ 3 ∨ s.Written (hmagAddr o) 256) :
    (prepFlags t o).getLsbD i = (prepFlags s o).getLsbD i := by
  unfold prepFlags
  rw [ho, BitVec.getLsbD_or, BitVec.getLsbD_or, getLsbD_flag, getLsbD_flag, getLsbD_flag]
  rcases hi with hi | hw
  · simp only [ErrBit.pos, hi, decide_false, Bool.and_false]
  · have h1 : t.cells (hmagAddr o) 128 = s.cells (hmagAddr o) 128 :=
      cells_of_written (hw.mono ⟨0, rfl, by decide⟩) fun x hx => hb x (by simp only [wordsAt] at *; omega)
    have h2 : t.cells (hphaseAddr o) 128 = s.cells (hphaseAddr o) 128 :=
      cells_of_written (hw.mono ⟨128, by simp only [hphaseAddr, hmagAddr], by decide⟩) fun x hx => hb x (by
        simp only [wordsAt, hphaseAddr, hmagAddr] at *; omega)
    unfold preparedSpectrum
    rw [ho, h1, h2]

section
variable {n : Nat} {V : Nat → Prop} {s t u : State}

theorem Span.refl (s : State) : Span n V s s where
  within := .refl s
  oscs _ := .inl rfl
  head := rfl
  banks h := h
  err _ h := h
  prep _ _ h k := by rw [h] at k; cases k

/-- A stretch leaves harmonic tables alone. -/
theorem Span.tables (h : Span n V s t) {o : Nat} (ho : o < 16) (x : Nat) (hx : wordsAt (hmagAddr o) 256 x) :
    t.mem.byte? x = s.mem.byte? x := by
  obtain ⟨h1, h2⟩ := tables_apart (n := n) ho hx
  refine h.within.bytes x ?_
  rintro (⟨v, _, _, hv⟩ | ⟨q, hq, _, hb⟩)
  · exact h1 v hv
  · exact h2 q _ hq hb

theorem Span.written_tables (h : Span n V s t) {o : Nat} (ho : o < 16) (hw : s.Written (hmagAddr o) 256) :
    t.Written (hmagAddr o) 256 := fun i hi => by
  rw [word?_congr t.mem s.mem _ fun x h1 h2 => h.tables ho x ⟨by omega, by omega⟩]
  exact hw i hi

theorem Span.trans (h : Span n V s t) (k : Span n V t u) : Span n V s u where
  within := by
    refine h.within.trans (k.within.mono ?_ ?_)
    · rintro p (hp | hp | ⟨o, ho, hu, hp⟩)
      · exact .inl hp
      · exact .inr (.inl hp)
      · exact .inr (.inr ⟨o, ho, (unsettled_of_oscs (h.oscs o) hu).2, hp⟩)
    · rintro x (hx | ⟨o, ho, hu, hx⟩)
      · exact .inl hx
      · obtain ⟨he, hs⟩ := unsettled_of_oscs (h.oscs o) hu
        exact .inr ⟨o, ho, hs, he ▸ hx⟩
  oscs o := by
    rcases k.oscs o with hk | ⟨hu, hk⟩
    · rw [hk]; exact h.oscs o
    · obtain ⟨he, hs⟩ := unsettled_of_oscs (h.oscs o) hu
      exact .inr ⟨hs, by rw [hk, he]⟩
  head := by rw [k.head, h.head]
  banks hb := k.banks (h.banks hb)
  err i hi := k.err i (h.err i hi)
  prep o ho hs hu i hi hf := by
    cases ht : t.unsettled o with
    | false => exact k.err i (h.prep o ho hs ht i hi hf)
    | true =>
      have he := (unsettled_of_oscs (h.oscs o) ht).1
      refine k.prep o ho ht hu i (hi.imp_right (h.written_tables ho)) ?_
      rw [prepFlags_congr he (h.tables ho) hi]
      exact hf

/-- The same over more voices. -/
theorem Span.mono {W : Nat → Prop} (h : Span n V s t) (hV : ∀ v, V v → W v) : Span n W s t where
  within := h.within.mono
    (fun _ hp => hp.imp_right fun hp => hp.imp_left fun ⟨v, hv, hp⟩ => ⟨v, hV v hv, hp⟩)
    fun _ hx => hx.imp_left fun ⟨v, hv, hx⟩ => ⟨v, hV v hv, hx⟩
  oscs := h.oscs
  head := h.head
  banks := h.banks
  err := h.err
  prep := h.prep

/-- Updates that leave the oscillators alone. -/
theorem Span.of_within {P : Part → Prop} {A : Nat → Prop} (h : Within n P A s t) (hP : ∀ p, P p → (p = .undef ∨ p = .budget ∨
    p = .head) ∨ ∃ v, V v ∧ initParts v p) (hA : ∀ x, A x → ∃ v, V v ∧ v < 8 ∧ voiceBytes n v x)
    (hh : (t.note n).head = { (s.note n).head with rng := (t.note n).rng })
    (he : ∀ i, s.err.getLsbD i = true → t.err.getLsbD i = true) : Span n V s t := by
  have hosc : ∀ o, t.osc o = s.osc o := fun o => h.osc fun ho => by
    rcases hP _ ho with h | ⟨v, _, h⟩
    · simp at h
    · simp [initParts] at h
  refine ⟨h.mono (fun p hp => (hP p hp).imp_right .inl) fun x hx => .inl (hA x hx), fun o => .inl (hosc o), hh, ?_, he, ?_⟩
  · refine h.banksWritten (fun o ho => ?_) fun o b x ho hb hx => ?_
    · rcases hP _ ho with h | ⟨v, _, h⟩
      · simp at h
      · simp [initParts] at h
    · obtain ⟨v, _, _, hv⟩ := hA x hx
      exact bank_voice_apart ho hb hv
  · intro o _ hs hu
    rw [State.unsettled, hosc o] at hu
    rw [State.unsettled, hu] at hs
    cases hs

theorem err_mono {a b c : BitVec 8} (h : b = a ||| c) (i : Nat) (hi : a.getLsbD i = true) : b.getLsbD i = true := by
  rw [h, BitVec.getLsbD_or, hi, Bool.true_or]

theorem err_tableSelect (o : Nat) (s : State) : (tableSelect o s).err =
    s.err ||| if s.unsettled o then prepFlags s o else 0 := by
  cases h : s.unsettled o with
  | true => rw [tableSelect_unsettled h, err_syncPrepare, if_pos rfl]
  | false => rw [tableSelect_settled h, if_neg (by decide)]; exact (BitVec.or_zero ..).symm

theorem tableSelect_note (o : Nat) (s : State) (m : Nat) : (tableSelect o s).note m = s.note m := by
  have hw : ∀ (u : State) b S, (writeBank o b S u).note m = u.note m := fun _ _ _ => rfl
  have ho : ∀ (u : State) x, (u.setOsc o x).note m = u.note m := fun _ _ => rfl
  have hf : ∀ (u : State) c d a k, (((u.touch a k).setErrIf c .cfg).noteSat d).note m = u.note m := fun _ _ _ _ _ => rfl
  cases h : s.unsettled o with
  | true => rw [tableSelect_unsettled h, syncPrepare_eq, ho, hw, hf]
  | false => rw [tableSelect_settled h]

/-- Table selection is a stretch over no voice (R189). -/
theorem span_tableSelect (o : Nat) (ho : o < 16) (s : State) : Span n V s (tableSelect o s) where
  within := (within_tableSelect o s).mono
    (fun p ⟨hs, hp⟩ => hp.elim (fun hp => .inl (.inl hp)) fun hp => .inr (.inr ⟨o, ho, hs, hp⟩))
    fun x ⟨hs, hx⟩ => .inr ⟨o, ho, hs, hx⟩
  oscs q := by
    cases hs : s.unsettled o with
    | false => rw [tableSelect_settled hs]; exact .inl rfl
    | true =>
      by_cases hq : q = o
      · subst hq
        rw [tableSelect_unsettled hs]
        exact .inr ⟨hs, osc_syncPrepare q s ho⟩
      · exact .inl ((within_tableSelect (n := 0) o s).osc (by simp [hq]))
  head := by rw [tableSelect_note]; rfl
  banks := banksWritten_tableSelect ho
  err i hi := err_mono (err_tableSelect o s) i hi
  prep q hq hs hu i _ hf := by
    by_cases hqo : q = o
    · subst hqo
      rw [err_tableSelect, hs, if_pos rfl, BitVec.getLsbD_or, hf, Bool.or_true]
    · have he : (tableSelect o s).osc q = s.osc q := (within_tableSelect (n := 0) o s).osc (by simp [hqo])
      rw [State.unsettled, he] at hu
      rw [State.unsettled, hu] at hs
      cases hs

/-- A settled oscillator and its banks stay (R187). -/
theorem Span.settled (h : Span n V s t) {o : Nat} (ho : o < 16) (hs : s.unsettled o = false) : t.osc o = s.osc o ∧
    ∀ b x, bankBytes o b x → t.mem.byte? x = s.mem.byte? x := by
  refine ⟨(h.oscs o).resolve_right fun hc => ?_, fun b x hb => h.within.bytes x ?_⟩
  · rw [hs] at hc; cases hc.1
  · rintro (⟨v, _, _, hv⟩ | ⟨q, hq, hu, hx⟩)
    · exact bank_voice_apart ho hb hv
    · obtain ⟨rfl, _⟩ := bankBytes_apart hb hx ho hq
      rw [hs] at hu; cases hu

/-- The delivery of a settled oscillator stays what it was (R188). -/
theorem Span.delivery (h : Span n V s t) {o : Nat} (ho : o < 16) (hs : s.unsettled o = false) (hb : s.BanksWritten)
    (useres : Bool) (freq : Nat) (r : Word) (hn : n < 16) (hr : (s.note n).rng = r) :
    deliveryOf (t.setRng n r) o n useres freq = deliveryOf s o n useres freq := by
  obtain ⟨he, hbytes⟩ := h.settled ho hs
  rw [deliveryOf_setRng _ _ _ _ _ _ hn, deliveryOf, he, h.within.ctl, hr]
  refine delivery_congr _ _ _ _ _ _ _ _ _ fun hv => ?_
  obtain ⟨h1, h2⟩ := hb o ho hv
  exact ⟨cells_of_written h1 fun x hx => hbytes _ x (.inl hx), cells_of_written h2 fun x hx => hbytes _ x (.inr hx)⟩

end

end Sys2Proof.Machine
end

section
/-! PROOFS. Cells that NOTE.INIT has written, and the first half of a voice's construction (R311 to R315): the budget, the
latched topology and unison size, the resets and the cleanups. -/

namespace Sys2Proof.Machine

/-! ## Written cells -/

/-- Every byte that holds a value goes on holding one. -/
def Grows (s t : State) : Prop := ∀ x, (s.mem.byte? x).isSome = true → (t.mem.byte? x).isSome = true

theorem word?_isSome_iff (m : Mem) (a : Nat) : (m.word? a).isSome = true ↔
    ∀ x, a ≤ x → x < a + 4 → (m.byte? x).isSome = true := by
  constructor
  · intro h x h1 h2
    have hx : x = a ∨ x = a + 1 ∨ x = a + 2 ∨ x = a + 3 := by omega
    unfold Mem.word? at h
    split at h
    · next e0 e1 e2 e3 => rcases hx with rfl | rfl | rfl | rfl <;> simp [*]
    · cases h
  · intro h
    obtain ⟨b0, h0⟩ := Option.isSome_iff_exists.1 (h a (by omega) (by omega))
    obtain ⟨b1, h1⟩ := Option.isSome_iff_exists.1 (h (a + 1) (by omega) (by omega))
    obtain ⟨b2, h2⟩ := Option.isSome_iff_exists.1 (h (a + 2) (by omega) (by omega))
    obtain ⟨b3, h3⟩ := Option.isSome_iff_exists.1 (h (a + 3) (by omega) (by omega))
    simp only [Mem.word?, h0, h1, h2, h3, Option.isSome_some]

section
variable {s t u : State}

theorem Grows.refl (s : State) : Grows s s := fun _ h => h

theorem Grows.trans (h : Grows s t) (k : Grows t u) : Grows s u := fun x hx => k x (h x hx)

theorem Grows.written (h : Grows s t) {a m : Nat} (hw : s.Written a m) : t.Written a m := fun i hi =>
  (word?_isSome_iff _ _).2 fun x h1 h2 => h x ((word?_isSome_iff _ _).1 (hw i hi) x h1 h2)

theorem grows_setCells (s : State) (a : Nat) (ws : List Word) : Grows s (s.setCells a ws) := fun x hx => by
  rw [setCells_mem, byte?_splice]
  split
  · next h => simp only [List.getElem?_eq_getElem (show x - a < (bytesOf ws).length by omega), Option.isSome_some]
  · exact hx

theorem grows_setCell (s : State) (a : Nat) (w : Word) : Grows s (s.setCell a w) := by
  rw [setCell_eq]; exact grows_setCells s a [w]

theorem written_setCell (s : State) (a : Nat) (w : Word) : (s.setCell a w).Written a 1 := by
  rw [setCell_eq]; exact written_setCells s a [w]

theorem grows_foldl {f : State → Nat → State} (hf : ∀ k u, Grows u (f u k)) (l : List Nat) (u : State) :
    Grows u (l.foldl f u) := by
  induction l generalizing u with
  | nil => exact .refl u
  | cons j l ih => exact (hf j u).trans (ih _)

/-- Stores one after the other: what one of them writes is written after all of them. -/
theorem written_foldl {f : State → Nat → State} (hf : ∀ k u, Grows u (f u k)) {a m k : Nat}
    (hw : ∀ u, (f u k).Written a m) (l : List Nat) (hk : k ∈ l) (s : State) : (l.foldl f s).Written a m := by
  induction l generalizing s with
  | nil => cases hk
  | cons j l ih =>
    rcases List.mem_cons.1 hk with rfl | hk
    · exact (grows_foldl hf l _).written (hw s)
    · exact ih hk _

theorem grows_setPhase (n v k : Nat) (hi lo : UniField) (p : Nat) (s : State) : Grows s (s.setPhase n v k hi lo p) :=
  (grows_setCell s _ _).trans (grows_setCell _ _ _)

theorem written_setUni (s : State) (n v k : Nat) (f : UniField) (ws : List Word) (hk : k < ws.length) :
    (s.setUni n v f ws).Written (uniAddr n v k + f.offset) 1 := by
  have hm := List.mem_range.2 hk
  unfold State.setUni
  generalize List.range ws.length = l at hm
  have hg := fun j u => grows_setCell u (uniAddr n v j + f.offset) (ws.getD j 0)
  exact written_foldl hg (fun u => written_setCell u (uniAddr n v k + f.offset) (ws.getD k 0)) l hm s

theorem written_setPhase (n v k : Nat) (hi lo : UniField) (p : Nat) (s : State) :
    (s.setPhase n v k hi lo p).Written (uniAddr n v k + hi.offset) 1 ∧
      (s.setPhase n v k hi lo p).Written (uniAddr n v k + lo.offset) 1 :=
  ⟨(grows_setCell _ _ _).written (written_setCell s _ _), written_setCell _ _ _⟩

theorem written_setPhases (s : State) (n v k : Nat) (hi lo : UniField) (ps : List Nat) (hk : k < ps.length) :
    (s.setPhases n v hi lo ps).Written (uniAddr n v k + hi.offset) 1 ∧
      (s.setPhases n v hi lo ps).Written (uniAddr n v k + lo.offset) 1 := by
  have hm := List.mem_range.2 hk
  unfold State.setPhases
  generalize List.range ps.length = l at hm
  have hg := fun j u => grows_setPhase n v j hi lo (ps.getD j 0) u
  have hw := fun u => written_setPhase n v k hi lo (ps.getD k 0) u
  exact ⟨written_foldl hg (fun u => (hw u).1) l hm s, written_foldl hg (fun u => (hw u).2) l hm s⟩

/-- A written cell reads alike in states with the same bytes. -/
theorem cell_of_written {a : Nat} (h : s.Written a 1) (hb : ∀ x, wordsAt a 1 x → t.mem.byte? x = s.mem.byte? x) :
    t.cell a = s.cell a := by
  obtain ⟨w, hw⟩ := Option.isSome_iff_exists.1 (h 0 (by decide))
  rw [Nat.mul_zero, Nat.add_zero] at hw
  have ht : t.mem.word? a = s.mem.word? a := word?_congr _ _ _ fun x h1 h2 => hb x ⟨h1, by omega⟩
  rw [cell_of_word? hw, cell_of_word? (ht.trans hw)]

/-- A phase whose two cells are written and stay. -/
theorem phase_of_written {n v k : Nat} {hi lo : UniField} (h1 : s.Written (uniAddr n v k + hi.offset) 1)
    (h2 : s.Written (uniAddr n v k + lo.offset) 1)
    (b1 : ∀ x, wordsAt (uniAddr n v k + hi.offset) 1 x → t.mem.byte? x = s.mem.byte? x)
    (b2 : ∀ x, wordsAt (uniAddr n v k + lo.offset) 1 x → t.mem.byte? x = s.mem.byte? x) :
    t.phase n v k hi lo = s.phase n v k hi lo := by
  unfold State.phase
  rw [cell_of_written h1 b1, cell_of_written h2 b2]

end

/-! ## The first half of a voice's construction -/

/-- A voice whose topology and unison size are latched (R311 to R315). -/
def Voice.taken (y : Voice) (topo : Nat) : Voice :=
  { y with created := true, first := true, finished := false, topo := BitVec.ofNat 3 topo, modext := y.ctrlModext,
           usize := validUnison y.unisize }

/-- The state before the waveforms of voice v are fetched (R311 to R315). -/
def builtVoice (n v : Nat) (s : State) : State :=
  cleanup n (3 + 2 * v) (cleanup n (2 + 2 * v) (resetSlots n (3 + 3 * v) (latchVoice n v (takeVoice n v s))))

/-- The flags raised so far (R314, R315, R234, R256, R291). -/
def builtFlags (n v : Nat) (s : State) : BitVec 8 :=
  let y := s.voice n v
  flag (validTopology (s.note n) v y != y.ctrlTopo || validUnison y.unisize != y.unisize) .cfg |||
    (slotsFlags s n (3 + 3 * v) |||
      flag ((s.flt n (2 + 2 * v)).stagesBad || (s.flt n (3 + 2 * v)).stagesBad) .cfg)

/-- The validated topology of a voice looks at the voices below it only (R314). -/
theorem validTopology_congr {x z : Note} {v : Nat} {y y' : Voice} (hy : y'.vctrl = y.vctrl)
    (h : ∀ w, w < v → (z.voice w).created = (x.voice w).created ∧ (z.voice w).vctrl = (x.voice w).vctrl) :
    validTopology z v y' = validTopology x v y := by
  have e1 : y'.ctrlTopo = y.ctrlTopo := by unfold Voice.ctrlTopo; rw [hy]
  have e2 : y'.ctrlModext = y.ctrlModext := by unfold Voice.ctrlModext; rw [hy]
  have e3 : y'.modvoice = y.modvoice := by unfold Voice.modvoice; rw [hy]
  unfold validTopology
  rw [e1, e2, e3]
  rcases Nat.lt_or_ge y.modvoice v with hw | hw
  · obtain ⟨hc, hv⟩ := h _ hw
    have hd : (z.voice y.modvoice).dest = (x.voice y.modvoice).dest := by unfold Voice.dest; rw [hv]
    rw [hc, hd]
  · simp only [hw, true_or]

section
variable (n v : Nat) (s : State)

theorem within_takeVoice : Within n (fun p => p = .budget ∨ p = .voice v ∨ p = .created v) nowhere s (takeVoice n v s) :=
  (within_nvoices _ (.inl rfl) s).trans (within_modVoice v _ _ (.inl (.inr (.inl rfl))) (.inl (.inr (.inr rfl))))

theorem within_latchVoice : Within n (fun p => p = .voice v) nowhere s (latchVoice n v s) :=
  (within_setErrIf _ _ s).trans (within_setVoice v _ _ (.inl rfl) (.inr rfl))

theorem within_builtVoice : Within n (fun p => (p = .undef ∨ p = .budget) ∨ initParts v p) nowhere s (builtVoice n v s) := by
  have w1 := (within_takeVoice n v s).mono (Q := fun p => (p = .undef ∨ p = .budget) ∨ initParts v p)
    (fun p hp => hp.imp .inr .inl) fun _ h => h
  have w2 := (within_latchVoice n v (takeVoice n v s)).mono (Q := fun p => (p = .undef ∨ p = .budget) ∨ initParts v p)
    (fun p hp => .inr (.inl (.inl hp))) fun _ h => h
  have w3 := (within_resetSlots n (3 + 3 * v) (latchVoice n v (takeVoice n v s))).mono
    (Q := fun p => (p = .undef ∨ p = .budget) ∨ initParts v p)
    (fun p hp => hp.imp .inl fun h => .inr (.inl h)) fun _ h => h
  have w4 := fun f hf u => (within_cleanup n f u).mono (Q := fun p => (p = .undef ∨ p = .budget) ∨ initParts v p)
    (fun p hp => .inr (.inr (.inr (hp ▸ hf)))) fun _ h => h
  exact (((w1.trans w2).trans w3).trans (w4 _ (.inl rfl) _)).trans (w4 _ (.inr rfl) _)

theorem nvoices_builtVoice : (builtVoice n v s).nvoices = s.nvoices + 1 := by
  have w3 := (within_resetSlots n (3 + 3 * v) (latchVoice n v (takeVoice n v s))).budget (by simp [sourcesParts])
  have w2 := (within_latchVoice n v (takeVoice n v s)).budget (by simp)
  have w1 : (takeVoice n v s).nvoices = s.nvoices + 1 := rfl
  rw [builtVoice, (within_cleanup n _ _).budget (by simp), (within_cleanup n _ _).budget (by simp), w3, w2, w1]

theorem err_latchVoice : (latchVoice n v s).err = s.err ||| flag (validTopology (s.note n) v (s.voice n v) !=
    (s.voice n v).ctrlTopo || validUnison (s.voice n v).unisize != (s.voice n v).unisize) .cfg := by
  have h : ∀ (u : State) y, (u.setVoice n v y).err = u.err := fun _ _ => rfl
  unfold latchVoice
  rw [h, err_setErrIf]

variable (hn : n < 16) (hv : v < 8)
include hn hv

theorem voice_takeVoice : (takeVoice n v s).voice n v =
    { s.voice n v with created := true, first := true, finished := false } := voice_modVoice _ n v _ hn hv

theorem validTopology_takeVoice : validTopology ((takeVoice n v s).note n) v ((takeVoice n v s).voice n v) =
    validTopology (s.note n) v (s.voice n v) := by
  refine validTopology_congr (by rw [voice_takeVoice n v s hn hv]) fun w hw => ?_
  have h : (takeVoice n v s).voice n w = s.voice n w :=
    (within_takeVoice n v s).voice (by simp; omega) (by simp; omega)
  rw [State.voice, State.voice] at h
  rw [h]
  exact ⟨rfl, rfl⟩

theorem voice_builtVoice : (builtVoice n v s).voice n v =
    (s.voice n v).taken (validTopology (s.note n) v (s.voice n v)) := by
  have w := within_resetSlots n (3 + 3 * v) (latchVoice n v (takeVoice n v s))
  rw [builtVoice, (within_cleanup n _ _).voice (by simp) (by simp), (within_cleanup n _ _).voice (by simp) (by simp),
    w.voice (by simp [sourcesParts]) (by simp [sourcesParts]), latchVoice]
  rw [voice_setVoice _ n v _ hn hv, validTopology_takeVoice n v s hn hv, voice_takeVoice n v s hn hv]
  rfl

theorem err_builtVoice : (builtVoice n v s).err = s.err ||| builtFlags n v s := by
  have w1 := within_takeVoice n v s
  have w2 := within_latchVoice n v (takeVoice n v s)
  have w3 := within_resetSlots n (3 + 3 * v) (latchVoice n v (takeVoice n v s))
  have w4 := within_cleanup n (2 + 2 * v) (resetSlots n (3 + 3 * v) (latchVoice n v (takeVoice n v s)))
  have henv : ∀ k, (latchVoice n v (takeVoice n v s)).env n k = s.env n k := fun k =>
    (w2.env (by simp)).trans (w1.env (by simp))
  have hlfo : ∀ k, (latchVoice n v (takeVoice n v s)).lfo n k = s.lfo n k := fun k =>
    (w2.lfo (by simp)).trans (w1.lfo (by simp))
  have hflt : ∀ k, (resetSlots n (3 + 3 * v) (latchVoice n v (takeVoice n v s))).flt n k = s.flt n k := fun k =>
    (w3.flt (by simp [sourcesParts])).trans ((w2.flt (by simp)).trans (w1.flt (by simp)))
  have htake : (takeVoice n v s).err = s.err := rfl
  have hy : ((takeVoice n v s).voice n v).ctrlTopo = (s.voice n v).ctrlTopo ∧
      ((takeVoice n v s).voice n v).unisize = (s.voice n v).unisize := by
    rw [voice_takeVoice n v s hn hv]; exact ⟨rfl, rfl⟩
  have hslots : slotsFlags (latchVoice n v (takeVoice n v s)) n (3 + 3 * v) = slotsFlags s n (3 + 3 * v) := by
    simp only [slotsFlags, henv, hlfo]
  rw [builtVoice, err_cleanup, err_cleanup, err_resetSlots, err_latchVoice, htake,
    validTopology_takeVoice n v s hn hv, hy.1, hy.2, hslots, w4.flt (by simp), hflt, hflt, builtFlags, flag_or _ (Flt.stagesBad _)]
  simp only [BitVec.or_assoc]

/-- The sources and filters of a voice after their resets and cleanups. -/
theorem slots_builtVoice (j : Nat) (hj : j < 3) :
    (s.Written (valAddr n (3 + 3 * v + j) 0) 1 → (builtVoice n v s).env n (3 + 3 * v + j) =
      (s.env n (3 + 3 * v + j)).construct (s.cell (valAddr n (3 + 3 * v + j) 0))) ∧
    (builtVoice n v s).lfo n (3 + 3 * v + j) = (s.lfo n (3 + 3 * v + j)).restart := by
  have w12 : Within n (fun p => p = .budget ∨ p = .voice v ∨ p = .created v) nowhere s (latchVoice n v (takeVoice n v s)) :=
    (within_takeVoice n v s).trans ((within_latchVoice n v _).mono (fun _ h => .inr (.inl h)) fun _ h => h)
  obtain ⟨he, hl⟩ := resetSlots_slots n (3 + 3 * v) (latchVoice n v (takeVoice n v s)) hn (by omega) j hj
  rw [builtVoice, (within_cleanup n _ _).env (by simp), (within_cleanup n _ _).env (by simp),
    (within_cleanup n _ _).lfo (by simp), (within_cleanup n _ _).lfo (by simp), hl, w12.lfo (by simp)]
  rw [w12.env (by simp), w12.cell (w12.undef (by simp)) fun _ _ => id] at he
  exact ⟨fun hw => he (w12.written hw fun _ _ => id), rfl⟩

theorem flt_builtVoice (f : Nat) (hf : f = 2 + 2 * v ∨ f = 3 + 2 * v) :
    (builtVoice n v s).flt n f = (s.flt n f).clear := by
  have hflt : ∀ k, (resetSlots n (3 + 3 * v) (latchVoice n v (takeVoice n v s))).flt n k = s.flt n k := fun k =>
    ((within_resetSlots n (3 + 3 * v) _).flt (by simp [sourcesParts])).trans
      (((within_latchVoice n v _).flt (by simp)).trans ((within_takeVoice n v s).flt (by simp)))
  rw [builtVoice]
  rcases hf with rfl | rfl
  · rw [(within_cleanup n _ _).flt (by simp), flt_cleanup _ hn (by omega), hflt]
  · rw [flt_cleanup _ hn (by omega), (within_cleanup n _ _).flt (by simp), hflt]

end

end Sys2Proof.Machine
end

section
/-! PROOFS. The second half of a voice's construction (R311, R316, R317): how NOTE.INIT fetches a waveform, and the phases
and ratios that it stores. -/

namespace Sys2Proof.Machine

/-! ## Fetching a waveform -/

theorem Voice.carrier_lt (y : Voice) : y.carrier < 16 := BitVec.isLt _

theorem Voice.modulator_lt (y : Voice) : y.modulator < 16 := BitVec.isLt _

/-- The state from which a waveform for pitch `p` is taken: the pitch is noted, the table selected (R189, R316). -/
def fetchTable (o : Nat) (p : Sat Int) (s : State) : State := tableSelect o (s.noteSat p.sat)

/-- What is delivered then (R188). -/
def fetched (o n : Nat) (useres : Bool) (p : Sat Int) (s : State) : Delivery :=
  deliveryOf (fetchTable o p s) o n useres (exp2 p.val)

/-- The fetch of a voice's waveform (R316, R317). -/
def fetch (o n v : Nat) (sel useres : Bool) (p : Sat Int) (s : State) : GetOut :=
  oscGet o n v sel useres (exp2 p.val) (s.noteSat p.sat)

/-- The flags that it raises. -/
def fetchFlags (o n : Nat) (useres : Bool) (p : Sat Int) (s : State) : BitVec 8 :=
  flag p.sat .sat ||| ((if s.unsettled o then prepFlags s o else 0) ||| (fetched o n useres p s).err)

/-- The bytes that a fetch may store to. -/
def fetchBytes (n v : Nat) (sel : Bool) : Nat → Prop := fun x =>
  wordsAt (vwaveAddr n v sel) 1024 x ∨ ∃ o b, o < 16 ∧ bankBytes o b x

theorem vwave_voice {n v x : Nat} {sel : Bool} (h : wordsAt (vwaveAddr n v sel) 1024 x) : voiceBytes n v x := by
  simp only [wordsAt, vwaveAddr, voiceBytes] at *
  split at h <;> omega

theorem vwave_apart {n v x : Nat} {sel : Bool} (h : wordsAt (vwaveAddr n v sel) 1024 x) :
    voiceBase n v + 0x3000 ≤ x ∧ ¬ wordsAt (vwaveAddr n v !sel) 1024 x := by
  simp only [wordsAt, vwaveAddr] at *
  cases sel <;> simp at h ⊢ <;> omega

/-- A cell of a sub-voice record is not stored to by a fetch. -/
theorem record_not_fetchBytes {n v k x : Nat} {f : UniField} {sel : Bool} (hk : k < 64)
    (h : wordsAt (uniAddr n v k + f.offset) 1 x) : ¬ fetchBytes n v sel x := by
  have hb := fieldBytes_voice ⟨k, hk, h⟩
  rintro (hw | ⟨o, b, ho, hx⟩)
  · have := (vwave_apart hw).1; omega
  · exact bank_voice_apart (n := n) (v := v) ho hx ⟨by omega, by omega⟩

/-- The other waveform of the voice is not stored to by a fetch. -/
theorem vwave_not_fetchBytes {n v x : Nat} {sel : Bool} (h : wordsAt (vwaveAddr n v sel) 1024 x) :
    ¬ fetchBytes n v (!sel) x := by
  rintro (hw | ⟨o, b, ho, hx⟩)
  · exact (vwave_apart h).2 hw
  · exact bank_voice_apart ho hx (vwave_voice h)

/-- A waveform is no part of the sub-voice records. -/
theorem vwave_not_fieldsBytes {n v x : Nat} {sel : Bool} {F : UniField → Prop} (h : wordsAt (vwaveAddr n v sel) 1024 x) :
    ¬ fieldsBytes n v F x := by
  rintro ⟨f, _, hf⟩
  have := fieldBytes_voice hf
  have := (vwave_apart h).1
  omega

section
variable {n v : Nat} {sel : Bool} {D : Delivery} {u : State} {g : GetOut}

theorem head_of_rng {w x z : Note} {a b : Word} (hx : x = { w with rng := a }) (hz : z = { w with rng := b }) :
    x.head = { z.head with rng := x.rng } := by subst hx hz; rfl

/-- A delivery is a stretch over its voice. -/
theorem Delivers.span (h : Delivers n v sel D u g) (hv : v < 8) : Span n (· = v) u g.st := by
  refine .of_within h.within (fun p hp => .inl (hp.imp_right .inr)) (fun x hx => ⟨v, rfl, hv, vwave_voice hx⟩) ?_
    fun i => err_mono h.err i
  rw [h.note]
  rfl

end

section
variable (o n v : Nat) (sel useres : Bool) (p : Sat Int) (s : State)

theorem noteSat_keeps (b : Bool) : (∀ m, (s.noteSat b).note m = s.note m) ∧ (s.noteSat b).unsettled o = s.unsettled o ∧
    prepFlags (s.noteSat b) o = prepFlags s o := ⟨fun _ => rfl, rfl, rfl⟩

theorem note_fetchTable (m : Nat) : (fetchTable o p s).note m = s.note m :=
  (tableSelect_note o _ m).trans ((noteSat_keeps o s _).1 m)

theorem err_fetchTable : (fetchTable o p s).err =
    s.err ||| (flag p.sat .sat ||| if s.unsettled o then prepFlags s o else 0) := by
  rw [fetchTable, err_tableSelect, (noteSat_keeps o s _).2.1, (noteSat_keeps o s _).2.2, err_noteSat, BitVec.or_assoc]

variable (ho : o < 16)
include ho

theorem span_fetchTable {V : Nat → Prop} : Span n V s (fetchTable o p s) :=
  (Span.of_within (P := fun _ => False) (A := nowhere) (within_noteSat _ s) (fun _ h => h.elim) (fun _ h => h.elim) rfl fun i =>
    err_mono (err_noteSat s _) i).trans (span_tableSelect o ho _)

theorem settled_fetchTable : (fetchTable o p s).unsettled o = false := unsettled_tableSelect o _ ho

variable (hn : n < 16)
include hn

theorem delivers_fetch : Delivers n v sel (fetched o n useres p s) (fetchTable o p s) (fetch o n v sel useres p s) := by
  rw [fetch, oscGet_tableSelect _ _ _ _ _ _ _ ho]
  exact delivers_oscGet hn o v sel useres _ _ (settled_fetchTable o p s ho)

theorem note_fetch : (fetch o n v sel useres p s).st.note n = { s.note n with rng := (fetched o n useres p s).rng } := by
  rw [(delivers_fetch o n v sel useres p s ho hn).note, note_fetchTable]

theorem err_fetch : (fetch o n v sel useres p s).st.err = s.err ||| fetchFlags o n useres p s := by
  rw [(delivers_fetch o n v sel useres p s ho hn).err, err_fetchTable, fetchFlags]
  simp only [BitVec.or_assoc]

theorem within_fetch : Within n (fun q => (q = .undef ∨ q = .head) ∨ q = .osc o) (fetchBytes n v sel) s
    (fetch o n v sel useres p s).st :=
  ((within_noteSat _ s).trans ((within_tableSelect o _).mono (fun _ h => h.2.imp .inl id)
    fun _ h => .inr ⟨o, _, ho, h.2⟩)).trans
      ((delivers_fetch o n v sel useres p s ho hn).within.mono (fun _ h => .inl h) fun _ h => .inl h)

theorem span_fetch (hv : v < 8) : Span n (· = v) s (fetch o n v sel useres p s).st :=
  (span_fetchTable o n p s ho).trans ((delivers_fetch o n v sel useres p s ho hn).span hv)

end

/-! ## Draws -/

/-- One step of a structural recursion on the number of draws, for any step function: `rfl` would compare the generator
states bit by bit. -/
theorem brecOn_succ {α : Type} (f : α → α) (F : (m : Nat) → Nat.below (motive := fun _ => α → α) m → α → α)
    (m : Nat) (r : α) (hF : ∀ b, F (m + 1) b r = b.1 (f r)) :
    Nat.brecOn (motive := fun _ => α → α) (m + 1) F r = Nat.brecOn (motive := fun _ => α → α) m F (f r) := hF _

theorem rngAfter_succ (m : Nat) (r : Word) : rngAfter (m + 1) r = rngAfter m (rngNext r) := by
  delta rngAfter
  refine brecOn_succ rngNext _ m r fun b => ?_
  rfl

theorem rngAfter_zero (r : Word) : rngAfter 0 r = r := rfl

theorem rngDraws_succ (m : Nat) (r : Word) : rngDraws (m + 1) r = rngNext r :: rngDraws m (rngNext r) := by rw [rngDraws]

theorem getD_rngDraws (m j : Nat) (r : Word) (h : j < m) : (rngDraws m r).getD j 0 = rngAfter (j + 1) r := by
  induction m generalizing j r with
  | zero => omega
  | succ m ih =>
    rw [rngDraws_succ, rngAfter_succ]
    generalize rngNext r = q at ih
    cases j with
    | zero => rw [List.getD_cons_zero, rngAfter_zero]
    | succ j => rw [List.getD_cons_succ]; exact ih j q (by omega)

theorem length_startIndices_of_pos (off cnt : Nat) (r : Word) (h : 0 < cnt) : (startIndices off cnt r).length = cnt := by
  rw [startIndices, List.length_cons, List.length_map, length_rngDraws]
  omega

/-- The start index of a sub-voice (R316). -/
def startIndex (off : Nat) (r : Word) (k : Nat) : Nat :=
  if k = 0 then off else (off + (rngAfter k r).toNat % 2147483648 / 2097152) % 1024

theorem getD_startIndices (off cnt k : Nat) (r : Word) (hoff : off < 1024) (hk : k < cnt) :
    (startIndices off cnt r).getD k 0 = startIndex off r k := by
  cases k with
  | zero => exact Nat.mod_eq_of_lt hoff
  | succ k =>
    have hd := getD_rngDraws (cnt - 1) k r (by omega)
    have hl : k < (rngDraws (cnt - 1) r).length := by rw [length_rngDraws]; omega
    rw [startIndices, List.getD_cons_succ, List.getD_eq_getElem?_getD, List.getElem?_map, List.getElem?_eq_getElem hl,
      startIndex, if_neg (Nat.succ_ne_zero k), ← hd, List.getD_eq_getElem?_getD, List.getElem?_eq_getElem hl]
    rfl

theorem startIndex_lt (off k : Nat) (r : Word) (hoff : off < 1024) : startIndex off r k < 1024 := by
  unfold startIndex
  split
  · exact hoff
  · exact Nat.mod_lt _ (by decide)

theorem getD_map_scale (l : List Nat) (k : Nat) : (l.map (· * 16777216)).getD k 0 = l.getD k 0 * 16777216 := by
  rw [List.getD_eq_getElem?_getD, List.getD_eq_getElem?_getD, List.getElem?_map]
  cases l[k]? <;> simp

/-! ## The carrier (R316) -/

section
variable (n v : Nat) (s : State)

/-- What the carrier's fetch delivers. -/
def carrierFetched : Delivery :=
  let y := s.voice n v
  fetched y.carrier n y.useres (carrierPitch (s.note n) y) s

/-- The flags of the carrier's fetch. -/
def carrierFlags : BitVec 8 :=
  let y := s.voice n v
  fetchFlags y.carrier n y.useres (carrierPitch (s.note n) y) s

/-- The phases that the carrier's start stores. -/
def carrierFields : UniField → Prop := fun f => f = .phhi ∨ f = .phlo ∨ f = .fmihi ∨ f = .fmilo

/-- The state after the carrier's fetch. -/
def carrierGot : GetOut :=
  let y := s.voice n v
  fetch y.carrier n v false y.useres (carrierPitch (s.note n) y) s

/-- The state after the carrier's fetch and draws. -/
def carrierDrawn : State := (carrierGot n v s).st.setRng n
  (rngAfter ((s.voice n v).usize.toNat - 1) ((carrierGot n v s).st.note n).rng)

theorem initCarrier_eq : initCarrier n v s = ((carrierDrawn n v s).setPhases n v .phhi .phlo
    ((startIndices (carrierGot n v s).off (s.voice n v).usize.toNat ((carrierGot n v s).st.note n).rng).map
      (· * 16777216))).setPhases n v .fmihi .fmilo (List.replicate (s.voice n v).usize.toNat 0) := rfl

theorem setPhases_note (hi lo : UniField) (ps : List Nat) (m : Nat) : (s.setPhases n v hi lo ps).note m = s.note m := by
  unfold State.setPhases
  generalize List.range ps.length = l
  induction l generalizing s with
  | nil => rfl
  | cons k l ih => exact ih _

variable (hn : n < 16)
include hn

theorem delivers_carrier : Delivers n v false (carrierFetched n v s)
    (fetchTable (s.voice n v).carrier (carrierPitch (s.note n) (s.voice n v)) s) (carrierGot n v s) :=
  delivers_fetch _ n v false _ _ s (Voice.carrier_lt _) hn

theorem note_carrierGot : (carrierGot n v s).st.note n = { s.note n with rng := (carrierFetched n v s).rng } :=
  note_fetch _ n v false _ _ s (Voice.carrier_lt _) hn

theorem note_initCarrier : (initCarrier n v s).note n =
    { s.note n with rng := rngAfter ((s.voice n v).usize.toNat - 1) (carrierFetched n v s).rng } := by
  rw [initCarrier_eq, setPhases_note, setPhases_note, carrierDrawn, note_setRng _ _ hn, note_carrierGot n v s hn]

theorem err_initCarrier : (initCarrier n v s).err = s.err ||| carrierFlags n v s := by
  rw [initCarrier_eq, err_setPhases, err_setPhases, carrierDrawn, (setRng_keeps _ _ 0 0).2.1]
  exact err_fetch _ n v false _ _ s (Voice.carrier_lt _) hn

omit hn in
theorem within_carrierStore (hu : (s.voice n v).usize.toNat ≤ 63) :
    Within n (fun p => p = .head) (fieldsBytes n v carrierFields) (carrierGot n v s).st (initCarrier n v s) := by
  rw [initCarrier_eq]
  have h1 := within_setPhases (n := n) (v := v) (P := fun p => p = .head) (A := fieldsBytes n v carrierFields) .phhi .phlo
    ((startIndices (carrierGot n v s).off (s.voice n v).usize.toNat ((carrierGot n v s).st.note n).rng).map (· * 16777216))
    (by rw [List.length_map]; exact (length_startIndices _ _ _).trans (by omega))
    (fun x hx => ⟨_, .inl rfl, hx⟩) (fun x hx => ⟨_, .inr (.inl rfl), hx⟩) (carrierDrawn n v s)
  have h2 := within_setPhases (n := n) (v := v) (P := fun p => p = .head) (A := fieldsBytes n v carrierFields) .fmihi .fmilo
    (List.replicate (s.voice n v).usize.toNat 0) (by rw [List.length_replicate]; omega)
    (fun x hx => ⟨_, .inr (.inr (.inl rfl)), hx⟩) (fun x hx => ⟨_, .inr (.inr (.inr rfl)), hx⟩)
  exact ((within_setRng (P := fun p => p = .head) rfl _ _).trans h1).trans (h2 _)

theorem within_initCarrier (hu : (s.voice n v).usize.toNat ≤ 63) :
    Within n (fun q => (q = .undef ∨ q = .head) ∨ q = .osc (s.voice n v).carrier)
      (fun x => fetchBytes n v false x ∨ fieldsBytes n v carrierFields x) s (initCarrier n v s) :=
  ((within_fetch _ n v false _ _ s (Voice.carrier_lt _) hn).mono (fun _ h => h) fun _ h => .inl h).trans
    ((within_carrierStore n v s hu).mono (fun _ h => .inl (.inr h)) fun _ h => .inr h)

theorem span_carrierStore (hv : v < 8) (hu : (s.voice n v).usize.toNat ≤ 63) :
    Span n (· = v) (carrierGot n v s).st (initCarrier n v s) := by
  refine .of_within (within_carrierStore n v s hu) (fun p hp => .inl (.inr (.inr hp))) (fun x hx => ?_)
    (head_of_rng (note_initCarrier n v s hn) (note_carrierGot n v s hn)) fun i hi => ?_
  · obtain ⟨f, _, hf⟩ := hx
    have := fieldBytes_voice hf
    exact ⟨v, rfl, hv, by unfold voiceBytes; omega⟩
  · rw [initCarrier_eq, err_setPhases, err_setPhases, carrierDrawn, (setRng_keeps _ _ 0 0).2.1]
    exact hi

theorem span_initCarrier (hv : v < 8) (hu : (s.voice n v).usize.toNat ≤ 63) : Span n (· = v) s (initCarrier n v s) :=
  (span_fetch _ n v false _ _ s (Voice.carrier_lt _) hn hv).trans (span_carrierStore n v s hn hv hu)

/-- The carrier's waveform after its start. -/
theorem vwave_initCarrier (hu : (s.voice n v).usize.toNat ≤ 63) :
    (initCarrier n v s).Written (vwaveAddr n v false) 1024 ∧
      (initCarrier n v s).cells (vwaveAddr n v false) 1024 = (carrierFetched n v s).words := by
  have hd := delivers_carrier n v s hn
  have hw := within_carrierStore n v s hu
  refine ⟨hw.written hd.written fun x hx => vwave_not_fieldsBytes hx, ?_⟩
  rw [cells_of_written hd.written fun x hx => hw.bytes x (vwave_not_fieldsBytes hx), hd.words]

end

/-- The phases after the carrier's start (R316). -/
theorem phases_initCarrier (n v : Nat) (s : State) (hn : n < 16) (k : Nat) (hk : k < (s.voice n v).usize.toNat) :
    (initCarrier n v s).phase n v k .phhi .phlo =
      startIndex (carrierFetched n v s).off (carrierFetched n v s).rng k * 16777216 ∧
    (initCarrier n v s).phase n v k .fmihi .fmilo = 0 := by
  have hoff : (carrierGot n v s).off < 1024 := by
    rw [(delivers_carrier n v s hn).off]; exact delivery_off_lt _ _ _ _ _ _ _
  have hl := length_startIndices_of_pos (carrierGot n v s).off (s.voice n v).usize.toNat
    ((carrierGot n v s).st.note n).rng (by omega)
  have hr : ((carrierGot n v s).st.note n).rng = (carrierFetched n v s).rng := by rw [note_carrierGot n v s hn]
  have hlt := startIndex_lt (carrierGot n v s).off k ((carrierGot n v s).st.note n).rng hoff
  rw [initCarrier_eq]
  constructor
  · rw [phase_setPhases_of_ne _ _ _ _ _ _ _ _ _ (by decide) (by decide), phase_setPhases _ _ _ _ _ _ _ (by decide)
      (by rw [List.length_map, hl]; exact hk), getD_map_scale, getD_startIndices _ _ _ _ hoff hk, hr,
      (delivers_carrier n v s hn).off]
    rw [getD_map_scale, getD_startIndices _ _ _ _ hoff hk]
    omega
  · rw [phase_setPhases _ _ _ _ _ _ _ (by decide) (by rw [List.length_replicate]; exact hk)]
    all_goals rw [List.getD_eq_getElem?_getD, List.getElem?_replicate, if_pos hk]
    · rfl
    · decide

/-- The cells of those phases are written. -/
theorem written_initCarrier (n v : Nat) (s : State) (k : Nat) (hk : k < (s.voice n v).usize.toNat) (f : UniField)
    (hf : carrierFields f) : (initCarrier n v s).Written (uniAddr n v k + f.offset) 1 := by
  have hl := length_startIndices_of_pos (carrierGot n v s).off (s.voice n v).usize.toNat
    ((carrierGot n v s).st.note n).rng (by omega)
  rw [initCarrier_eq]
  have h1 := written_setPhases (carrierDrawn n v s) n v k .phhi .phlo ((startIndices (carrierGot n v s).off
    (s.voice n v).usize.toNat ((carrierGot n v s).st.note n).rng).map (· * 16777216)) (by rw [List.length_map, hl]; exact hk)
  have hg : ∀ u, Grows u (u.setPhases n v .fmihi .fmilo (List.replicate (s.voice n v).usize.toNat 0)) := fun u =>
    grows_foldl (fun j u => grows_setPhase n v j _ _ _ u) _ u
  have h2 := fun u => written_setPhases u n v k .fmihi .fmilo (List.replicate (s.voice n v).usize.toNat 0)
    (by rw [List.length_replicate]; exact hk)
  rcases hf with rfl | rfl | rfl | rfl
  · exact (hg _).written h1.1
  · exact (hg _).written h1.2
  · exact (h2 _).1
  · exact (h2 _).2

/-! ## The modulator (R317) -/

section
variable (n v : Nat) (s : State)

/-- What the modulator's fetch delivers. -/
def modulatorFetched : Delivery :=
  let y := s.voice n v
  fetched y.modulator n false (modulatorPitch (s.note n) y) s

/-- The flags of the modulator's fetch. -/
def modulatorFlags : BitVec 8 :=
  let y := s.voice n v
  fetchFlags y.modulator n false (modulatorPitch (s.note n) y) s

/-- The state after the modulator's fetch. -/
def modulatorGot : GetOut :=
  let y := s.voice n v
  fetch y.modulator n v true false (modulatorPitch (s.note n) y) s

/-- The phases that the modulator's start stores. -/
def modulatorFields : UniField → Prop := fun f => f = .phmhi ∨ f = .phmlo

theorem ownModulator_iff (y : Voice) : y.ownModulator = true ↔ ¬ (y.topo = 0 ∨ y.modext = true) := by
  simp [Voice.ownModulator]

theorem initModulator_none (h : (s.voice n v).ownModulator = false) : initModulator n v s = s := by
  refine if_pos (by_contra fun hc => ?_)
  rw [(ownModulator_iff _).2 hc] at h
  cases h

theorem initModulator_own (h : (s.voice n v).ownModulator = true) : initModulator n v s =
    (modulatorGot n v s).st.setPhases n v .phmhi .phmlo ((List.range (s.voice n v).usize.toNat).map fun k =>
      ((modulatorGot n v s).off + (modulatorGot n v s).st.phase n v k .phhi .phlo / 16777216) % 1024 * 16777216) :=
  if_neg ((ownModulator_iff _).1 h)

variable (hn : n < 16)
include hn

theorem delivers_modulator : Delivers n v true (modulatorFetched n v s)
    (fetchTable (s.voice n v).modulator (modulatorPitch (s.note n) (s.voice n v)) s) (modulatorGot n v s) :=
  delivers_fetch _ n v true _ _ s (Voice.modulator_lt _) hn

theorem note_modulatorGot : (modulatorGot n v s).st.note n = { s.note n with rng := (modulatorFetched n v s).rng } :=
  note_fetch _ n v true _ _ s (Voice.modulator_lt _) hn

theorem note_initModulator (h : (s.voice n v).ownModulator = true) :
    (initModulator n v s).note n = { s.note n with rng := (modulatorFetched n v s).rng } := by
  rw [initModulator_own n v s h, setPhases_note, note_modulatorGot n v s hn]

theorem err_initModulator (h : (s.voice n v).ownModulator = true) :
    (initModulator n v s).err = s.err ||| modulatorFlags n v s := by
  rw [initModulator_own n v s h, err_setPhases]
  exact err_fetch _ n v true _ _ s (Voice.modulator_lt _) hn

omit hn in
theorem within_modulatorStore (h : (s.voice n v).ownModulator = true) :
    Within n (fun _ => False) (fieldsBytes n v modulatorFields) (modulatorGot n v s).st (initModulator n v s) := by
  have hu := (s.voice n v).usize.isLt
  rw [initModulator_own n v s h]
  exact within_setPhases _ _ _ (by rw [List.length_map, List.length_range]; omega) (fun x hx => ⟨_, .inl rfl, hx⟩)
    (fun x hx => ⟨_, .inr rfl, hx⟩) _

theorem within_initModulator :
    Within n (fun q => (q = .undef ∨ q = .head) ∨ q = .osc (s.voice n v).modulator)
      (fun x => fetchBytes n v true x ∨ fieldsBytes n v modulatorFields x) s (initModulator n v s) := by
  cases h : (s.voice n v).ownModulator with
  | false => rw [initModulator_none n v s h]; exact .refl s
  | true =>
    exact ((within_fetch _ n v true _ _ s (Voice.modulator_lt _) hn).mono (fun _ h => h) fun _ h => .inl h).trans
      ((within_modulatorStore n v s h).mono (fun _ h => h.elim) fun _ h => .inr h)

theorem span_modulatorStore (hv : v < 8) (h : (s.voice n v).ownModulator = true) :
    Span n (· = v) (modulatorGot n v s).st (initModulator n v s) := by
  refine .of_within (within_modulatorStore n v s h) (fun p hp => hp.elim) (fun x hx => ?_)
    (head_of_rng (note_initModulator n v s hn h) (note_modulatorGot n v s hn)) fun i hi => ?_
  · obtain ⟨f, _, hf⟩ := hx
    have := fieldBytes_voice hf
    exact ⟨v, rfl, hv, by unfold voiceBytes; omega⟩
  · rw [initModulator_own n v s h, err_setPhases]
    exact hi

theorem span_initModulator (hv : v < 8) : Span n (· = v) s (initModulator n v s) := by
  cases h : (s.voice n v).ownModulator with
  | false => rw [initModulator_none n v s h]; exact .refl s
  | true => exact (span_fetch _ n v true _ _ s (Voice.modulator_lt _) hn hv).trans (span_modulatorStore n v s hn hv h)

/-- The modulator's waveform after its start. -/
theorem vwave_initModulator (h : (s.voice n v).ownModulator = true) :
    (initModulator n v s).Written (vwaveAddr n v true) 1024 ∧
      (initModulator n v s).cells (vwaveAddr n v true) 1024 = (modulatorFetched n v s).words := by
  have hd := delivers_modulator n v s hn
  have hw := within_modulatorStore n v s h
  refine ⟨hw.written hd.written fun x hx => vwave_not_fieldsBytes hx, ?_⟩
  rw [cells_of_written hd.written fun x hx => hw.bytes x (vwave_not_fieldsBytes hx), hd.words]

/-- The modulator's phases after its start, from the carrier's that stand before it (R317). -/
theorem phases_initModulator (h : (s.voice n v).ownModulator = true) (k : Nat) (hk : k < (s.voice n v).usize.toNat)
    (h1 : s.Written (uniAddr n v k + UniField.phhi.offset) 1) (h2 : s.Written (uniAddr n v k + UniField.phlo.offset) 1) :
    ((initModulator n v s).phase n v k .phmhi .phmlo =
      ((modulatorFetched n v s).off + s.phase n v k .phhi .phlo / 16777216) % 1024 * 16777216) ∧
    (initModulator n v s).Written (uniAddr n v k + UniField.phmhi.offset) 1 ∧
    (initModulator n v s).Written (uniAddr n v k + UniField.phmlo.offset) 1 := by
  have hu := (s.voice n v).usize.isLt
  have hw := within_fetch _ n v true false (modulatorPitch (s.note n) (s.voice n v)) s (Voice.modulator_lt (s.voice n v)) hn
  have hp : (modulatorGot n v s).st.phase n v k .phhi .phlo = s.phase n v k .phhi .phlo :=
    phase_of_written h1 h2 (fun x hx => hw.bytes x (record_not_fetchBytes (by omega) hx)) fun x hx =>
      hw.bytes x (record_not_fetchBytes (by omega) hx)
  have hl : ∀ f : Nat → Nat, k < ((List.range (s.voice n v).usize.toNat).map f).length := fun f => by
    rw [List.length_map, List.length_range]; exact hk
  rw [initModulator_own n v s h]
  refine ⟨?_, written_setPhases _ _ _ _ _ _ _ (hl _)⟩
  have hget : ((List.range (s.voice n v).usize.toNat).map fun k =>
      ((modulatorGot n v s).off + (modulatorGot n v s).st.phase n v k .phhi .phlo / 16777216) % 1024 * 16777216).getD k 0 =
      ((modulatorFetched n v s).off + s.phase n v k .phhi .phlo / 16777216) % 1024 * 16777216 := by
    rw [getD_map_range _ _ _ _ hk, hp, (delivers_modulator n v s hn).off]
  rw [phase_setPhases _ _ _ _ _ _ _ (by decide) (hl _) (by rw [hget]; omega), hget]

end

/-! ## The ratios (R311) -/

section
variable (n v : Nat) (s : State)

/-- The state in which they are stored. -/
def ratiosRead : State := if (s.voice n v).usize = 1 then s else s.touchUni n v (s.voice n v).usize.toNat .rbase

theorem initRatios_eq : ∃ ws, ws.length = (s.voice n v).usize.toNat ∧
    initRatios n v s = (ratiosRead n v s).setUni n v .ratio ws ∧
    ((s.voice n v).usize = 1 → ws = [0x01000000]) ∧
    ((s.voice n v).usize ≠ 1 → ∀ k, k < (s.voice n v).usize.toNat → s.Written (uniAddr n v k) 1 →
      ws.getD k 0 = s.cell (uniAddr n v k)) := by
  unfold initRatios ratiosRead
  by_cases h : (s.voice n v).usize = 1
  · exact ⟨_, by rw [h]; rfl, by rw [if_pos h, if_pos h], fun _ => rfl, fun hc => absurd h hc⟩
  · refine ⟨_, ?_, by rw [if_neg h, if_neg h], fun hc => absurd hc h, fun _ k hk hw => ?_⟩
    · rw [List.length_map, List.length_range]
    · rw [getD_map_range _ _ _ _ hk]
      rfl

theorem within_ratiosRead : Within n (fun p => p = .undef) nowhere s (ratiosRead n v s) := by
  unfold ratiosRead
  split
  · exact .refl s
  · exact within_touchUni (P := fun p => p = .undef) _ _ rfl s

theorem within_initRatios : Within n (fun p => p = .undef) (fieldBytes n v .ratio) s (initRatios n v s) := by
  obtain ⟨ws, hl, he, _⟩ := initRatios_eq n v s
  have hu := (s.voice n v).usize.isLt
  rw [he]
  exact ((within_ratiosRead n v s).mono (fun _ h => h) fun _ h => h.elim).trans
    (within_setUni _ _ (by omega) (.inr fun _ h => h) _)

theorem err_initRatios : (initRatios n v s).err = s.err := by
  obtain ⟨ws, _, he, _⟩ := initRatios_eq n v s
  rw [he, err_setUni, ratiosRead]
  split
  · rfl
  · rw [err_touchUni]

theorem ratio_initRatios (k : Nat) (hk : k < (s.voice n v).usize.toNat) :
    (initRatios n v s).Written (uniAddr n v k + UniField.ratio.offset) 1 ∧
    ((s.voice n v).usize = 1 → (initRatios n v s).cell (uniAddr n v k + UniField.ratio.offset) = 0x01000000) ∧
    ((s.voice n v).usize ≠ 1 → s.Written (uniAddr n v k) 1 →
      (initRatios n v s).cell (uniAddr n v k + UniField.ratio.offset) = s.cell (uniAddr n v k)) := by
  obtain ⟨ws, hl, he, h1, h2⟩ := initRatios_eq n v s
  have hc : (initRatios n v s).cell (uniAddr n v k + UniField.ratio.offset) = ws.getD k 0 := by
    rw [he, uniCell_setUni, if_pos ⟨by omega, rfl⟩]
  refine ⟨by rw [he]; exact written_setUni _ _ _ _ _ _ (by omega), fun hu => ?_, fun hu hw => ?_⟩
  · have hk0 : k = 0 := by rw [hu] at hk; simpa using hk
    rw [hc, h1 hu, hk0]
    rfl
  · rw [hc, h2 hu k hk hw]

end

end Sys2Proof.Machine
end

section
/-! PROOFS. A voice that NOTE.INIT has constructed (R311 to R317): its registers, flags, waveforms, phases and ratios. -/

namespace Sys2Proof.Machine

theorem rng_of_head {x y : Note} (h : x.head = y.head) : x.rng = y.rng := (congrArg Note.rng h :)

theorem head_eq_with_rng {x y : Note} (h : x.head = y.head) : x.head = { y.head with rng := x.rng } := by
  rw [rng_of_head h, h]; rfl

section
variable (n v : Nat) (b : State)

/-! ## The stages -/

/-- The state after the carrier and the modulator of a voice, with its first amplitudes (R311). -/
def voicedState : State := (initModulator n v (initCarrier n v b)).modVoice n v Voice.startAmps

/-- The rest of the construction from the state in which the voice is latched and its sources are reset (R316, R317). -/
def soundVoice : State := initRatios n v (voicedState n v b)

/-- The flags of the fetches of a voice. -/
def soundFlags : BitVec 8 := carrierFlags n v b |||
  if (b.voice n v).ownModulator then modulatorFlags n v (initCarrier n v b) else 0

/-- The generator after a voice (R316, R317). -/
def soundRng : Word :=
  if (b.voice n v).ownModulator then (modulatorFetched n v (initCarrier n v b)).rng
  else rngAfter ((b.voice n v).usize.toNat - 1) (carrierFetched n v b).rng

theorem voiceBytes_record {k x : Nat} {f : UniField} (hk : k < 64) (h : wordsAt (uniAddr n v k + f.offset) 1 x) :
    voiceBytes n v x := by
  have := fieldBytes_voice ⟨k, hk, h⟩
  unfold voiceBytes
  omega

theorem ratio_voice {x : Nat} (h : fieldBytes n v .ratio x) : voiceBytes n v x := by
  obtain ⟨k, hk, h⟩ := h
  exact voiceBytes_record n v hk h

theorem voice_of_note {s t : State} (h : (t.note n).voices = (s.note n).voices) : t.voice n v = s.voice n v := by
  unfold State.voice Note.voice
  rw [h]

theorem head_modVoice (u : State) (f : Voice → Voice) : ((u.modVoice n v f).note n).head = (u.note n).head :=
  (within_modVoice (P := fun p => p = .voice v ∨ p = .created v) (A := nowhere) v f u (.inl (.inl rfl))
    (.inl (.inr rfl))).head (by simp)

variable (hn : n < 16)
include hn

theorem voice_initCarrier (w : Nat) : (initCarrier n v b).voice n w = b.voice n w :=
  voice_of_note n w (by rw [note_initCarrier n v b hn])

theorem voice_initModulator (w : Nat) : (initModulator n v b).voice n w = b.voice n w := by
  cases h : (b.voice n v).ownModulator with
  | false => rw [initModulator_none n v b h]
  | true => exact voice_of_note n w (by rw [note_initModulator n v b hn h])

theorem voice_voicedBefore : (initModulator n v (initCarrier n v b)).voice n v = b.voice n v := by
  rw [voice_initModulator n v _ hn, voice_initCarrier n v b hn]

theorem voice_voicedState (hv : v < 8) : (voicedState n v b).voice n v = (b.voice n v).startAmps := by
  rw [voicedState, voice_modVoice _ n v _ hn hv, voice_voicedBefore n v b hn]

theorem voice_soundVoice (hv : v < 8) : (soundVoice n v b).voice n v = (b.voice n v).startAmps := by
  rw [soundVoice, (within_initRatios n v _).voice (by simp) (by simp), voice_voicedState n v b hn hv]

/-- What follows the resets changes no source, no filter and no other voice. -/
theorem within_soundVoice (hu : (b.voice n v).usize.toNat ≤ 63) :
    Within n (fun q => ((q = .undef ∨ q = .head) ∨ q = .voice v) ∨ ∃ o, q = .osc o) (fun _ => True) b (soundVoice n v b) := by
  have w1 := (within_initCarrier n v b hn hu).mono (Q := fun q => ((q = .undef ∨ q = .head) ∨ q = .voice v) ∨ ∃ o, q = .osc o)
    (B := fun _ => True) (fun _ h => h.imp .inl fun h => ⟨_, h⟩) fun _ _ => trivial
  have w2 := (within_initModulator n v (initCarrier n v b) hn).mono
    (Q := fun q => ((q = .undef ∨ q = .head) ∨ q = .voice v) ∨ ∃ o, q = .osc o)
    (B := fun _ => True) (fun _ h => h.imp .inl fun h => ⟨_, h⟩) fun _ _ => trivial
  have w3 : Within n (fun q => ((q = .undef ∨ q = .head) ∨ q = .voice v) ∨ ∃ o, q = .osc o) (fun _ => True) _
      (voicedState n v b) := within_modVoice v Voice.startAmps _ (.inl (.inl (.inr rfl))) (.inr rfl)
  have w4 := (within_initRatios n v (voicedState n v b)).mono
    (Q := fun q => ((q = .undef ∨ q = .head) ∨ q = .voice v) ∨ ∃ o, q = .osc o)
    (B := fun _ => True) (fun _ h => .inl (.inl (.inl h))) fun _ _ => trivial
  exact ((w1.trans w2).trans w3).trans w4

theorem err_soundVoice : (soundVoice n v b).err = b.err ||| soundFlags n v b := by
  have hm : ∀ u : State, (u.modVoice n v Voice.startAmps).err = u.err := fun _ => rfl
  have hvoice := voice_initCarrier n v b hn v
  rw [soundVoice, err_initRatios, voicedState, hm, soundFlags]
  cases h : (b.voice n v).ownModulator with
  | false =>
    rw [initModulator_none n v _ (by rw [hvoice, h]), err_initCarrier n v b hn, if_neg (by decide)]
    exact congrArg (b.err ||| ·) (BitVec.or_zero ..).symm
  | true => rw [err_initModulator n v _ hn (by rw [hvoice, h]), err_initCarrier n v b hn, if_pos rfl, BitVec.or_assoc]

theorem rng_soundVoice : ((soundVoice n v b).note n).rng = soundRng n v b := by
  have h1 : ((soundVoice n v b).note n).rng = ((initModulator n v (initCarrier n v b)).note n).rng :=
    rng_of_head (((within_initRatios n v _).head (by simp)).trans (head_modVoice n v _ _))
  have hvoice := voice_initCarrier n v b hn v
  rw [h1, soundRng]
  cases h : (b.voice n v).ownModulator with
  | false => rw [initModulator_none n v _ (by rw [hvoice, h]), note_initCarrier n v b hn, if_neg (by decide)]
  | true => rw [note_initModulator n v _ hn (by rw [hvoice, h]), if_pos rfl]

omit hn in
/-- From the modulator's start on. -/
theorem span_afterModulator (hv : v < 8) : Span n (· = v) (initModulator n v (initCarrier n v b)) (soundVoice n v b) := by
  have hm : ∀ u : State, (u.modVoice n v Voice.startAmps).err = u.err := fun _ => rfl
  have s3 : Span n (· = v) (initModulator n v (initCarrier n v b)) (voicedState n v b) :=
    .of_within (P := fun p => p = .voice v ∨ p = .created v) (A := nowhere)
      (within_modVoice v _ _ (.inl (.inl rfl)) (.inl (.inr rfl))) (fun p hp => .inr ⟨v, rfl, .inl hp⟩) (fun _ h => h.elim)
      (head_eq_with_rng (head_modVoice n v _ _)) fun i hi => by rw [voicedState, hm]; exact hi
  exact s3.trans (.of_within (within_initRatios n v _) (fun p hp => .inl (.inl hp))
    (fun x hx => ⟨v, rfl, hv, ratio_voice n v hx⟩) (head_eq_with_rng ((within_initRatios n v _).head (by simp)))
      fun i hi => by rw [soundVoice, err_initRatios]; exact hi)

theorem span_soundVoice (hv : v < 8) (hu : (b.voice n v).usize.toNat ≤ 63) : Span n (· = v) b (soundVoice n v b) :=
  ((span_initCarrier n v b hn hv hu).trans (span_initModulator n v _ hn hv)).trans (span_afterModulator n v b hv)

/-- The state from which the carrier's waveform is taken. -/
def carrierTable : State := fetchTable (b.voice n v).carrier (carrierPitch (b.note n) (b.voice n v)) b

/-- The state from which the modulator's waveform is taken. -/
def modulatorTable : State :=
  let c := initCarrier n v b
  fetchTable (c.voice n v).modulator (modulatorPitch (c.note n) (c.voice n v)) c

theorem span_carrierTable (hv : v < 8) (hu : (b.voice n v).usize.toNat ≤ 63) :
    Span n (· = v) (carrierTable n v b) (soundVoice n v b) :=
  ((((delivers_carrier n v b hn).span hv).trans (span_carrierStore n v b hn hv hu)).trans
    (span_initModulator n v _ hn hv)).trans (span_afterModulator n v b hv)

theorem span_modulatorTable (hv : v < 8) (ho : (b.voice n v).ownModulator = true) :
    Span n (· = v) (modulatorTable n v b) (soundVoice n v b) :=
  (((delivers_modulator n v (initCarrier n v b) hn).span hv).trans
    (span_modulatorStore n v _ hn hv (by rw [voice_initCarrier n v b hn, ho]))).trans (span_afterModulator n v b hv)

end

end Sys2Proof.Machine
end

section
/-! PROOFS. The waveforms, phases and ratios of a voice that NOTE.INIT has constructed, in every state that keeps the
voice's bytes (R311, R316, R317). -/

namespace Sys2Proof.Machine

theorem validUnison_bounds (u : BitVec 6) : 1 ≤ (validUnison u).toNat ∧ (validUnison u).toNat ≤ 50 := by
  unfold validUnison
  split
  · decide
  · next h =>
    split
    · decide
    · have : u.toNat ≠ 0 := fun hc => h (BitVec.eq_of_toNat_eq hc)
      omega

/-- What the memory of a voice holds in `t`, where it was constructed from `b` (R311, R316, R317). -/
structure Sounded (n v : Nat) (b t : State) : Prop where
  carrier : t.cells (vwaveAddr n v false) 1024 = (carrierFetched n v b).words
  phase : ∀ k, k < (b.voice n v).usize.toNat → t.phase n v k .phhi .phlo =
    startIndex (carrierFetched n v b).off (carrierFetched n v b).rng k * 16777216
  integrator : ∀ k, k < (b.voice n v).usize.toNat → t.phase n v k .fmihi .fmilo = 0
  ratioOne : ∀ k, k < (b.voice n v).usize.toNat → (b.voice n v).usize = 1 →
    t.cell (uniAddr n v k + UniField.ratio.offset) = 0x01000000
  ratioBase : ∀ k, k < (b.voice n v).usize.toNat → (b.voice n v).usize ≠ 1 → b.Written (uniAddr n v k) 1 →
    t.cell (uniAddr n v k + UniField.ratio.offset) = b.cell (uniAddr n v k)
  modulator : (b.voice n v).ownModulator = true →
    t.cells (vwaveAddr n v true) 1024 = (modulatorFetched n v (initCarrier n v b)).words
  modPhase : (b.voice n v).ownModulator = true → ∀ k, k < (b.voice n v).usize.toNat → t.phase n v k .phmhi .phmlo =
    ((modulatorFetched n v (initCarrier n v b)).off + t.phase n v k .phhi .phlo / 16777216) % 1024 * 16777216

section
variable {n v : Nat} {b t : State} (hn : n < 16) (hu : (b.voice n v).usize.toNat ≤ 63)
  (ht : ∀ x, voiceBytes n v x → t.mem.byte? x = (soundVoice n v b).mem.byte? x)

theorem mem_voicedState : (voicedState n v b).mem = (initModulator n v (initCarrier n v b)).mem := rfl

include ht

/-- The bytes that the ratios leave alone. -/
theorem bytes_after_modulator {x : Nat} (hx : voiceBytes n v x) (hr : ¬ fieldBytes n v .ratio x) :
    t.mem.byte? x = (initModulator n v (initCarrier n v b)).mem.byte? x := by
  rw [ht x hx, soundVoice, (within_initRatios n v _).bytes x hr, mem_voicedState]

include hn

/-- The bytes that the modulator and the ratios leave alone. -/
theorem bytes_after_carrier {x : Nat} (hx : voiceBytes n v x) (hf : ¬ fetchBytes n v true x)
    (hm : ¬ fieldsBytes n v modulatorFields x) (hr : ¬ fieldBytes n v .ratio x) :
    t.mem.byte? x = (initCarrier n v b).mem.byte? x := by
  rw [bytes_after_modulator ht hx hr, (within_initModulator n v _ hn).bytes x (by rintro (h | h); exacts [hf h, hm h])]

/-- A cell of the carrier's phases after the whole construction. -/
theorem bytes_carrierFields {f : UniField} (hf : carrierFields f) {k x : Nat} (hk : k < 64)
    (hx : wordsAt (uniAddr n v k + f.offset) 1 x) : t.mem.byte? x = (initCarrier n v b).mem.byte? x := by
  refine bytes_after_carrier hn ht (voiceBytes_record n v hk hx) (record_not_fetchBytes hk hx) ?_ (fieldBytes_apart ?_ hx)
  · rintro ⟨g, hg, hb⟩
    refine fieldBytes_apart ?_ hx hb
    rintro rfl
    rcases hf with rfl | rfl | rfl | rfl <;> rcases hg with h | h <;> cases h
  · rintro rfl
    rcases hf with h | h | h | h <;> cases h

include hu

/-- The memory of a constructed voice. -/
theorem sounded (hv : v < 8) : Sounded n v b t := by
  have hvoice := voice_initCarrier n v b hn v
  have hphase : ∀ k, k < (b.voice n v).usize.toNat → t.phase n v k .phhi .phlo = (initCarrier n v b).phase n v k .phhi .phlo :=
    fun k hk => phase_of_written (written_initCarrier n v b k hk _ (.inl rfl))
      (written_initCarrier n v b k hk _ (.inr (.inl rfl))) (fun x hx => bytes_carrierFields hn ht (.inl rfl) (by omega) hx)
      fun x hx => bytes_carrierFields hn ht (.inr (.inl rfl)) (by omega) hx
  have hratio : ∀ k, k < (b.voice n v).usize.toNat →
      (soundVoice n v b).Written (uniAddr n v k + UniField.ratio.offset) 1 →
      t.cell (uniAddr n v k + UniField.ratio.offset) = (soundVoice n v b).cell (uniAddr n v k + UniField.ratio.offset) :=
    fun k hk hw => cell_of_written hw fun x hx => ht x (voiceBytes_record n v (by omega) hx)
  have husize : ((voicedState n v b).voice n v).usize = (b.voice n v).usize := by rw [voice_voicedState n v b hn hv]; rfl
  refine ⟨?_, fun k hk => ?_, fun k hk => ?_, fun k hk h1 => ?_, fun k hk h1 hw => ?_, fun ho => ?_, fun ho k hk => ?_⟩
  · obtain ⟨hw, hc⟩ := vwave_initCarrier n v b hn hu
    rw [cells_of_written hw fun x hx => bytes_after_carrier hn ht (vwave_voice hx) (vwave_not_fetchBytes hx)
      (vwave_not_fieldsBytes hx) fun h => vwave_not_fieldsBytes (F := (· = .ratio)) hx ⟨_, rfl, h⟩, hc]
  · rw [hphase k hk, (phases_initCarrier n v b hn k hk).1]
  · rw [← (phases_initCarrier n v b hn k hk).2]
    exact phase_of_written (written_initCarrier n v b k hk _ (.inr (.inr (.inl rfl))))
      (written_initCarrier n v b k hk _ (.inr (.inr (.inr rfl))))
      (fun x hx => bytes_carrierFields hn ht (.inr (.inr (.inl rfl))) (by omega) hx)
      fun x hx => bytes_carrierFields hn ht (.inr (.inr (.inr rfl))) (by omega) hx
  · obtain ⟨hw, h, _⟩ := ratio_initRatios n v (voicedState n v b) k (by rw [husize]; exact hk)
    rw [hratio k hk hw]
    exact h (husize.trans h1)
  · obtain ⟨hwr, _, h⟩ := ratio_initRatios n v (voicedState n v b) k (by rw [husize]; exact hk)
    have hbytes : ∀ x, wordsAt (uniAddr n v k) 1 x → (voicedState n v b).mem.byte? x = b.mem.byte? x := by
      intro x hx
      have hx' : wordsAt (uniAddr n v k + UniField.rbase.offset) 1 x := hx
      have hnot : ∀ F : UniField → Prop, ¬ F .rbase → ¬ fieldsBytes n v F x := by
        rintro F hF ⟨g, hg, hb⟩
        exact fieldBytes_apart (fun he : g = .rbase => hF (he ▸ hg)) hx' hb
      rw [mem_voicedState, (within_initModulator n v _ hn).bytes x, (within_initCarrier n v b hn hu).bytes x]
      · rintro (h | h)
        · exact record_not_fetchBytes (by omega) hx' h
        · exact hnot _ (by simp [carrierFields]) h
      · rintro (h | h)
        · exact record_not_fetchBytes (by omega) hx' h
        · exact hnot _ (by simp [modulatorFields]) h
    have hwritten : (voicedState n v b).Written (uniAddr n v k) 1 := fun i hi => by
      rw [word?_congr _ b.mem _ fun x h1 h2 => hbytes x ⟨by omega, by omega⟩]
      exact hw i hi
    rw [hratio k hk hwr, soundVoice, h (husize ▸ h1) hwritten, cell_of_written hw hbytes]
  · obtain ⟨hw, hc⟩ := vwave_initModulator n v (initCarrier n v b) hn (by rw [hvoice, ho])
    rw [cells_of_written hw fun x hx => bytes_after_modulator ht (vwave_voice hx) fun h =>
      vwave_not_fieldsBytes (F := (· = .ratio)) hx ⟨_, rfl, h⟩, hc]
  · obtain ⟨hp, hw1, hw2⟩ := phases_initModulator n v (initCarrier n v b) hn (by rw [hvoice, ho]) k (by rw [hvoice]; exact hk)
      (written_initCarrier n v b k hk _ (.inl rfl)) (written_initCarrier n v b k hk _ (.inr (.inl rfl)))
    have hb : ∀ f : UniField, f ≠ .ratio → ∀ x, wordsAt (uniAddr n v k + f.offset) 1 x →
        t.mem.byte? x = (initModulator n v (initCarrier n v b)).mem.byte? x := fun f hf x hx =>
      bytes_after_modulator ht (voiceBytes_record n v (by omega) hx) (fieldBytes_apart hf.symm hx)
    rw [hphase k hk, ← hp]
    exact phase_of_written hw1 hw2 (hb _ (by decide)) (hb _ (by decide))

end

end Sys2Proof.Machine
end

section
/-! PROOFS. The loop of NOTE.INIT over the voices (R311, R313): what one turn does, and the stretch between two turns. -/

namespace Sys2Proof.Machine

/-! ## Reading off a stretch -/

section
variable {n : Nat} {V : Nat → Prop} {s t : State}

theorem Span.env (h : Span n V s t) {k : Nat} (hk : ∀ v, V v → ¬ (3 + 3 * v ≤ k ∧ k < 6 + 3 * v)) :
    t.env n k = s.env n k := h.within.env <| by
  rintro (hp | ⟨v, hv, hp | ⟨j, hj, hp | hp⟩ | hp | hp⟩ | ⟨o, _, _, hp⟩) <;> simp at hp
  exact hk v hv (by omega)

theorem Span.lfo (h : Span n V s t) {k : Nat} (hk : ∀ v, V v → ¬ (3 + 3 * v ≤ k ∧ k < 6 + 3 * v)) :
    t.lfo n k = s.lfo n k := h.within.lfo <| by
  rintro (hp | ⟨v, hv, hp | ⟨j, hj, hp | hp⟩ | hp | hp⟩ | ⟨o, _, _, hp⟩) <;> simp at hp
  exact hk v hv (by omega)

theorem Span.flt (h : Span n V s t) {f : Nat} (hf : ∀ v, V v → ¬ (2 + 2 * v ≤ f ∧ f < 4 + 2 * v)) :
    t.flt n f = s.flt n f := h.within.flt <| by
  rintro (hp | ⟨v, hv, hp | ⟨j, hj, hp | hp⟩ | hp | hp⟩ | ⟨o, _, _, hp⟩) <;> simp at hp
  all_goals exact hf v hv (by omega)

theorem Span.voice (h : Span n V s t) {v : Nat} (hv : ¬ V v) : t.voice n v = s.voice n v := by
  refine h.within.voice ?_ ?_
  all_goals
    rintro (hp | ⟨w, hw, (hp | hp) | ⟨j, hj, hp | hp⟩ | hp | hp⟩ | ⟨o, _, _, hp⟩) <;> simp at hp
    exact hv (hp ▸ hw)

/-- The memory of a voice that a stretch does not go over. -/
theorem Span.voiceBytes (h : Span n V s t) {v x : Nat} (hv : ¬ V v) (hx : Machine.voiceBytes n v x) :
    t.mem.byte? x = s.mem.byte? x := h.within.bytes x <| by
  rintro (⟨w, hw, _, hb⟩ | ⟨o, ho, _, hb⟩)
  · exact hv (voiceBytes_unique hb hx ▸ hw)
  · exact bank_voice_apart ho hb hx

/-- The tables of the note's envelopes lie outside every stretch (R61). -/
theorem Span.tableBytes (h : Span n V s t) {x : Nat} (hx : Machine.tableBytes n x) : t.mem.byte? x = s.mem.byte? x :=
  h.within.bytes x <| by
  rintro (⟨w, _, _, hb⟩ | ⟨o, ho, _, hb⟩)
  · exact not_tableBytes_voiceBytes hb hx
  · simp only [bankBytes, wordsAt, specAddr, waveAddr, Machine.tableBytes, noteBase] at hb hx
    generalize ((s.osc o).pubsel).toNat = q at *
    cases h : (!(s.osc o).pubsel) <;> rw [h] at hb <;> simp at hb <;> omega

end

/-! ## One turn -/

/-- Voice v is created in its turn (R313). -/
def State.creates (s : State) (n v : Nat) : Bool := (s.voice n v).enabled && !s.budgetFull

/-- Voice v is dropped in its turn (R313). -/
def State.drops (s : State) (n v : Nat) : Bool := (s.voice n v).enabled && s.budgetFull

/-- The state of a voice's turn in which it is latched and its sources are reset. -/
def latched (n v : Nat) (s : State) : State := builtVoice n v (s.modVoice n v Voice.vacate)

/-- The flags of a voice's turn. -/
def turnFlags (n v : Nat) (s : State) : BitVec 8 :=
  if s.creates n v then builtFlags n v s ||| soundFlags n v (latched n v s) else flag (s.drops n v) .alloc

/-- The voice after its turn. -/
def turnedVoice (n v : Nat) (s : State) : Voice :=
  let y := s.voice n v
  if s.creates n v then (y.taken (validTopology (s.note n) v y)).startAmps else y.vacate

section
variable (n v : Nat) (s : State)

theorem within_vacate : Within n (fun p => p = .voice v ∨ p = .created v) nowhere s (s.modVoice n v Voice.vacate) :=
  within_modVoice v _ s (.inl (.inl rfl)) (.inl (.inr rfl))

theorem budgetFull_vacate : (s.modVoice n v Voice.vacate).budgetFull = s.budgetFull := rfl

theorem within_latched : Within n (fun p => (p = .undef ∨ p = .budget) ∨ initParts v p) nowhere s (latched n v s) :=
  ((within_vacate n v s).mono (fun _ h => .inr (.inl h)) fun _ h => h).trans (within_builtVoice n v _)

theorem span_vacate : Span n (· = v) s (s.modVoice n v Voice.vacate) :=
  .of_within (within_vacate n v s) (fun _ hp => .inr ⟨v, rfl, .inl hp⟩) (fun _ h => h.elim)
    (head_eq_with_rng (head_modVoice n v s _)) fun _ h => h

/-- The three kinds of turn. -/
theorem turn_cases : (s.creates n v = true ∧ s.drops n v = false ∧ (s.voice n v).enabled = true ∧ s.budgetFull = false) ∨
    (s.creates n v = false ∧ s.drops n v = true ∧ (s.voice n v).enabled = true ∧ s.budgetFull = true) ∨
    (s.creates n v = false ∧ s.drops n v = false ∧ (s.voice n v).enabled = false) := by
  unfold State.creates State.drops
  cases (s.voice n v).enabled <;> cases s.budgetFull <;> simp

variable (hn : n < 16) (hv : v < 8)
include hn hv

theorem voice_vacate : (s.modVoice n v Voice.vacate).voice n v = (s.voice n v).vacate := voice_modVoice s n v _ hn hv

theorem enabled_vacate : ((s.modVoice n v Voice.vacate).voice n v).enabled = (s.voice n v).enabled := by
  rw [voice_vacate n v s hn hv]; rfl

theorem initVoice_created (a : InitAcc) (hc : a.st.creates n v = true) :
    initVoice n a v = ⟨soundVoice n v (latched n v a.st), a.created + 1, a.dropped⟩ := by
  rw [State.creates, Bool.and_eq_true, Bool.not_eq_true'] at hc
  obtain ⟨he, hb⟩ := hc
  unfold initVoice
  dsimp only
  rw [enabled_vacate n v _ hn hv, budgetFull_vacate, he, hb, if_neg (by decide), if_neg (by decide)]
  rfl

theorem initVoice_dropped (a : InitAcc) (hd : a.st.drops n v = true) :
    initVoice n a v = ⟨(a.st.modVoice n v Voice.vacate).setErr .alloc, a.created, a.dropped + 1⟩ := by
  rw [State.drops, Bool.and_eq_true] at hd
  obtain ⟨he, hb⟩ := hd
  unfold initVoice
  dsimp only
  rw [enabled_vacate n v _ hn hv, budgetFull_vacate, he, hb, if_neg (by decide), if_pos rfl]

theorem initVoice_disabled (a : InitAcc) (he : (a.st.voice n v).enabled = false) :
    initVoice n a v = ⟨a.st.modVoice n v Voice.vacate, a.created, a.dropped⟩ := by
  unfold initVoice
  dsimp only
  rw [enabled_vacate n v _ hn hv, he, if_pos (by decide)]

theorem validTopology_vacate : validTopology ((s.modVoice n v Voice.vacate).note n) v
    ((s.modVoice n v Voice.vacate).voice n v) = validTopology (s.note n) v (s.voice n v) := by
  refine validTopology_congr (by rw [voice_vacate n v s hn hv]; rfl) fun w hw => ?_
  have h : (s.modVoice n v Voice.vacate).voice n w = s.voice n w :=
    (within_vacate n v s).voice (by simp; omega) (by simp; omega)
  rw [State.voice, State.voice] at h
  rw [h]
  exact ⟨rfl, rfl⟩

theorem voice_latched : (latched n v s).voice n v =
    (s.voice n v).taken (validTopology (s.note n) v (s.voice n v)) := by
  rw [latched, voice_builtVoice n v _ hn hv, validTopology_vacate n v s hn hv, voice_vacate n v s hn hv]
  rfl

theorem builtFlags_vacate : builtFlags n v (s.modVoice n v Voice.vacate) = builtFlags n v s := by
  have w := within_vacate n v s
  have hy : ((s.modVoice n v Voice.vacate).voice n v).ctrlTopo = (s.voice n v).ctrlTopo ∧
      ((s.modVoice n v Voice.vacate).voice n v).unisize = (s.voice n v).unisize := by
    rw [voice_vacate n v s hn hv]; exact ⟨rfl, rfl⟩
  have henv : ∀ k, (s.modVoice n v Voice.vacate).env n k = s.env n k := fun k => w.env (by simp)
  have hlfo : ∀ k, (s.modVoice n v Voice.vacate).lfo n k = s.lfo n k := fun k => w.lfo (by simp)
  simp only [builtFlags, validTopology_vacate n v s hn hv, hy, slotsFlags, henv, hlfo, w.flt (f := 2 + 2 * v) (by simp), w.flt (f := 3 + 2 * v) (by simp)]

theorem err_latched : (latched n v s).err = s.err ||| builtFlags n v s := by
  have h : (s.modVoice n v Voice.vacate).err = s.err := rfl
  rw [latched, err_builtVoice n v _ hn hv, builtFlags_vacate n v s hn hv, h]

theorem usize_latched : ((latched n v s).voice n v).usize.toNat ≤ 63 := by
  rw [voice_latched n v s hn hv]
  have h : ((s.voice n v).taken (validTopology (s.note n) v (s.voice n v))).usize = validUnison (s.voice n v).unisize := rfl
  have := (validUnison_bounds (s.voice n v).unisize).2
  rw [h]
  omega

theorem span_latched : Span n (· = v) s (latched n v s) :=
  .of_within (within_latched n v s) (fun p hp => hp.elim (fun h => .inl (h.imp id .inl)) fun h => .inr ⟨v, rfl, h⟩)
    (fun _ h => h.elim) (head_eq_with_rng ((within_latched n v s).head (by simp [initParts])))
    fun i => err_mono (err_latched n v s hn hv) i

/-- One turn is a stretch over its voice. -/
theorem span_initVoice (a : InitAcc) : Span n (· = v) a.st (initVoice n a v).st := by
  rcases turn_cases n v a.st with ⟨hc, _⟩ | ⟨_, hd, _⟩ | ⟨_, _, he⟩
  · rw [initVoice_created n v hn hv a hc]
    exact (span_latched n v _ hn hv).trans (span_soundVoice n v _ hn hv (usize_latched n v _ hn hv))
  · rw [initVoice_dropped n v hn hv a hd]
    refine (span_vacate n v _).trans (.of_within (P := fun _ => False) (A := nowhere)
      (.of_eq rfl rfl rfl rfl rfl rfl rfl) (fun _ h => h.elim) (fun _ h => h.elim) rfl fun i => err_mono rfl i)
  · rw [initVoice_disabled n v hn hv a he]
    exact span_vacate n v _

theorem voice_initVoice (a : InitAcc) : (initVoice n a v).st.voice n v = turnedVoice n v a.st := by
  have hset : ∀ (u : State) e, (u.setErr e).voice n v = u.voice n v := fun _ _ => rfl
  unfold turnedVoice
  dsimp only
  rcases turn_cases n v a.st with ⟨hc, _⟩ | ⟨hc, hd, _⟩ | ⟨hc, _, he⟩
  · rw [initVoice_created n v hn hv a hc, if_pos hc]
    dsimp only
    rw [voice_soundVoice n v _ hn hv, voice_latched n v _ hn hv]
  · rw [initVoice_dropped n v hn hv a hd, hc, if_neg (by decide)]
    dsimp only
    rw [hset, voice_vacate n v _ hn hv]
  · rw [initVoice_disabled n v hn hv a he, hc, if_neg (by decide)]
    exact voice_vacate n v _ hn hv

theorem err_initVoice (a : InitAcc) : (initVoice n a v).st.err = a.st.err ||| turnFlags n v a.st := by
  have hvac : (a.st.modVoice n v Voice.vacate).err = a.st.err := rfl
  have hset : ∀ (u : State), (u.setErr .alloc).err = u.err ||| flag true .alloc := fun _ => rfl
  unfold turnFlags
  rcases turn_cases n v a.st with ⟨hc, _⟩ | ⟨hc, hd, _⟩ | ⟨hc, hd, he⟩
  · rw [initVoice_created n v hn hv a hc, if_pos hc]
    dsimp only
    rw [err_soundVoice n v _ hn, err_latched n v _ hn hv, BitVec.or_assoc]
  · rw [initVoice_dropped n v hn hv a hd, hc, if_neg (by decide), hd]
    dsimp only
    rw [hset, hvac]
  · rw [initVoice_disabled n v hn hv a he, hc, if_neg (by decide), hd, flag_false]
    dsimp only
    rw [hvac]
    exact (BitVec.or_zero ..).symm

theorem rng_initVoice (a : InitAcc) : ((initVoice n a v).st.note n).rng =
    if a.st.creates n v then soundRng n v (latched n v a.st) else (a.st.note n).rng := by
  have hset : ∀ (u : State) e, (u.setErr e).note n = u.note n := fun _ _ => rfl
  have hvac : ((a.st.modVoice n v Voice.vacate).note n).rng = (a.st.note n).rng := rng_of_head (head_modVoice n v _ _)
  rcases turn_cases n v a.st with ⟨hc, _⟩ | ⟨hc, hd, _⟩ | ⟨hc, _, he⟩
  · rw [initVoice_created n v hn hv a hc, if_pos hc]
    exact rng_soundVoice n v _ hn
  · rw [initVoice_dropped n v hn hv a hd, hc, if_neg (by decide)]
    dsimp only
    rw [hset, hvac]
  · rw [initVoice_disabled n v hn hv a he, hc, if_neg (by decide)]
    exact hvac

/-- The budget after a turn (R313). -/
theorem budget_initVoice (a : InitAcc) : (initVoice n a v).st.nvoices = (if a.st.creates n v then a.st.nvoices + 1
      else a.st.nvoices) ∧
    (initVoice n a v).created = (if a.st.creates n v then a.created + 1 else a.created) ∧
    (initVoice n a v).dropped = (if a.st.drops n v then a.dropped + 1 else a.dropped) := by
  rcases turn_cases n v a.st with ⟨hc, hd, _⟩ | ⟨hc, hd, _⟩ | ⟨hc, hd, he⟩
  · have hb := (within_soundVoice n v (latched n v a.st) hn (usize_latched n v _ hn hv)).budget (by simp)
    rw [initVoice_created n v hn hv a hc, hc, hd]
    refine ⟨?_, rfl, rfl⟩
    dsimp only
    rw [hb, latched, nvoices_builtVoice, if_pos rfl]
    rfl
  · rw [initVoice_dropped n v hn hv a hd, hc, hd]
    exact ⟨rfl, rfl, rfl⟩
  · rw [initVoice_disabled n v hn hv a he, hc, hd]
    exact ⟨rfl, rfl, rfl⟩

/-- The sources and filters of a voice after its turn. -/
theorem slots_initVoice (a : InitAcc) (j : Nat) (hj : j < 3) : let k := 3 + 3 * v + j
    if a.st.creates n v then
      (a.st.Written (valAddr n k 0) 1 →
        (initVoice n a v).st.env n k = (a.st.env n k).construct (a.st.cell (valAddr n k 0))) ∧
      (initVoice n a v).st.lfo n k = (a.st.lfo n k).restart
    else (initVoice n a v).st.env n k = a.st.env n k ∧ (initVoice n a v).st.lfo n k = a.st.lfo n k := by
  intro k
  have hset : ∀ (u : State) e, (u.setErr e).env n k = u.env n k ∧ (u.setErr e).lfo n k = u.lfo n k := fun _ _ => ⟨rfl, rfl⟩
  have w := within_vacate n v a.st
  rcases turn_cases n v a.st with ⟨hc, _⟩ | ⟨hc, hd, _⟩ | ⟨hc, _, he⟩
  · have ws := within_soundVoice n v (latched n v a.st) hn (usize_latched n v _ hn hv)
    obtain ⟨h1, h2⟩ := slots_builtVoice n v (a.st.modVoice n v Voice.vacate) hn hv j hj
    rw [initVoice_created n v hn hv a hc, if_pos hc]
    dsimp only
    rw [ws.env (by simp), ws.lfo (by simp), latched, h2, w.lfo (by simp)]
    rw [w.env (by simp), w.cell (w.undef (by simp)) fun _ _ => id] at h1
    exact ⟨fun hw => h1 (w.written hw fun _ _ => id), rfl⟩
  · rw [initVoice_dropped n v hn hv a hd, hc, if_neg (by decide)]
    dsimp only
    rw [(hset _ _).1, (hset _ _).2]
    exact ⟨w.env (by simp), w.lfo (by simp)⟩
  · rw [initVoice_disabled n v hn hv a he, hc, if_neg (by decide)]
    exact ⟨w.env (by simp), w.lfo (by simp)⟩

theorem flt_initVoice (a : InitAcc) (f : Nat) (hf : f = 2 + 2 * v ∨ f = 3 + 2 * v) : (initVoice n a v).st.flt n f =
    if a.st.creates n v then (a.st.flt n f).clear else a.st.flt n f := by
  have hset : ∀ (u : State) e, (u.setErr e).flt n f = u.flt n f := fun _ _ => rfl
  have w := within_vacate n v a.st
  rcases turn_cases n v a.st with ⟨hc, _⟩ | ⟨hc, hd, _⟩ | ⟨hc, _, he⟩
  · have ws := within_soundVoice n v (latched n v a.st) hn (usize_latched n v _ hn hv)
    rw [initVoice_created n v hn hv a hc, if_pos hc]
    dsimp only
    rw [ws.flt (by simp), latched, flt_builtVoice n v _ hn hv f hf, w.flt (by simp)]
  · rw [initVoice_dropped n v hn hv a hd, hc, if_neg (by decide)]
    dsimp only
    rw [hset]
    exact w.flt (by simp)
  · rw [initVoice_disabled n v hn hv a he, hc, if_neg (by decide)]
    exact w.flt (by simp)

end

end Sys2Proof.Machine
end

section
/-! PROOFS. All turns of NOTE.INIT (R311 to R313): the note-level construction before them, what stands before each turn,
and the budget. -/

namespace Sys2Proof.Machine

/-! ## Counting -/

section
variable (p : Nat → Bool) (room : Nat)

theorem countP_range_succ (m : Nat) : (List.range (m + 1)).countP p = (List.range m).countP p + if p m then 1 else 0 := by
  rw [List.range_succ, List.countP_append, List.countP_singleton]

/-- Of the candidates in order, those are admitted that find room; they are as many as fit. -/
theorem countP_admitted (m : Nat) : ((List.range m).countP fun v => p v && decide ((List.range v).countP p < room)) =
    min ((List.range m).countP p) room := by
  induction m with
  | zero => exact (Nat.zero_min room).symm
  | succ m ih =>
    rw [countP_range_succ, countP_range_succ, ih]
    cases p m with
    | false => simp
    | true => by_cases h : (List.range m).countP p < room <;> simp [h] <;> omega

/-- Some candidate finds no room exactly when there are more of them than room. -/
theorem exists_rejected (m : Nat) : (∃ v, v < m ∧ p v = true ∧ room ≤ (List.range v).countP p) ↔
    room < (List.range m).countP p := by
  induction m with
  | zero => simp
  | succ m ih =>
    rw [countP_range_succ]
    constructor
    · rintro ⟨v, hv, hp, hr⟩
      rcases Nat.lt_succ_iff_lt_or_eq.1 hv with hv | rfl
      · have := ih.1 ⟨v, hv, hp, hr⟩; omega
      · rw [if_pos hp]; omega
    · intro h
      by_cases hm : room < (List.range m).countP p
      · obtain ⟨v, hv, h⟩ := ih.2 hm
        exact ⟨v, by omega, h⟩
      · cases hp : p m with
        | false => rw [hp] at h; simp at h; omega
        | true => exact ⟨m, by omega, hp, by rw [hp] at h; simp at h; omega⟩

end

/-! ## The note-level construction (R312) -/

section
variable (n : Nat) (s : State)

/-- The parts that the note-level construction changes. -/
def constructParts : Part → Prop := fun p => (p = .head ∨ p = .amp) ∨ sourcesParts 0 p ∨ p = .flt 0 ∨ p = .flt 1

/-- The flags that it raises. -/
def constructFlags : BitVec 8 :=
  slotsFlags s n 0 ||| flag ((s.flt n 0).stagesBad || (s.flt n 1).stagesBad) .cfg

/-- The state with the constructed note registers. -/
def registered : State := s.modNote n Note.construct

theorem noteConstruct_eq : noteConstruct n s = cleanup n 1 (cleanup n 0 (resetSlots n 0 (registered n s))) := rfl

theorem within_registered : Within n (fun p => p = .head ∨ p = .amp) nowhere s (registered n s) :=
  within_setNote _ s (fun h => absurd (.inl rfl) h) (fun h => absurd (.inr rfl) h) (fun _ _ => rfl) (fun _ _ => rfl)
    (fun _ _ => rfl) (fun _ _ => rfl) (fun _ _ => rfl)

theorem within_reset : Within n (fun p => sourcesParts 0 p ∨ p = .flt 0 ∨ p = .flt 1) nowhere (registered n s)
    (noteConstruct n s) := by
  rw [noteConstruct_eq]
  have w3 := (within_resetSlots n 0 (registered n s)).mono (Q := fun p => sourcesParts 0 p ∨ p = .flt 0 ∨ p = .flt 1)
    (fun _ h => .inl h) fun _ h => h
  have w4 := fun f hf u => (within_cleanup n f u).mono (Q := fun p => sourcesParts 0 p ∨ p = .flt 0 ∨ p = .flt 1)
    (fun _ hp => .inr (hp ▸ hf)) fun _ h => h
  exact (w3.trans (w4 0 (.inl rfl) _)).trans (w4 1 (.inr rfl) _)

theorem within_noteConstruct : Within n constructParts nowhere s (noteConstruct n s) :=
  ((within_registered n s).mono (fun _ h => .inl h) fun _ h => h).trans
    ((within_reset n s).mono (fun _ h => .inr h) fun _ h => h)

theorem err_noteConstruct : (noteConstruct n s).err = s.err ||| constructFlags n s := by
  have h0 : (registered n s).err = s.err := rfl
  have w := within_registered n s
  have henv : ∀ k, (registered n s).env n k = s.env n k := fun k => w.env (by simp)
  have hlfo : ∀ k, (registered n s).lfo n k = s.lfo n k := fun k => w.lfo (by simp)
  have hflt : ∀ k, (resetSlots n 0 (registered n s)).flt n k = s.flt n k := fun k =>
    ((within_resetSlots n 0 _).flt (by simp [sourcesParts])).trans (w.flt (by simp))
  have hslots : slotsFlags (registered n s) n 0 = slotsFlags s n 0 := by simp only [slotsFlags, henv, hlfo]
  rw [noteConstruct_eq, err_cleanup, err_cleanup, err_resetSlots, (within_cleanup n 0 _).flt (by simp), hflt, hflt, hslots, h0,
    constructFlags, flag_or]
  simp only [BitVec.or_assoc]

variable (hn : n < 16)
include hn

theorem note_registered : (registered n s).note n = (s.note n).construct := note_modNote_self s n _ hn

theorem head_noteConstruct : ((noteConstruct n s).note n).head = ((s.note n).construct).head := by
  rw [(within_reset n s).head (by simp [sourcesParts]), note_registered n s hn]

theorem amp_noteConstruct : ((noteConstruct n s).note n).gampold = 0 ∧ ((noteConstruct n s).note n).gampnew = 0 := by
  obtain ⟨h1, h2⟩ := (within_reset n s).parts .amp (by simp [sourcesParts])
  rw [h1, h2, note_registered n s hn]
  exact ⟨rfl, rfl⟩

theorem slots_noteConstruct (k : Nat) (hk : k < 3) :
    (s.Written (valAddr n k 0) 1 →
      (noteConstruct n s).env n k = (s.env n k).construct (s.cell (valAddr n k 0))) ∧
    (noteConstruct n s).lfo n k = (s.lfo n k).restart := by
  have w := within_registered n s
  obtain ⟨h1, h2⟩ := resetSlots_slots n 0 (registered n s) hn (by decide) k hk
  rw [Nat.zero_add] at h1 h2
  rw [noteConstruct_eq, (within_cleanup n 1 _).env (by simp), (within_cleanup n 0 _).env (by simp),
    (within_cleanup n 1 _).lfo (by simp), (within_cleanup n 0 _).lfo (by simp), h2, w.lfo (by simp)]
  rw [w.env (by simp), w.cell (w.undef (by simp)) fun _ _ => id] at h1
  exact ⟨fun hw => h1 (w.written hw fun _ _ => id), rfl⟩

theorem flt_noteConstruct (f : Nat) (hf : f < 2) : (noteConstruct n s).flt n f = (s.flt n f).clear := by
  have hflt : ∀ k, (resetSlots n 0 (registered n s)).flt n k = s.flt n k := fun k =>
    ((within_resetSlots n 0 _).flt (by simp [sourcesParts])).trans ((within_registered n s).flt (by simp))
  have hf : f = 0 ∨ f = 1 := by omega
  rw [noteConstruct_eq]
  rcases hf with rfl | rfl
  · rw [(within_cleanup n 1 _).flt (by simp), flt_cleanup _ hn (by omega), hflt]
  · rw [flt_cleanup _ hn (by omega), (within_cleanup n 0 _).flt (by simp), hflt]

end

/-! ## Before each turn -/

/-- The loop of R311 before voice v. -/
def initBefore (n : Nat) (s : State) (v : Nat) : InitAcc := (List.range v).foldl (initVoice n) ⟨noteConstruct n s, 0, 0⟩

/-- The state before voice v. -/
def before (n : Nat) (s : State) (v : Nat) : State := (initBefore n s v).st

/-- The enabled voices below voice v. -/
def State.enabledBelow (s : State) (n v : Nat) : Nat := (List.range v).countP fun u => (s.voice n u).enabled

/-- The room in the budget (R313). -/
def State.room (s : State) : Nat := min s.voiceCap.toNat 128 - s.nvoices.toNat

section
variable (n : Nat) (s : State)

theorem initBefore_succ (v : Nat) : initBefore n s (v + 1) = initVoice n (initBefore n s v) v := by
  rw [initBefore, List.range_succ, List.foldl_append, List.foldl_cons, List.foldl_nil]; rfl

theorem before_succ (v : Nat) : before n s (v + 1) = (initVoice n (initBefore n s v) v).st := by
  rw [before, initBefore_succ]

theorem before_zero : before n s 0 = noteConstruct n s := rfl

theorem noteInit_eq : noteInit n s = (before n s 8).setRes (BitVec.ofNat 32 (initBefore n s 8).created)
    (BitVec.ofNat 32 (initBefore n s 8).dropped) := rfl

variable (hn : n < 16)
include hn

theorem span_before (u v : Nat) (huv : u ≤ v) (hv : v ≤ 8) :
    Span n (fun w => u ≤ w ∧ w < v) (before n s u) (before n s v) := by
  induction v with
  | zero => rw [Nat.le_zero.1 huv]; exact .refl _
  | succ v ih =>
    rcases Nat.lt_or_eq_of_le huv with h | rfl
    · refine ((ih (by omega) (by omega)).mono fun w hw => ⟨hw.1, by omega⟩).trans ?_
      rw [before_succ]
      exact (span_initVoice n v hn (by omega) (initBefore n s v)).mono fun w hw => ⟨by omega, by omega⟩
    · exact .refl _

/-- A voice whose turn is still to come. -/
theorem voice_before (v w : Nat) (hv : v ≤ 8) (hw : v ≤ w) : (before n s v).voice n w = s.voice n w :=
  ((span_before n s hn 0 v (Nat.zero_le _) hv).voice (by omega)).trans
    ((within_noteConstruct n s).voice (by simp [constructParts, sourcesParts]) (by simp [constructParts, sourcesParts]))

theorem budgetFull_iff (v : Nat) (hv : v ≤ 8) (h : (before n s v).nvoices.toNat = s.nvoices.toNat + min (s.enabledBelow n v) s.room) :
    (before n s v).budgetFull = true ↔ s.room ≤ s.enabledBelow n v := by
  have hcap : (before n s v).voiceCap = s.voiceCap :=
    (span_before n s hn 0 v (Nat.zero_le _) hv).within.voiceCap.trans (within_noteConstruct n s).voiceCap
  rw [State.budgetFull, hcap, h, decide_eq_true_iff, State.room]
  omega

omit hn in
theorem enabledBelow_succ (v : Nat) : s.enabledBelow n (v + 1) =
    s.enabledBelow n v + if (s.voice n v).enabled then 1 else 0 := countP_range_succ _ v

/-- What stands in the budget before a turn (R313). -/
theorem budget_before (v : Nat) (hv : v ≤ 8) :
    (before n s v).nvoices.toNat = s.nvoices.toNat + min (s.enabledBelow n v) s.room ∧
    (initBefore n s v).created = min (s.enabledBelow n v) s.room ∧
    (initBefore n s v).dropped = s.enabledBelow n v - min (s.enabledBelow n v) s.room := by
  induction v with
  | zero =>
    have h0 : s.enabledBelow n 0 = 0 := rfl
    have hb : (before n s 0).nvoices = s.nvoices := (within_noteConstruct n s).budget (by simp [constructParts, sourcesParts])
    rw [h0, hb, Nat.zero_min]
    exact ⟨rfl, rfl, rfl⟩
  | succ v ih =>
    obtain ⟨h1, h2, h3⟩ := ih (by omega)
    have hfull := budgetFull_iff n s hn v (by omega) h1
    have hvoice := voice_before n s hn v v (by omega) le_rfl
    obtain ⟨b1, b2, b3⟩ := budget_initVoice n v hn (by omega) (initBefore n s v)
    rw [before_succ, initBefore_succ, b1, b2, b3, h2, h3, enabledBelow_succ n s]
    rcases turn_cases n v (before n s v) with ⟨hc, hd, he, hf⟩ | ⟨hc, hd, he, hf⟩ | ⟨hc, hd, he⟩ <;> rw [hvoice] at he
    all_goals
      rw [before] at hc hd h1 hfull
      rw [hc, hd, he]
    · have hroom : s.enabledBelow n v < s.room := by
        by_contra hno
        rw [before, hfull.2 (by omega)] at hf
        cases hf
      have hlt : s.nvoices.toNat + s.room ≤ 128 := by unfold State.room at *; omega
      simp only [if_true, Bool.false_eq_true, if_false]
      refine ⟨?_, by omega, by omega⟩
      rw [BitVec.toNat_add, h1]
      have h1' : (1 : BitVec 8).toNat = 1 := rfl
      rw [h1', Nat.mod_eq_of_lt (by omega)]
      omega
    · have hroom := hfull.1 hf
      simp only [if_true, Bool.false_eq_true, if_false]
      exact ⟨by omega, by omega, by omega⟩
    · simp only [Bool.false_eq_true, if_false]
      exact ⟨h1, by omega, by omega⟩

/-- Which voices are created, and which are dropped (R313). -/
theorem creates_iff (v : Nat) (hv : v < 8) :
    ((before n s v).creates n v = true ↔ (s.voice n v).enabled = true ∧ s.enabledBelow n v < s.room) ∧
    ((before n s v).drops n v = true ↔ (s.voice n v).enabled = true ∧ s.room ≤ s.enabledBelow n v) := by
  have hfull := budgetFull_iff n s hn v (by omega) (budget_before n s hn v (by omega)).1
  rw [State.creates, State.drops, voice_before n s hn v v (by omega) le_rfl, Bool.and_eq_true, Bool.and_eq_true, hfull,
    Bool.not_eq_true', Bool.eq_false_iff, ne_eq, hfull, not_le]
  exact ⟨Iff.rfl, Iff.rfl⟩

end

end Sys2Proof.Machine
end

section
/-! PROOFS. The commands that NOTE.INIT performs, done again after it (R186, R188, R311), and where each of its flags comes
from. -/

namespace Sys2Proof.Machine

/-! ## OSC.GET done again -/

theorem Span.stillSettled {n : Nat} {V : Nat → Prop} {S t : State} (h : Span n V S t) {o : Nat} (ho : o < 16)
    (hs : S.unsettled o = false) : t.unsettled o = false := by
  rw [State.unsettled, (h.settled ho hs).1]; exact hs

section
variable {n : Byte} {V : Nat → Prop} {S t : State} (h : Span n.toNat V S t) (hn : n.toNat < 16) {o : Nat} (ho : o < 16)
  (hs : S.unsettled o = false) {v : Nat} (hv : v < 8) (sel useres : Bool) {freq : Nat} (hq : freq ≤ 4294967295)
include h ho hs hn hv hq

/-- From the same generator state it delivers the same (R188 to R201). -/
theorem get_again {r : Word} (hb : S.BanksWritten) (hr : (S.note n.toNat).rng = r) :
    let D := deliveryOf S o n.toNat useres freq
    let get := Instr.oscGet (BitVec.ofNat 8 o) n (BitVec.ofNat 3 v) sel useres (BitVec.ofNat 32 freq)
    (∃ u, exec get (t.setRng n.toNat r) = .next u ∧
      u.cells (vwaveAddr n.toNat v sel) 1024 = D.words ∧ u.res0.toNat = D.off ∧ (u.note n.toNat).rng = D.rng) ∧
    (t.setRng n.toNat r).flagsOf get = D.err := by
  intro D get
  have hs' : (t.setRng n.toNat r).unsettled o = false := h.stillSettled ho hs
  have hD : deliveryOf (t.setRng n.toNat r) o n.toNat useres freq = D := h.delivery ho hs hb useres freq r hn hr
  obtain ⟨u, hu, h1, h2, h3, _⟩ := oscGet_outcome n o v sel useres freq _ hn ho hv hq hs'
  rw [hD] at h1 h2 h3
  exact ⟨⟨u, hu, h1, h2, h3⟩, (flagsOf_oscGet n o v sel useres freq _ hn ho hv hq hs').trans (congrArg Delivery.err hD)⟩

/-- Its flags besides ERR.SAT are the same from any generator state. -/
theorem getFlags_again (i : Nat) (hi : i ≠ 3) :
    (t.flagsOf (.oscGet (BitVec.ofNat 8 o) n (BitVec.ofNat 3 v) sel useres (BitVec.ofNat 32 freq))).getLsbD i =
      (deliveryOf S o n.toNat useres freq).err.getLsbD i := by
  rw [flagsOf_oscGet n o v sel useres freq t hn ho hv hq (h.stillSettled ho hs), deliveryOf, deliveryOf, (h.settled ho hs).1]
  exact delivery_err _ _ _ _ _ _ _ _ _ _ _ i hi

end

/-! ## The flags of preparations -/

section
variable {n : Nat} {V : Nat → Prop} {s b t : State} {o i : Nat} (ho : o < 16)
include ho

/-- OSC.PREPARE's flags are those of a preparation where it prepares (R186). -/
theorem prepare_flags_iff : ((s.osc o).job = none ∧ (s.flagsOf (.oscPrepare (BitVec.ofNat 8 o))).getLsbD i = true) ↔
    s.unsettled o = true ∧ (prepFlags s o).getLsbD i = true := by
  rw [flagsOf_oscPrepare o s ho]
  cases h : s.unsettled o with
  | true =>
    have hj : (s.osc o).job = none := by
      rw [State.unsettled, Bool.and_eq_true, Option.isNone_iff_eq_none] at h
      exact h.2
    simp only [if_true, hj, true_and]
  | false => simp

variable (hosc : b.osc o = s.osc o) (hmem : ∀ x, b.mem.byte? x = s.mem.byte? x) (h : Span n V b t)
include hosc hmem h

/-- A preparation in a stretch raises what it would have raised before (R187). -/
theorem prepFlags_earlier (hu : t.unsettled o = true) (hi : i ≠ 3 ∨ (s.unsettled o = true → s.Written (hmagAddr o) 256))
    (hf : (prepFlags t o).getLsbD i = true) : s.unsettled o = true ∧ (prepFlags s o).getLsbD i = true := by
  obtain ⟨he, hb⟩ := unsettled_of_oscs (h.oscs o) hu
  have hs : s.unsettled o = true := by rwa [State.unsettled, ← hosc]
  refine ⟨hs, ?_⟩
  rw [← prepFlags_congr (he.trans hosc) (fun x hx => (h.tables ho x hx).trans (hmem x)) (hi.imp_right fun k => k hs)]
  exact hf

/-- A preparation that a stretch must have done raised its flags in it. -/
theorem prepFlags_later (hs : s.unsettled o = true) (ht : t.unsettled o = false) (hi : i ≠ 3 ∨ s.Written (hmagAddr o) 256)
    (hf : (prepFlags s o).getLsbD i = true) : t.err.getLsbD i = true := by
  have hb : b.unsettled o = true := by rwa [State.unsettled, hosc]
  have hi' : i ≠ 3 ∨ b.Written (hmagAddr o) 256 := hi.imp_right fun k j hj => by
    rw [word?_congr b.mem s.mem _ fun x _ _ => hmem x]; exact k j hj
  refine h.prep o ho hb ht i hi' ?_
  rw [prepFlags_congr hosc (fun x _ => hmem x) hi]
  exact hf

end

/-! ## The flags of resets, cleanups and latches -/

theorem slotsFlags_iff (n : Byte) (s : State) (base i : Nat) (hn : n.toNat < 16) (hb : base + 2 < 27) :
    (slotsFlags s n.toNat base).getLsbD i = true ↔ ∃ j, j < 3 ∧
      ((s.flagsOf (.envReset n (BitVec.ofNat 8 (base + j)))).getLsbD i = true ∨
        (s.flagsOf (.lfoReset n (BitVec.ofNat 8 (base + j)))).getLsbD i = true) := by
  obtain ⟨F, hF, hs⟩ : ∃ F : Nat → BitVec 8, (∀ j, F j = (s.env n.toNat (base + j)).resetFlags |||
      (s.lfo n.toNat (base + j)).resetFlags) ∧ slotsFlags s n.toNat base = F 0 ||| (F 1 ||| F 2) :=
    ⟨_, fun _ => rfl, rfl⟩
  have key : ∀ j, j < 3 → (((s.flagsOf (.envReset n (BitVec.ofNat 8 (base + j)))).getLsbD i = true ∨
      (s.flagsOf (.lfoReset n (BitVec.ofNat 8 (base + j)))).getLsbD i = true) ↔ (F j).getLsbD i = true) := fun j hj => by
    rw [flagsOf_envReset n _ s hn (by omega), flagsOf_lfoReset n _ s hn (by omega), hF, BitVec.getLsbD_or, Bool.or_eq_true]
  rw [hs, BitVec.getLsbD_or, BitVec.getLsbD_or, Bool.or_eq_true, Bool.or_eq_true]
  constructor
  · rintro (h | h | h)
    · exact ⟨0, by decide, (key 0 (by decide)).2 h⟩
    · exact ⟨1, by decide, (key 1 (by decide)).2 h⟩
    · exact ⟨2, by decide, (key 2 (by decide)).2 h⟩
  · rintro ⟨j, hj, h⟩
    have hj' : j = 0 ∨ j = 1 ∨ j = 2 := by omega
    rcases hj' with rfl | rfl | rfl
    · exact .inl ((key 0 hj).1 h)
    · exact .inr (.inl ((key 1 hj).1 h))
    · exact .inr (.inr ((key 2 hj).1 h))

/-- A command on a slot of the note or of some voices (R61, R62). -/
theorem exists_slot_iff (C Q : Nat → Prop) : (∃ k, k < 27 ∧ (k < 3 ∨ C ((k - 3) / 3)) ∧ Q k) ↔
    (∃ j, j < 3 ∧ Q (0 + j)) ∨ ∃ v, v < 8 ∧ C v ∧ ∃ j, j < 3 ∧ Q (3 + 3 * v + j) := by
  constructor
  · rintro ⟨k, hk, h3 | hc, hQ⟩
    · exact .inl ⟨k, h3, by rwa [Nat.zero_add]⟩
    · by_cases h3 : k < 3
      · exact .inl ⟨k, h3, by rwa [Nat.zero_add]⟩
      · exact .inr ⟨(k - 3) / 3, by omega, hc, (k - 3) % 3, by omega, by
          rwa [show 3 + 3 * ((k - 3) / 3) + (k - 3) % 3 = k by omega]⟩
  · rintro (⟨j, hj, hQ⟩ | ⟨v, hv, hc, j, hj, hQ⟩)
    · exact ⟨0 + j, by omega, .inl (by omega), hQ⟩
    · exact ⟨3 + 3 * v + j, by omega, .inr (by rwa [show (3 + 3 * v + j - 3) / 3 = v by omega]), hQ⟩

/-- A command on a filter of the note or of some voices (R63). -/
theorem exists_filter_iff (C Q : Nat → Prop) : (∃ f, f < 18 ∧ (f < 2 ∨ C ((f - 2) / 2)) ∧ Q f) ↔
    (Q 0 ∨ Q 1) ∨ ∃ v, v < 8 ∧ C v ∧ (Q (2 + 2 * v) ∨ Q (3 + 2 * v)) := by
  constructor
  · rintro ⟨f, hf, hc, hQ⟩
    by_cases h2 : f < 2
    · have h01 : f = 0 ∨ f = 1 := by omega
      rcases h01 with rfl | rfl
      · exact .inl (.inl hQ)
      · exact .inl (.inr hQ)
    · refine .inr ⟨(f - 2) / 2, by omega, hc.resolve_left h2, ?_⟩
      have hcase : f = 2 + 2 * ((f - 2) / 2) ∨ f = 3 + 2 * ((f - 2) / 2) := by omega
      rcases hcase with h | h
      · exact .inl (by rwa [h] at hQ)
      · exact .inr (by rwa [h] at hQ)
  · rintro ((hQ | hQ) | ⟨v, hv, hc, hQ | hQ⟩)
    · exact ⟨0, by decide, .inl (by decide), hQ⟩
    · exact ⟨1, by decide, .inl (by decide), hQ⟩
    · exact ⟨2 + 2 * v, by omega, .inr (by rwa [show (2 + 2 * v - 2) / 2 = v by omega]), hQ⟩
    · exact ⟨3 + 2 * v, by omega, .inr (by rwa [show (3 + 2 * v - 2) / 2 = v by omega]), hQ⟩

theorem resetFlags_sat (e : Env) (l : Lfo) : e.resetFlags.getLsbD 3 = false ∧ l.resetFlags.getLsbD 3 = false := by
  constructor <;>
    simp only [Env.resetFlags, Lfo.resetFlags, BitVec.getLsbD_or, getLsbD_flag, ErrBit.pos, Bool.or_eq_false_iff] <;> simp

/-- Resets and cleanups do not saturate. -/
theorem slotsFlags_sat (s : State) (n base : Nat) : (slotsFlags s n base).getLsbD 3 = false := by
  simp only [slotsFlags, BitVec.getLsbD_or, (resetFlags_sat default _).2, (resetFlags_sat _ default).1, Bool.or_false]

theorem constructFlags_sat (n : Nat) (s : State) : (constructFlags n s).getLsbD 3 = false := by
  rw [constructFlags, BitVec.getLsbD_or, slotsFlags_sat, getLsbD_flag]
  simp [ErrBit.pos]

theorem builtFlags_sat (n v : Nat) (s : State) : (builtFlags n v s).getLsbD 3 = false := by
  simp only [builtFlags, BitVec.getLsbD_or, slotsFlags_sat, getLsbD_flag, ErrBit.pos]
  simp

/-- The flags of the note-level construction as its commands raise them (R312). -/
theorem constructFlags_iff (n : Byte) (s : State) (i : Nat) (hn : n.toNat < 16) :
    (constructFlags n.toNat s).getLsbD i = true ↔ (∃ j, j < 3 ∧
      ((s.flagsOf (.envReset n (BitVec.ofNat 8 (0 + j)))).getLsbD i = true ∨
        (s.flagsOf (.lfoReset n (BitVec.ofNat 8 (0 + j)))).getLsbD i = true)) ∨
      ((s.flagsOf (.fltCleanup n (BitVec.ofNat 8 0))).getLsbD i = true ∨
        (s.flagsOf (.fltCleanup n (BitVec.ofNat 8 1))).getLsbD i = true) := by
  rw [constructFlags, BitVec.getLsbD_or, Bool.or_eq_true, slotsFlags_iff n s 0 i hn (by decide), flag_or, BitVec.getLsbD_or,
    Bool.or_eq_true, flagsOf_fltCleanup n 0 s hn (by decide), flagsOf_fltCleanup n 1 s hn (by decide)]

/-- The flags of a voice's construction as its commands raise them (R314, R315). -/
theorem builtFlags_iff (n : Byte) (v : Nat) (s : State) (i : Nat) (hn : n.toNat < 16) (hv : v < 8) :
    (builtFlags n.toNat v s).getLsbD i = true ↔
      i = 1 ∧ (validTopology (s.note n.toNat) v (s.voice n.toNat v) ≠ (s.voice n.toNat v).ctrlTopo ∨
        validUnison (s.voice n.toNat v).unisize ≠ (s.voice n.toNat v).unisize) ∨
      (∃ j, j < 3 ∧ ((s.flagsOf (.envReset n (BitVec.ofNat 8 (3 + 3 * v + j)))).getLsbD i = true ∨
        (s.flagsOf (.lfoReset n (BitVec.ofNat 8 (3 + 3 * v + j)))).getLsbD i = true)) ∨
      ((s.flagsOf (.fltCleanup n (BitVec.ofNat 8 (2 + 2 * v)))).getLsbD i = true ∨
        (s.flagsOf (.fltCleanup n (BitVec.ofNat 8 (3 + 2 * v)))).getLsbD i = true) := by
  rw [builtFlags, BitVec.getLsbD_or, BitVec.getLsbD_or, Bool.or_eq_true, Bool.or_eq_true,
    slotsFlags_iff n s _ i hn (by omega), flag_or (Flt.stagesBad _), BitVec.getLsbD_or, Bool.or_eq_true,
    flagsOf_fltCleanup n _ s hn (by omega), flagsOf_fltCleanup n _ s hn (by omega), getLsbD_flag]
  refine or_congr_left ?_
  rw [Bool.and_eq_true, Bool.or_eq_true, bne_iff_ne, bne_iff_ne, decide_eq_true_iff]
  exact and_comm

end Sys2Proof.Machine
end

section
/-! PROOFS. The state that NOTE.INIT leaves (R311 to R315): registers, voices, budget, sources and filters. -/

namespace Sys2Proof.Machine

/-- The state after NOTE.INIT. -/
def initFinal (n : Nat) (s : State) : State := (noteInit n s).advance

theorem exec_noteInit (n : Byte) (s : State) (hn : n.toNat < 16) (ha : s.active n.toNat = false) :
    exec (.noteInit n) s = .next (initFinal n.toNat s) := by
  have ok : noteIndexOk n = true := by simp [noteIndexOk, hn]
  simp only [exec, execNoteInit, guarded, ok, index, ha, Bool.not_false]
  rfl

section
variable (n : Nat) (s : State)

theorem initFinal_keeps : (∀ m, (initFinal n s).note m = (before n s 8).note m) ∧ (initFinal n s).err = (before n s 8).err ∧
    (initFinal n s).nvoices = (before n s 8).nvoices ∧ (initFinal n s).mem = (before n s 8).mem := by
  have h : ∀ (u : State) a b, (∀ m, (u.setRes a b).advance.note m = u.note m) ∧ (u.setRes a b).advance.err = u.err ∧
      (u.setRes a b).advance.nvoices = u.nvoices ∧ (u.setRes a b).advance.mem = u.mem := fun _ _ _ => ⟨fun _ => rfl, rfl, rfl, rfl⟩
  rw [initFinal, noteInit_eq]
  exact h _ _ _

theorem results_initFinal : (initFinal n s).res0 = BitVec.ofNat 32 (initBefore n s 8).created ∧
    (initFinal n s).res1 = BitVec.ofNat 32 (initBefore n s 8).dropped := by
  have h : ∀ (u : State) a b, (u.setRes a b).advance.res0 = a ∧ (u.setRes a b).advance.res1 = b := fun _ _ _ => ⟨rfl, rfl⟩
  rw [initFinal, noteInit_eq]
  exact h _ _ _

theorem span_results : Span n (fun _ => False) (before n s 8) (initFinal n s) := by
  have h : ∀ (u : State) a b, Within n (fun _ => False) nowhere u (u.setRes a b).advance := fun _ _ _ =>
    .of_eq rfl rfl rfl rfl rfl rfl rfl
  refine .of_within (P := fun _ => False) (A := nowhere) ?_ (fun _ h => h.elim) (fun _ h => h.elim)
    (by rw [(initFinal_keeps n s).1]; rfl) fun i hi => by rw [(initFinal_keeps n s).2.1]; exact hi
  rw [initFinal, noteInit_eq]
  exact h _ _ _

variable (hn : n < 16)
include hn

theorem span_initFinal (v : Nat) (hv : v ≤ 8) : Span n (fun w => v ≤ w ∧ w < 8) (before n s v) (initFinal n s) :=
  (span_before n s hn v 8 hv le_rfl).trans ((span_results n s).mono fun _ h => h.elim)

/-! ## The note's registers -/

theorem head_initFinal : ((initFinal n s).note n).head =
    { ((s.note n).construct).head with rng := ((initFinal n s).note n).rng } := by
  have h := (span_initFinal n s hn 0 (Nat.zero_le _)).head
  rwa [before_zero, head_noteConstruct n s hn] at h

theorem amp_initFinal : ((initFinal n s).note n).gampold = 0 ∧ ((initFinal n s).note n).gampnew = 0 := by
  obtain ⟨h1, h2⟩ := (span_initFinal n s hn 0 (Nat.zero_le _)).within.parts .amp (by simp [spanParts, initParts])
  rw [h1, h2, before_zero]
  exact amp_noteConstruct n s hn

/-- A voice's turn starts with the pitch that the note was given (R312). -/
theorem log2freq_before (v : Nat) (hv : v ≤ 8) : ((before n s v).note n).log2freq = (s.note n).log2freq := by
  have h := (span_before n s hn 0 v (Nat.zero_le _) hv).head
  have h0 := head_noteConstruct n s hn
  exact (congrArg Note.log2freq h :).trans (congrArg Note.log2freq h0 :)

theorem rng_before_zero : ((before n s 0).note n).rng = (s.note n).rng :=
  (congrArg Note.rng (head_noteConstruct n s hn) :)

/-! ## Voices -/

theorem voice_initFinal_lt (v w : Nat) (hv : v ≤ 8) (hw : w < v) : (initFinal n s).voice n w = (before n s v).voice n w :=
  (span_initFinal n s hn v hv).voice (by omega)

theorem voice_initFinal (v : Nat) (hv : v < 8) : (initFinal n s).voice n v = turnedVoice n v (before n s v) := by
  rw [voice_initFinal_lt n s hn (v + 1) v (by omega) (by omega), before_succ, voice_initVoice n v hn hv]
  rfl

theorem created_initFinal (v : Nat) (hv : v < 8) : ((initFinal n s).voice n v).created = (before n s v).creates n v := by
  rw [voice_initFinal n s hn v hv]
  unfold turnedVoice
  dsimp only
  cases h : (before n s v).creates n v with
  | true => rw [if_pos rfl]; rfl
  | false => rw [if_neg (by decide)]; rfl

theorem created_iff (v : Nat) (hv : v < 8) : ((initFinal n s).voice n v).created = true ↔
    (s.voice n v).enabled = true ∧ s.enabledBelow n v < s.room := by
  rw [created_initFinal n s hn v hv]
  exact (creates_iff n s hn v hv).1

theorem voice_uncreated (v : Nat) (hv : v < 8) (h : ((initFinal n s).voice n v).created = false) :
    (initFinal n s).voice n v = (s.voice n v).vacate := by
  rw [created_initFinal n s hn v hv] at h
  rw [voice_initFinal n s hn v hv]
  unfold turnedVoice
  dsimp only
  rw [h, if_neg (by decide), voice_before n s hn v v (by omega) le_rfl]

theorem voice_created (v : Nat) (hv : v < 8) (h : ((initFinal n s).voice n v).created = true) :
    (initFinal n s).voice n v =
      ((s.voice n v).taken (validTopology ((before n s v).note n) v (s.voice n v))).startAmps := by
  rw [created_initFinal n s hn v hv] at h
  rw [voice_initFinal n s hn v hv]
  unfold turnedVoice
  dsimp only
  rw [h, if_pos rfl, voice_before n s hn v v (by omega) le_rfl]

theorem vctrl_initFinal (v : Nat) (hv : v < 8) : ((initFinal n s).voice n v).vctrl = (s.voice n v).vctrl := by
  cases h : ((initFinal n s).voice n v).created with
  | true => rw [voice_created n s hn v hv h]; rfl
  | false => rw [voice_uncreated n s hn v hv h]; rfl

/-- The validated topology in terms of the voices that NOTE.INIT leaves (R314). -/
theorem validTopology_before (v : Nat) (hv : v < 8) : let y := s.voice n v
    validTopology ((before n s v).note n) v y =
      if 4 < y.ctrlTopo ∨ y.ctrlTopo ≠ 0 ∧ y.ctrlModext = true ∧ (v ≤ y.modvoice ∨
        ((initFinal n s).voice n y.modvoice).created = false ∨ (s.voice n y.modvoice).dest = false) then 0
      else y.ctrlTopo := by
  intro y
  unfold validTopology
  rcases Nat.lt_or_ge y.modvoice v with hw | hw
  · have hvoice : ((before n s v).note n).voice y.modvoice = (initFinal n s).voice n y.modvoice :=
      (voice_initFinal_lt n s hn v _ (by omega) hw).symm
    have hd : ((initFinal n s).voice n y.modvoice).dest = (s.voice n y.modvoice).dest := by
      unfold Voice.dest; rw [vctrl_initFinal n s hn _ (by omega)]
    rw [hvoice, hd]
    split
    · next h4 => rw [if_pos (.inl h4)]
    · next h4 => simp only [h4, false_or]
  · simp only [hw, true_or, and_true]
    split
    · next h4 => rw [if_pos (.inl h4)]
    · next h4 => simp only [h4, false_or]

omit hn in
theorem validTopology_le (x : Note) (v : Nat) (y : Voice) : validTopology x v y ≤ 4 := by
  unfold validTopology
  split_ifs <;> omega

theorem createdCount_initFinal : ((initFinal n s).note n).createdCount = min (s.enabledBelow n 8) s.room := by
  rw [createdCount_eq, State.enabledBelow, ← countP_admitted]
  refine List.countP_congr fun v hv => ?_
  rw [Bool.and_eq_true, decide_eq_true_iff]
  exact created_iff n s hn v (List.mem_range.1 hv)

/-! ## Sources and filters -/

/-- A slot of a voice before the voice's turn. -/
theorem slots_before (v : Nat) (hv : v < 8) (k : Nat) (hk : 3 + 3 * v ≤ k) :
    (before n s v).env n k = s.env n k ∧ (before n s v).lfo n k = s.lfo n k := by
  have h := span_before n s hn 0 v (Nat.zero_le _) (by omega)
  have w := within_noteConstruct n s
  rw [h.env (by omega), h.lfo (by omega), before_zero]
  exact ⟨w.env (by simp [constructParts, sourcesParts]; omega), w.lfo (by simp [constructParts, sourcesParts]; omega)⟩

theorem flt_before (v : Nat) (hv : v < 8) (f : Nat) (hf : 2 + 2 * v ≤ f) : (before n s v).flt n f = s.flt n f := by
  rw [(span_before n s hn 0 v (Nat.zero_le _) (by omega)).flt (by omega), before_zero]
  exact (within_noteConstruct n s).flt (by simp [constructParts, sourcesParts]; omega)

/-- The table cells that a reset reads stay as they are. -/
theorem val_before (v : Nat) (hv : v < 8) (k : Nat) (hk : k < 27) (hw : s.Written (valAddr n k 0) 1) :
    (before n s v).Written (valAddr n k 0) 1 ∧ (before n s v).cell (valAddr n k 0) = s.cell (valAddr n k 0) := by
  have hb : ∀ x, wordsAt (valAddr n k 0) 1 x → (before n s v).mem.byte? x = s.mem.byte? x := fun x hx => by
    have ht : tableBytes n x := by
      simp only [wordsAt, valAddr, envBase, tableBytes] at *
      omega
    rw [(span_before n s hn 0 v (Nat.zero_le _) (by omega)).tableBytes ht, before_zero]
    exact (within_noteConstruct n s).bytes x id
  refine ⟨fun i hi => ?_, cell_of_written hw hb⟩
  rw [word?_congr _ s.mem _ fun x h1 h2 => hb x ⟨by omega, by omega⟩]
  exact hw i hi

theorem slots_initFinal (k : Nat) (hk : k < 27) :
    if k < 3 ∨ ((initFinal n s).voice n ((k - 3) / 3)).created = true then
      (s.Written (valAddr n k 0) 1 → (initFinal n s).env n k = (s.env n k).construct (s.cell (valAddr n k 0))) ∧
        (initFinal n s).lfo n k = (s.lfo n k).restart
    else (initFinal n s).env n k = s.env n k ∧ (initFinal n s).lfo n k = s.lfo n k := by
  by_cases h3 : k < 3
  · have h := span_initFinal n s hn 0 (Nat.zero_le _)
    rw [if_pos (.inl h3), h.env (by omega), h.lfo (by omega), before_zero]
    exact slots_noteConstruct n s hn k h3
  · obtain ⟨v, j, hv, hj, rfl⟩ : ∃ v j, v < 8 ∧ j < 3 ∧ k = 3 + 3 * v + j := ⟨(k - 3) / 3, (k - 3) % 3, by omega, by omega, by omega⟩
    have h := span_initFinal n s hn (v + 1) (by omega)
    obtain ⟨he, hl⟩ := slots_before n s hn v hv (3 + 3 * v + j) (by omega)
    have hs := slots_initVoice n v hn hv (initBefore n s v) j hj
    rw [show (3 + 3 * v + j - 3) / 3 = v by omega, created_initFinal n s hn v hv, h.env (by omega), h.lfo (by omega),
      before_succ]
    simp only [h3, false_or]
    dsimp only at hs
    rw [← before, he, hl] at hs
    split
    · next hc =>
      rw [if_pos hc] at hs
      refine ⟨fun hw => ?_, hs.2⟩
      obtain ⟨hw', hcell⟩ := val_before n s hn v hv _ hk hw
      rw [← hcell]
      exact hs.1 hw'
    · next hc => rwa [if_neg hc] at hs

theorem flt_initFinal (f : Nat) (hf : f < 18) : (initFinal n s).flt n f =
    if f < 2 ∨ ((initFinal n s).voice n ((f - 2) / 2)).created = true then (s.flt n f).clear else s.flt n f := by
  by_cases h2 : f < 2
  · rw [if_pos (.inl h2), (span_initFinal n s hn 0 (Nat.zero_le _)).flt (by omega), before_zero]
    exact flt_noteConstruct n s hn f h2
  · obtain ⟨v, hv, hfv⟩ : ∃ v, v < 8 ∧ (f = 2 + 2 * v ∨ f = 3 + 2 * v) := ⟨(f - 2) / 2, by omega, by omega⟩
    have hs := flt_initVoice n v hn hv (initBefore n s v) f hfv
    rw [← before, flt_before n s hn v hv f (by omega)] at hs
    rw [show (f - 2) / 2 = v by omega, created_initFinal n s hn v hv,
      (span_initFinal n s hn (v + 1) (by omega)).flt (by omega), before_succ, hs]
    simp only [h2, false_or]

end

end Sys2Proof.Machine
end

section
/-! PROOFS. The fetches of NOTE.INIT as OSC.GET delivers them after it (R316, R317), and where its flags come from. -/

namespace Sys2Proof.Machine

/-! ## Pitches -/

theorem carrierPitch_congr {x x' : Note} (y : Voice) (h : x'.log2freq = x.log2freq) :
    carrierPitch x' y = carrierPitch x y.startAmps := by
  unfold carrierPitch; rw [h]; rfl

theorem modulatorPitch_congr {x x' : Note} (y : Voice) (h : x'.log2freq = x.log2freq) :
    modulatorPitch x' y = modulatorPitch x y.startAmps := by
  unfold modulatorPitch; rw [h]; rfl

theorem carrierGet_congr {x x' : Note} (n : Byte) (v : Nat) (y : Voice) (h : x'.log2freq = x.log2freq) :
    carrierGet n v x y.startAmps = .oscGet (BitVec.ofNat 8 y.carrier) n (BitVec.ofNat 3 v) false y.useres
      (BitVec.ofNat 32 (exp2 (carrierPitch x' y).val)) := by
  rw [carrierPitch_congr y h]; rfl

theorem modulatorGet_congr {x x' : Note} (n : Byte) (v : Nat) (y : Voice) (h : x'.log2freq = x.log2freq) :
    modulatorGet n v x y.startAmps = .oscGet (BitVec.ofNat 8 y.modulator) n (BitVec.ofNat 3 v) true false
      (BitVec.ofNat 32 (exp2 (modulatorPitch x' y).val)) := by
  rw [modulatorPitch_congr y h]; rfl

/-! ## A created voice's turn -/

/-- The state in which voice v is latched and its sources are reset. -/
def latchedBefore (n : Nat) (s : State) (v : Nat) : State := latched n v (before n s v)

/-- The generator before voice v (R316). -/
def genBefore (n : Nat) (s : State) (v : Nat) : Word := ((before n s v).note n).rng

/-- The generator after the carrier of voice v and its draws (R316). -/
def genOwn (n : Nat) (s : State) (v : Nat) : Word :=
  rngAfter (((latchedBefore n s v).voice n v).usize.toNat - 1) (carrierFetched n v (latchedBefore n s v)).rng

section
variable (n : Nat) (s : State)

theorem construct_osc_mem : (∀ o, (noteConstruct n s).osc o = s.osc o) ∧
    ∀ x, (noteConstruct n s).mem.byte? x = s.mem.byte? x :=
  ⟨fun _ => (within_noteConstruct n s).osc (by simp [constructParts, sourcesParts]), fun x =>
    (within_noteConstruct n s).bytes x id⟩

theorem banks_noteConstruct (h : s.BanksWritten) : (noteConstruct n s).BanksWritten :=
  (within_noteConstruct n s).banksWritten (fun _ => by simp [constructParts, sourcesParts]) (fun _ _ _ _ _ => id) h

variable (hn : n < 16) (v : Nat) (hv : v < 8)
include hn hv

theorem span_latchedBefore : Span n (fun _ => True) (noteConstruct n s) (latchedBefore n s v) :=
  ((span_before n s hn 0 v (Nat.zero_le _) (by omega)).mono fun _ _ => trivial).trans
    ((span_latched n v _ hn hv).mono fun _ _ => trivial)

theorem span_carrierBefore : Span n (fun _ => True) (noteConstruct n s) (initCarrier n v (latchedBefore n s v)) :=
  (span_latchedBefore n s hn v hv).trans
    ((span_initCarrier n v _ hn hv (usize_latched n v _ hn hv)).mono fun _ _ => trivial)

theorem voice_latchedBefore : (latchedBefore n s v).voice n v =
    (s.voice n v).taken (validTopology ((before n s v).note n) v (s.voice n v)) := by
  rw [latchedBefore, voice_latched n v _ hn hv, voice_before n s hn v v (by omega) le_rfl]

omit hn hv in
theorem rng_latchedBefore : ((latchedBefore n s v).note n).rng = genBefore n s v :=
  rng_of_head ((within_latched n v _).head (by simp [initParts]))

theorem log2freq_latchedBefore : ((latchedBefore n s v).note n).log2freq = (s.note n).log2freq := by
  have h := (within_latched n v (before n s v)).head (by simp [initParts])
  exact (congrArg Note.log2freq h :).trans (log2freq_before n s hn v (by omega))

theorem log2freq_carrierBefore : ((initCarrier n v (latchedBefore n s v)).note n).log2freq = (s.note n).log2freq := by
  rw [note_initCarrier n v _ hn]
  exact log2freq_latchedBefore n s hn v hv

theorem banks_carrierTable (h : s.BanksWritten) : (carrierTable n v (latchedBefore n s v)).BanksWritten :=
  (span_fetchTable (V := fun _ => True) _ n _ _ (Voice.carrier_lt _)).banks
    ((span_latchedBefore n s hn v hv).banks (banks_noteConstruct n s h))

theorem banks_modulatorTable (h : s.BanksWritten) : (modulatorTable n v (latchedBefore n s v)).BanksWritten :=
  (span_fetchTable (V := fun _ => True) _ n _ _ (Voice.modulator_lt _)).banks
    ((span_carrierBefore n s hn v hv).banks (banks_noteConstruct n s h))

omit hn hv in
theorem rng_carrierTable : ((carrierTable n v (latchedBefore n s v)).note n).rng = genBefore n s v := by
  rw [carrierTable, note_fetchTable]
  exact rng_latchedBefore n s v

omit hv in
theorem rng_modulatorTable : ((modulatorTable n v (latchedBefore n s v)).note n).rng = genOwn n s v := by
  rw [modulatorTable, note_fetchTable, note_initCarrier n v _ hn]
  rfl

variable (hc : ((initFinal n s).voice n v).created = true)
include hc

theorem voice_initFinal_created : (initFinal n s).voice n v = ((latchedBefore n s v).voice n v).startAmps := by
  rw [voice_created n s hn v hv hc, voice_latchedBefore n s hn v hv]

theorem before_succ_created : before n s (v + 1) = soundVoice n v (latchedBefore n s v) := by
  rw [created_initFinal n s hn v hv] at hc
  rw [before_succ, initVoice_created n v hn hv _ hc]
  rfl

theorem span_afterVoice : Span n (fun w => v + 1 ≤ w ∧ w < 8) (soundVoice n v (latchedBefore n s v)) (initFinal n s) := by
  rw [← before_succ_created n s hn v hv hc]
  exact span_initFinal n s hn (v + 1) (by omega)

theorem sounded_initFinal : Sounded n v (latchedBefore n s v) (initFinal n s) :=
  sounded hn (usize_latched n v _ hn hv) (fun _ hx => (span_afterVoice n s hn v hv hc).voiceBytes (by omega) hx) hv

theorem span_sinceCarrier : Span n (fun _ => True) (carrierTable n v (latchedBefore n s v)) (initFinal n s) :=
  ((span_carrierTable n v _ hn hv (usize_latched n v _ hn hv)).mono fun _ _ => trivial).trans
    ((span_afterVoice n s hn v hv hc).mono fun _ _ => trivial)

theorem span_sinceModulator (ho : ((latchedBefore n s v).voice n v).ownModulator = true) :
    Span n (fun _ => True) (modulatorTable n v (latchedBefore n s v)) (initFinal n s) :=
  ((span_modulatorTable n v _ hn hv ho).mono fun _ _ => trivial).trans
    ((span_afterVoice n s hn v hv hc).mono fun _ _ => trivial)

/-- The generator after a created voice. -/
theorem genBefore_succ : genBefore n s (v + 1) = soundRng n v (latchedBefore n s v) := by
  rw [genBefore, before_succ_created n s hn v hv hc, rng_soundVoice n v _ hn]

end

/-! ## The fetches done again -/

section
variable (n : Byte) (s : State) (hn : n.toNat < 16) (v : Nat) (hv : v < 8)
  (hc : ((initFinal n.toNat s).voice n.toNat v).created = true)
include hn hv hc

theorem carrier_get : carrierGet n v (s.note n.toNat) ((initFinal n.toNat s).voice n.toNat v) =
    let b := latchedBefore n.toNat s v
    .oscGet (BitVec.ofNat 8 (b.voice n.toNat v).carrier) n (BitVec.ofNat 3 v) false (b.voice n.toNat v).useres
      (BitVec.ofNat 32 (exp2 (carrierPitch (b.note n.toNat) (b.voice n.toNat v)).val)) := by
  dsimp only
  rw [voice_initFinal_created _ s hn v hv hc, carrierGet_congr n v _ (log2freq_latchedBefore _ s hn v hv)]

theorem modulator_get : modulatorGet n v (s.note n.toNat) ((initFinal n.toNat s).voice n.toNat v) =
    let c := initCarrier n.toNat v (latchedBefore n.toNat s v)
    .oscGet (BitVec.ofNat 8 (c.voice n.toNat v).modulator) n (BitVec.ofNat 3 v) true false
      (BitVec.ofNat 32 (exp2 (modulatorPitch (c.note n.toNat) (c.voice n.toNat v)).val)) := by
  dsimp only
  rw [voice_initFinal_created _ s hn v hv hc, voice_initCarrier _ v _ hn,
    modulatorGet_congr n v _ (log2freq_carrierBefore _ s hn v hv)]

theorem carrier_again (hb : s.BanksWritten) : let t := initFinal n.toNat s
    let D := carrierFetched n.toNat v (latchedBefore n.toNat s v)
    let get := carrierGet n v (s.note n.toNat) (t.voice n.toNat v)
    (∃ u, exec get (t.setRng n.toNat (genBefore n.toNat s v)) = .next u ∧
      u.cells (vwaveAddr n.toNat v false) 1024 = D.words ∧ u.res0.toNat = D.off ∧ (u.note n.toNat).rng = D.rng) ∧
    (t.setRng n.toNat (genBefore n.toNat s v)).flagsOf get = D.err := by
  intro t D get
  rw [show get = _ from carrier_get n s hn v hv hc]
  exact get_again (span_sinceCarrier _ s hn v hv hc) hn (Voice.carrier_lt _) (settled_fetchTable _ _ _ (Voice.carrier_lt _))
    hv false _ (exp2_le _) (banks_carrierTable _ s hn v hv hb) (rng_carrierTable _ s v)

theorem carrierErr_again (i : Nat) (hi : i ≠ 3) : let t := initFinal n.toNat s
    (t.flagsOf (carrierGet n v (s.note n.toNat) (t.voice n.toNat v))).getLsbD i =
      (carrierFetched n.toNat v (latchedBefore n.toNat s v)).err.getLsbD i := by
  intro t
  rw [show carrierGet n v (s.note n.toNat) (t.voice n.toNat v) = _ from carrier_get n s hn v hv hc]
  exact getFlags_again (span_sinceCarrier _ s hn v hv hc) hn (Voice.carrier_lt _)
    (settled_fetchTable _ _ _ (Voice.carrier_lt _)) hv false _ (exp2_le _) i hi

variable (ho : ((latchedBefore n.toNat s v).voice n.toNat v).ownModulator = true)
include ho

theorem modulator_again (hb : s.BanksWritten) : let t := initFinal n.toNat s
    let D := modulatorFetched n.toNat v (initCarrier n.toNat v (latchedBefore n.toNat s v))
    let get := modulatorGet n v (s.note n.toNat) (t.voice n.toNat v)
    (∃ u, exec get (t.setRng n.toNat (genOwn n.toNat s v)) = .next u ∧
      u.cells (vwaveAddr n.toNat v true) 1024 = D.words ∧ u.res0.toNat = D.off ∧ (u.note n.toNat).rng = D.rng) ∧
    (t.setRng n.toNat (genOwn n.toNat s v)).flagsOf get = D.err := by
  intro t D get
  rw [show get = _ from modulator_get n s hn v hv hc]
  exact get_again (span_sinceModulator _ s hn v hv hc ho) hn (Voice.modulator_lt _)
    (settled_fetchTable _ _ _ (Voice.modulator_lt _)) hv true _ (exp2_le _) (banks_modulatorTable _ s hn v hv hb)
      (rng_modulatorTable _ s hn v)

theorem modulatorErr_again (i : Nat) (hi : i ≠ 3) : let t := initFinal n.toNat s
    (t.flagsOf (modulatorGet n v (s.note n.toNat) (t.voice n.toNat v))).getLsbD i =
      (modulatorFetched n.toNat v (initCarrier n.toNat v (latchedBefore n.toNat s v))).err.getLsbD i := by
  intro t
  rw [show modulatorGet n v (s.note n.toNat) (t.voice n.toNat v) = _ from modulator_get n s hn v hv hc]
  exact getFlags_again (span_sinceModulator _ s hn v hv hc ho) hn (Voice.modulator_lt _)
    (settled_fetchTable _ _ _ (Voice.modulator_lt _)) hv true _ (exp2_le _) i hi

end

end Sys2Proof.Machine
end

section
/-! PROOFS. Where each flag of NOTE.INIT comes from (R311 to R317). -/

namespace Sys2Proof.Machine

/-! ## The flags of a fetch -/

section
variable {n o i : Nat} {V : Nat → Prop} {s c b : State} {useres : Bool} {p : Sat Int}

theorem fetchFlags_iff : (fetchFlags o n useres p b).getLsbD i = true ↔ (i = 3 ∧ p.sat = true ∨
    (fetched o n useres p b).err.getLsbD i = true) ∨ b.unsettled o = true ∧ (prepFlags b o).getLsbD i = true := by
  rw [fetchFlags, BitVec.getLsbD_or, BitVec.getLsbD_or, Bool.or_eq_true, Bool.or_eq_true, getLsbD_flag, Bool.and_eq_true,
    decide_eq_true_iff, and_comm (a := p.sat = true), show ErrBit.sat.pos = 3 from rfl]
  cases b.unsettled o with
  | true => simp only [if_true, true_and]; tauto
  | false => simp

/-- A flag of a fetch was raised by its pitch, its delivery, or a preparation that was due before the stretch. -/
theorem fetchFlags_cases (ho : o < 16) (hosc : c.osc o = s.osc o) (hmem : ∀ x, c.mem.byte? x = s.mem.byte? x)
    (h : Span n V c b) (hi : i ≠ 3 ∨ (s.unsettled o = true → s.Written (hmagAddr o) 256))
    (hf : (fetchFlags o n useres p b).getLsbD i = true) :
    (i = 3 ∧ p.sat = true ∨ (fetched o n useres p b).err.getLsbD i = true) ∨
      s.unsettled o = true ∧ (prepFlags s o).getLsbD i = true :=
  (fetchFlags_iff.1 hf).imp_right fun ⟨hu, hp⟩ => prepFlags_earlier ho hosc hmem h hu hi hp

end

/-! ## All flags -/

section
variable (n : Nat) (s : State)

/-- A flag that the carrier's fetch of voice v raises by its pitch or its delivery. -/
def carrierRaises (v i : Nat) : Prop :=
  i = 3 ∧ (carrierPitch (s.note n) ((initFinal n s).voice n v)).sat = true ∨
    (carrierFetched n v (latchedBefore n s v)).err.getLsbD i = true

/-- A flag that the modulator's fetch of voice v raises by its pitch or its delivery. -/
def modulatorRaises (v i : Nat) : Prop :=
  i = 3 ∧ (modulatorPitch (s.note n) ((initFinal n s).voice n v)).sat = true ∨
    (modulatorFetched n v (initCarrier n v (latchedBefore n s v))).err.getLsbD i = true

theorem soundFlags_iff (b : State) (v i : Nat) : (soundFlags n v b).getLsbD i = true ↔
    (carrierFlags n v b).getLsbD i = true ∨
      (b.voice n v).ownModulator = true ∧ (modulatorFlags n v (initCarrier n v b)).getLsbD i = true := by
  rw [soundFlags, BitVec.getLsbD_or, Bool.or_eq_true]
  cases (b.voice n v).ownModulator with
  | true => simp only [if_true, true_and]
  | false => simp

variable (hn : n < 16)
include hn

theorem err_before_iff (v i : Nat) (hv : v ≤ 8) : (before n s v).err.getLsbD i = true ↔
    (s.err.getLsbD i = true ∨ (constructFlags n s).getLsbD i = true) ∨
      ∃ u, u < v ∧ (turnFlags n u (before n s u)).getLsbD i = true := by
  induction v with
  | zero =>
    rw [before_zero, err_noteConstruct, BitVec.getLsbD_or, Bool.or_eq_true]
    simp
  | succ v ih =>
    rw [before_succ, err_initVoice n v hn (by omega), BitVec.getLsbD_or, Bool.or_eq_true, ← before, ih (by omega), or_assoc]
    refine or_congr_right ?_
    constructor
    · rintro (⟨u, hu, h⟩ | h)
      · exact ⟨u, by omega, h⟩
      · exact ⟨v, by omega, h⟩
    · rintro ⟨u, hu, h⟩
      rcases Nat.lt_succ_iff_lt_or_eq.1 hu with hu | rfl
      · exact .inl ⟨u, hu, h⟩
      · exact .inr h

theorem turnFlags_iff (v i : Nat) (hv : v < 8) : (turnFlags n v (before n s v)).getLsbD i = true ↔
    (i = 0 ∧ (before n s v).drops n v = true) ∨ ((initFinal n s).voice n v).created = true ∧
      ((builtFlags n v (before n s v)).getLsbD i = true ∨ (soundFlags n v (latchedBefore n s v)).getLsbD i = true) := by
  unfold turnFlags
  rw [created_initFinal n s hn v hv]
  rcases turn_cases n v (before n s v) with ⟨hc, hd, _⟩ | ⟨hc, hd, _⟩ | ⟨hc, hd, _⟩ <;> rw [hc, hd]
  · rw [if_pos rfl, BitVec.getLsbD_or, Bool.or_eq_true]
    simp only [Bool.false_eq_true, and_false, false_or, true_and]
    rfl
  · rw [if_neg (by decide), getLsbD_flag, Bool.true_and, decide_eq_true_iff]
    simp only [Bool.false_eq_true, false_and, or_false, and_true]
    rfl
  · rw [if_neg (by decide), flag_false]
    simp

section
variable (v : Nat) (hv : v < 8) (hc : ((initFinal n s).voice n v).created = true)
include hv hc

theorem carrier_initFinal : ((initFinal n s).voice n v).carrier = ((latchedBefore n s v).voice n v).carrier ∧
    ((initFinal n s).voice n v).modulator = ((initCarrier n v (latchedBefore n s v)).voice n v).modulator ∧
    ((initFinal n s).voice n v).ownModulator = ((latchedBefore n s v).voice n v).ownModulator ∧
    ((initFinal n s).voice n v).usize = ((latchedBefore n s v).voice n v).usize := by
  rw [voice_initFinal_created n s hn v hv hc, voice_initCarrier n v _ hn]
  exact ⟨rfl, rfl, rfl, rfl⟩

theorem pitches_initFinal :
    carrierPitch (s.note n) ((initFinal n s).voice n v) =
      carrierPitch ((latchedBefore n s v).note n) ((latchedBefore n s v).voice n v) ∧
    modulatorPitch (s.note n) ((initFinal n s).voice n v) =
      modulatorPitch ((initCarrier n v (latchedBefore n s v)).note n) ((initCarrier n v (latchedBefore n s v)).voice n v) := by
  rw [voice_initFinal_created n s hn v hv hc, voice_initCarrier n v _ hn,
    carrierPitch_congr _ (log2freq_latchedBefore n s hn v hv), modulatorPitch_congr _ (log2freq_carrierBefore n s hn v hv)]
  exact ⟨rfl, rfl⟩

/-- The fetches of a created voice raise what their pitches and deliveries raise, and preparations that were due. -/
theorem carrierFlags_of (i : Nat) (h : carrierRaises n s v i) : (carrierFlags n v (latchedBefore n s v)).getLsbD i = true := by
  unfold carrierRaises at h
  rw [(pitches_initFinal n s hn v hv hc).1] at h
  exact fetchFlags_iff.2 (.inl h)

theorem modulatorFlags_of (i : Nat) (h : modulatorRaises n s v i) :
    (modulatorFlags n v (initCarrier n v (latchedBefore n s v))).getLsbD i = true := by
  unfold modulatorRaises at h
  rw [(pitches_initFinal n s hn v hv hc).2] at h
  exact fetchFlags_iff.2 (.inl h)

theorem carrierFlags_cases (i : Nat) (hi : i ≠ 3 ∨ ∀ o, o < 16 → (initFinal n s).takes n o → s.unsettled o = true →
      s.Written (hmagAddr o) 256) (h : (carrierFlags n v (latchedBefore n s v)).getLsbD i = true) :
    carrierRaises n s v i ∨ let o := ((initFinal n s).voice n v).carrier
      s.unsettled o = true ∧ (prepFlags s o).getLsbD i = true := by
  have hcar := (carrier_initFinal n s hn v hv hc).1
  obtain ⟨hosc, hmem⟩ := construct_osc_mem n s
  unfold carrierRaises
  rw [(pitches_initFinal n s hn v hv hc).1, hcar]
  exact fetchFlags_cases (Voice.carrier_lt _) (hosc _) hmem (span_latchedBefore n s hn v hv)
    (hi.imp_right fun k => k _ (Voice.carrier_lt _) ⟨v, hv, hc, .inl hcar.symm⟩) h

theorem modulatorFlags_cases (i : Nat) (ho : ((initFinal n s).voice n v).ownModulator = true)
    (hi : i ≠ 3 ∨ ∀ o, o < 16 → (initFinal n s).takes n o → s.unsettled o = true → s.Written (hmagAddr o) 256)
    (h : (modulatorFlags n v (initCarrier n v (latchedBefore n s v))).getLsbD i = true) :
    modulatorRaises n s v i ∨ let o := ((initFinal n s).voice n v).modulator
      s.unsettled o = true ∧ (prepFlags s o).getLsbD i = true := by
  have hmod := (carrier_initFinal n s hn v hv hc).2.1
  obtain ⟨hosc, hmem⟩ := construct_osc_mem n s
  unfold modulatorRaises
  rw [(pitches_initFinal n s hn v hv hc).2, hmod]
  exact fetchFlags_cases (Voice.modulator_lt _) (hosc _) hmem (span_carrierBefore n s hn v hv)
    (hi.imp_right fun k => k _ (Voice.modulator_lt _) ⟨v, hv, hc, .inr ⟨ho, hmod.symm⟩⟩) h

end

/-- Every oscillator that a created voice takes is settled after NOTE.INIT (R189). -/
theorem settled_of_takes (o : Nat) (h : (initFinal n s).takes n o) : (initFinal n s).unsettled o = false := by
  obtain ⟨v, hv, hc, rfl | ⟨ho, rfl⟩⟩ := h
  · rw [(carrier_initFinal n s hn v hv hc).1]
    exact (span_sinceCarrier n s hn v hv hc).stillSettled (Voice.carrier_lt _) (settled_fetchTable _ _ _ (Voice.carrier_lt _))
  · obtain ⟨_, hmod, hown, _⟩ := carrier_initFinal n s hn v hv hc
    rw [hmod]
    exact (span_sinceModulator n s hn v hv hc (hown ▸ ho)).stillSettled (Voice.modulator_lt _)
      (settled_fetchTable _ _ _ (Voice.modulator_lt _))

/-- Where the flags of NOTE.INIT come from: the note-level construction, dropped voices, the construction of the created
ones, the preparations that were due, the pitches and deliveries of the fetches. -/
theorem err_initFinal_iff (i : Nat) (hi : i ≠ 3 ∨ ∀ o, o < 16 → (initFinal n s).takes n o → s.unsettled o = true →
    s.Written (hmagAddr o) 256) : (initFinal n s).err.getLsbD i = true ↔
    (s.err.getLsbD i = true ∨ (constructFlags n s).getLsbD i = true) ∨
    (i = 0 ∧ ∃ v, v < 8 ∧ (before n s v).drops n v = true) ∨
    (∃ v, v < 8 ∧ ((initFinal n s).voice n v).created = true ∧ (builtFlags n v (before n s v)).getLsbD i = true) ∨
    (∃ o, o < 16 ∧ (initFinal n s).takes n o ∧ s.unsettled o = true ∧ (prepFlags s o).getLsbD i = true) ∨
    ∃ v, v < 8 ∧ ((initFinal n s).voice n v).created = true ∧ (carrierRaises n s v i ∨
      ((initFinal n s).voice n v).ownModulator = true ∧ modulatorRaises n s v i) := by
  have herr : (initFinal n s).err.getLsbD i = true ↔ (before n s 8).err.getLsbD i = true := by
    rw [(initFinal_keeps n s).2.1]
  rw [herr, err_before_iff n s hn 8 i le_rfl]
  constructor
  · rintro (h | ⟨v, hv, h⟩)
    · exact .inl h
    · refine .inr ?_
      rcases (turnFlags_iff n s hn v i hv).1 h with ⟨h0, hd⟩ | ⟨hc, hb | hs⟩
      · exact .inl ⟨h0, v, hv, hd⟩
      · exact .inr (.inl ⟨v, hv, hc, hb⟩)
      · refine .inr (.inr ?_)
        rcases (soundFlags_iff n _ v i).1 hs with hf | ⟨ho, hf⟩
        · rcases carrierFlags_cases n s hn v hv hc i hi hf with hr | hp
          · exact .inr ⟨v, hv, hc, .inl hr⟩
          · exact .inl ⟨_, Voice.carrier_lt _, ⟨v, hv, hc, .inl rfl⟩, hp⟩
        · have ho' : ((initFinal n s).voice n v).ownModulator = true := by
            rw [(carrier_initFinal n s hn v hv hc).2.2.1, ho]
          rcases modulatorFlags_cases n s hn v hv hc i ho' hi hf with hr | hp
          · exact .inr ⟨v, hv, hc, .inr ⟨ho', hr⟩⟩
          · exact .inl ⟨_, Voice.modulator_lt _, ⟨v, hv, hc, .inr ⟨ho', rfl⟩⟩, hp⟩
  · have turn : ∀ v, v < 8 → (turnFlags n v (before n s v)).getLsbD i = true → (s.err.getLsbD i = true ∨
        (constructFlags n s).getLsbD i = true) ∨ ∃ u, u < 8 ∧ (turnFlags n u (before n s u)).getLsbD i = true :=
      fun v hv h => .inr ⟨v, hv, h⟩
    rintro (h | ⟨h0, v, hv, hd⟩ | ⟨v, hv, hc, hb⟩ | ⟨o, ho, ht, hu, hp⟩ | ⟨v, hv, hc, hf⟩)
    · exact .inl h
    · exact turn v hv ((turnFlags_iff n s hn v i hv).2 (.inl ⟨h0, hd⟩))
    · exact turn v hv ((turnFlags_iff n s hn v i hv).2 (.inr ⟨hc, .inl hb⟩))
    · obtain ⟨hosc, hmem⟩ := construct_osc_mem n s
      rw [← err_before_iff n s hn 8 i le_rfl, ← herr]
      exact prepFlags_later ho (hosc o) hmem (before_zero n s ▸ span_initFinal n s hn 0 (Nat.zero_le _)) hu
        (settled_of_takes n s hn o ht) (hi.imp_right fun k => k o ho ht hu) hp
    · refine turn v hv ((turnFlags_iff n s hn v i hv).2 (.inr ⟨hc, .inr ((soundFlags_iff n _ v i).2 ?_)⟩))
      rcases hf with hf | ⟨ho, hf⟩
      · exact .inl (carrierFlags_of n s hn v hv hc i hf)
      · exact .inr ⟨(carrier_initFinal n s hn v hv hc).2.2.1 ▸ ho, modulatorFlags_of n s hn v hv hc i hf⟩

end

/-- The flags of a voice's construction, as the commands raise them on the state before NOTE.INIT (R314, R315). -/
theorem builtFlags_before_iff (n : Byte) (s : State) (hn : n.toNat < 16) (v i : Nat) (hv : v < 8)
    (hc : ((initFinal n.toNat s).voice n.toNat v).created = true) :
    (builtFlags n.toNat v (before n.toNat s v)).getLsbD i = true ↔
      i = 1 ∧ (((initFinal n.toNat s).voice n.toNat v).topo.toNat ≠ (s.voice n.toNat v).ctrlTopo ∨
        ((initFinal n.toNat s).voice n.toNat v).usize ≠ (s.voice n.toNat v).unisize) ∨
      (∃ j, j < 3 ∧ ((s.flagsOf (.envReset n (BitVec.ofNat 8 (3 + 3 * v + j)))).getLsbD i = true ∨
        (s.flagsOf (.lfoReset n (BitVec.ofNat 8 (3 + 3 * v + j)))).getLsbD i = true)) ∨
      ((s.flagsOf (.fltCleanup n (BitVec.ofNat 8 (2 + 2 * v)))).getLsbD i = true ∨
        (s.flagsOf (.fltCleanup n (BitVec.ofNat 8 (3 + 2 * v)))).getLsbD i = true) := by
  have htopo : ((initFinal n.toNat s).voice n.toNat v).topo.toNat =
      validTopology ((before n.toNat s v).note n.toNat) v (s.voice n.toNat v) := by
    have hle := validTopology_le ((before n.toNat s v).note n.toNat) v (s.voice n.toNat v)
    rw [voice_created _ s hn v hv hc]
    exact (BitVec.toNat_ofNat _ _).trans (Nat.mod_eq_of_lt (by omega))
  have husize : ((initFinal n.toNat s).voice n.toNat v).usize = validUnison (s.voice n.toNat v).unisize := by
    rw [voice_created _ s hn v hv hc]; rfl
  have hslot : ∀ j, j < 3 →
      (before n.toNat s v).flagsOf (.envReset n (BitVec.ofNat 8 (3 + 3 * v + j))) =
        s.flagsOf (.envReset n (BitVec.ofNat 8 (3 + 3 * v + j))) ∧
      (before n.toNat s v).flagsOf (.lfoReset n (BitVec.ofNat 8 (3 + 3 * v + j))) =
        s.flagsOf (.lfoReset n (BitVec.ofNat 8 (3 + 3 * v + j))) := fun j hj => by
    obtain ⟨he, hl⟩ := slots_before _ s hn v hv (3 + 3 * v + j) (by omega)
    rw [flagsOf_envReset n _ _ hn (by omega), flagsOf_envReset n _ _ hn (by omega), flagsOf_lfoReset n _ _ hn (by omega),
      flagsOf_lfoReset n _ _ hn (by omega), he, hl]
    exact ⟨rfl, rfl⟩
  have hflt : ∀ f, 2 + 2 * v ≤ f → f < 18 → (before n.toNat s v).flagsOf (.fltCleanup n (BitVec.ofNat 8 f)) =
      s.flagsOf (.fltCleanup n (BitVec.ofNat 8 f)) := fun f h2 h18 => by
    rw [flagsOf_fltCleanup n _ _ hn h18, flagsOf_fltCleanup n _ _ hn h18, flt_before _ s hn v hv f h2]
  rw [builtFlags_iff n v _ i hn hv, voice_before _ s hn v v (by omega) le_rfl, htopo, husize, hflt _ le_rfl (by omega),
    hflt (3 + 2 * v) (by omega) (by omega)]
  refine or_congr_right (or_congr_left (exists_congr fun j => and_congr_right fun hj => ?_))
  rw [(hslot j hj).1, (hslot j hj).2]

end Sys2Proof.Machine
end

section
/-! PROOFS. NOTE.INIT on an inactive slot (R311 to R318): the clauses of its result, and O46. -/

namespace Sys2Proof.Machine

theorem startAmps_taken_ite (y : Voice) (P : Prop) [Decidable P] (m : Nat) : (y.taken (if P then 0 else m)).startAmps =
    { (y.taken 0).startAmps with topo := if P then 0 else BitVec.ofNat 3 m } := by split <;> rfl

/-- The sources of the flags, by commands instead of by turns. -/
theorem flag_sources_regroup {A K F D L VK VF P G : Prop} : (A ∨ K ∨ F) ∨ D ∨ (L ∨ VK ∨ VF) ∨ P ∨ G ↔
    A ∨ D ∨ L ∨ (K ∨ VK) ∨ (F ∨ VF) ∨ P ∨ G := by tauto

section
variable (n : Byte) (s : State) (hn : n.toNat < 16)
include hn

/-! ## Registers and budget -/

theorem registers_initFinal : let t := initFinal n.toNat s
    let x := s.note n.toNat
    (t.note n.toNat).nstat = ⟨true, false, false, true, false⟩ ∧
      (t.note n.toNat).legstate = .normal ∧ (t.note n.toNat).silent = x.nctrl.getLsbD 0 ∧
      (t.note n.toNat).legcount = 0 ∧ (t.note n.toNat).legpitch = x.log2freq ∧
      (t.note n.toNat).legvel = x.velocity ∧ (t.note n.toNat).gampold = 0 ∧ (t.note n.toNat).gampnew = 0 ∧
      (t.note n.toNat).log2freq = x.log2freq ∧ (t.note n.toNat).velocity = x.velocity ∧
      (t.note n.toNat).cutoff = x.cutoff := by
  have h := head_initFinal n.toNat s hn
  obtain ⟨h1, h2⟩ := amp_initFinal n.toNat s hn
  exact ⟨(congrArg Note.nstat h :), (congrArg Note.legstate h :), (congrArg Note.silent h :), (congrArg Note.legcount h :),
    (congrArg Note.legpitch h :), (congrArg Note.legvel h :), h1, h2, (congrArg Note.log2freq h :),
    (congrArg Note.velocity h :), (congrArg Note.cutoff h :)⟩

/-- A voice is dropped exactly when more voices are enabled than fit (R313). -/
theorem exists_dropped : (∃ v, v < 8 ∧ (before n.toNat s v).drops n.toNat v = true) ↔ s.room < s.enabledBelow n.toNat 8 := by
  rw [State.enabledBelow, ← exists_rejected]
  exact exists_congr fun v => and_congr_right fun hv => (creates_iff n.toNat s hn v hv).2

theorem budget_initFinal : let t := initFinal n.toNat s
    let enabled := s.enabledBelow n.toNat 8
    t.res0 = BitVec.ofNat 32 (min enabled s.room) ∧ t.res1 = BitVec.ofNat 32 (enabled - min enabled s.room) ∧
      t.nvoices.toNat = s.nvoices.toNat + min enabled s.room ∧
      (t.note n.toNat).createdCount = min enabled s.room ∧ (enabled ≤ s.room ∨ t.err.getLsbD 0 = true) := by
  obtain ⟨h1, h2, h3⟩ := budget_before n.toNat s hn 8 le_rfl
  obtain ⟨r0, r1⟩ := results_initFinal n.toNat s
  refine ⟨by rw [r0, h2], by rw [r1, h3], by rw [(initFinal_keeps n.toNat s).2.2.1, h1], createdCount_initFinal n.toNat s hn, ?_⟩
  rcases Nat.lt_or_ge s.room (s.enabledBelow n.toNat 8) with h | h
  · exact .inr ((err_initFinal_iff n.toNat s hn 0 (.inl (by decide))).2 (.inr (.inl ⟨rfl, (exists_dropped n s hn).2 h⟩)))
  · exact .inl h

/-! ## Voices, sources, filters -/

theorem voices_initFinal (v : Nat) (hv : v < 8) : let t := initFinal n.toNat s
    let y := s.voice n.toNat v
    let z := t.voice n.toNat v
    let w := y.modvoice
    (z.created = true ↔ y.enabled = true ∧ s.enabledBelow n.toNat v < s.room) ∧
    (z.created = false → z = { y with created := false, finished := false, first := false }) ∧
    (z.created = true → z = { y with
      created := true, first := true, finished := false, vampold := 0, vampnew := 0, modampold := y.modamp
      usize := if y.unisize = 0 then 1 else if 50 < y.unisize.toNat then 50 else y.unisize
      modext := y.ctrlModext
      topo := if 4 < y.ctrlTopo ∨ y.ctrlTopo ≠ 0 ∧ y.ctrlModext = true ∧ (v ≤ w ∨
        (t.voice n.toNat w).created = false ∨ (s.voice n.toNat w).dest = false) then 0
        else BitVec.ofNat 3 y.ctrlTopo }) := by
  intro t y z w
  refine ⟨created_iff n.toNat s hn v hv, fun h => voice_uncreated n.toNat s hn v hv h, fun h => ?_⟩
  rw [show z = _ from voice_created n.toNat s hn v hv h, validTopology_before n.toNat s hn v hv, startAmps_taken_ite]
  rfl

theorem sources_initFinal (k : Nat) (hk : k < 27) : let t := initFinal n.toNat s
    if k < 3 ∨ (t.voice n.toNat ((k - 3) / 3)).created = true then
      (s.Written (valAddr n.toNat k 0) 1 →
        ∃ u, exec (.envReset n (BitVec.ofNat 8 k)) s = .next u ∧ t.env n.toNat k = u.env n.toNat k) ∧
      ∃ u, exec (.lfoReset n (BitVec.ofNat 8 k)) s = .next u ∧ t.lfo n.toNat k = u.lfo n.toNat k
    else t.env n.toNat k = s.env n.toNat k ∧ t.lfo n.toNat k = s.lfo n.toNat k := by
  intro t
  have h := slots_initFinal n.toNat s hn k hk
  split
  · next hc =>
    rw [if_pos hc] at h
    refine ⟨fun hw => ⟨_, exec_envReset n k s hn hk, ?_⟩, _, exec_lfoReset n k s hn hk, ?_⟩
    · rw [(advance_env _ _ _).1, env_envReset s hn hk]
      exact h.1 hw
    · rw [(advance_env _ _ _).2.1, lfo_lfoReset s hn hk]
      exact h.2
  · next hc => rwa [if_neg hc] at h

theorem filters_initFinal (f : Nat) (hf : f < 18) : let t := initFinal n.toNat s
    if f < 2 ∨ (t.voice n.toNat ((f - 2) / 2)).created = true then
      ∃ u, exec (.fltCleanup n (BitVec.ofNat 8 f)) s = .next u ∧ t.flt n.toNat f = u.flt n.toNat f
    else t.flt n.toNat f = s.flt n.toNat f := by
  intro t
  have h := flt_initFinal n.toNat s hn f hf
  split
  · next hc =>
    rw [if_pos hc] at h
    refine ⟨_, exec_fltCleanup n f s hn hf, ?_⟩
    rw [flt_advance, flt_cleanup s hn hf]
    exact h
  · next hc => rwa [if_neg hc] at h

/-! ## Flags -/

/-- The flags besides ERR.SAT, as the commands that NOTE.INIT performs raise them. -/
theorem flags_initFinal (i : Nat) (hi : i ≠ 3) : let t := initFinal n.toNat s
    let x := s.note n.toNat
    let fresh := fun k => k < 3 ∨ (t.voice n.toNat ((k - 3) / 3)).created = true
    (t.err.getLsbD i = true ↔ s.err.getLsbD i = true ∨ i = 0 ∧ s.room < s.enabledBelow n.toNat 8 ∨
      i = 1 ∧ (∃ v, v < 8 ∧ (t.voice n.toNat v).created = true ∧
        ((t.voice n.toNat v).topo.toNat ≠ (s.voice n.toNat v).ctrlTopo ∨
          (t.voice n.toNat v).usize ≠ (s.voice n.toNat v).unisize)) ∨
      (∃ k, k < 27 ∧ fresh k ∧ ((s.flagsOf (.envReset n (BitVec.ofNat 8 k))).getLsbD i = true ∨
        (s.flagsOf (.lfoReset n (BitVec.ofNat 8 k))).getLsbD i = true)) ∨
      (∃ f, f < 18 ∧ (f < 2 ∨ (t.voice n.toNat ((f - 2) / 2)).created = true) ∧
        (s.flagsOf (.fltCleanup n (BitVec.ofNat 8 f))).getLsbD i = true) ∨
      (∃ o, o < 16 ∧ t.takes n.toNat o ∧ (s.osc o).job = none ∧
        (s.flagsOf (.oscPrepare (BitVec.ofNat 8 o))).getLsbD i = true) ∨
      ∃ v, v < 8 ∧ (t.voice n.toNat v).created = true ∧
        ((t.flagsOf (carrierGet n v x (t.voice n.toNat v))).getLsbD i = true ∨
          (t.voice n.toNat v).ownModulator = true ∧
            (t.flagsOf (modulatorGet n v x (t.voice n.toNat v))).getLsbD i = true)) := by
  intro t x fresh
  have hbuilt := fun v hv hc => builtFlags_before_iff n s hn v i hv hc
  have hprep : (∃ o, o < 16 ∧ t.takes n.toNat o ∧ (s.osc o).job = none ∧
      (s.flagsOf (.oscPrepare (BitVec.ofNat 8 o))).getLsbD i = true) ↔
      ∃ o, o < 16 ∧ t.takes n.toNat o ∧ s.unsettled o = true ∧ (prepFlags s o).getLsbD i = true :=
    exists_congr fun o => and_congr_right fun ho => and_congr_right fun _ => prepare_flags_iff ho
  have hget : (∃ v, v < 8 ∧ (t.voice n.toNat v).created = true ∧
        ((t.flagsOf (carrierGet n v x (t.voice n.toNat v))).getLsbD i = true ∨
          (t.voice n.toNat v).ownModulator = true ∧
            (t.flagsOf (modulatorGet n v x (t.voice n.toNat v))).getLsbD i = true)) ↔
      ∃ v, v < 8 ∧ (t.voice n.toNat v).created = true ∧ (carrierRaises n.toNat s v i ∨
        (t.voice n.toNat v).ownModulator = true ∧ modulatorRaises n.toNat s v i) := by
    refine exists_congr fun v => and_congr_right fun hv => and_congr_right fun hc => or_congr ?_ (and_congr_right fun ho => ?_)
    · rw [carrierErr_again n s hn v hv hc i hi, carrierRaises]
      simp only [hi, false_and, false_or]
    · have ho' := (carrier_initFinal n.toNat s hn v hv hc).2.2.1 ▸ ho
      rw [modulatorErr_again n s hn v hv hc ho' i hi, modulatorRaises]
      simp only [hi, false_and, false_or]
  have hvoices : (∃ v, v < 8 ∧ (t.voice n.toNat v).created = true ∧ (builtFlags n.toNat v (before n.toNat s v)).getLsbD i = true) ↔
      i = 1 ∧ (∃ v, v < 8 ∧ (t.voice n.toNat v).created = true ∧
        ((t.voice n.toNat v).topo.toNat ≠ (s.voice n.toNat v).ctrlTopo ∨
          (t.voice n.toNat v).usize ≠ (s.voice n.toNat v).unisize)) ∨
      (∃ v, v < 8 ∧ (t.voice n.toNat v).created = true ∧ ∃ j, j < 3 ∧
        ((s.flagsOf (.envReset n (BitVec.ofNat 8 (3 + 3 * v + j)))).getLsbD i = true ∨
          (s.flagsOf (.lfoReset n (BitVec.ofNat 8 (3 + 3 * v + j)))).getLsbD i = true)) ∨
      ∃ v, v < 8 ∧ (t.voice n.toNat v).created = true ∧
        ((s.flagsOf (.fltCleanup n (BitVec.ofNat 8 (2 + 2 * v)))).getLsbD i = true ∨
          (s.flagsOf (.fltCleanup n (BitVec.ofNat 8 (3 + 2 * v)))).getLsbD i = true) := by
    constructor
    · rintro ⟨v, hv, hc, hb⟩
      rcases (hbuilt v hv hc).1 hb with ⟨h1, h⟩ | h | h
      · exact .inl ⟨h1, v, hv, hc, h⟩
      · exact .inr (.inl ⟨v, hv, hc, h⟩)
      · exact .inr (.inr ⟨v, hv, hc, h⟩)
    · rintro (⟨h1, v, hv, hc, h⟩ | ⟨v, hv, hc, h⟩ | ⟨v, hv, hc, h⟩)
      · exact ⟨v, hv, hc, (hbuilt v hv hc).2 (.inl ⟨h1, h⟩)⟩
      · exact ⟨v, hv, hc, (hbuilt v hv hc).2 (.inr (.inl h))⟩
      · exact ⟨v, hv, hc, (hbuilt v hv hc).2 (.inr (.inr h))⟩
  rw [hprep, hget, exists_slot_iff (fun v => (t.voice n.toNat v).created = true) fun k =>
      (s.flagsOf (.envReset n (BitVec.ofNat 8 k))).getLsbD i = true ∨ (s.flagsOf (.lfoReset n (BitVec.ofNat 8 k))).getLsbD i = true,
    exists_filter_iff (fun v => (t.voice n.toNat v).created = true) fun f =>
      (s.flagsOf (.fltCleanup n (BitVec.ofNat 8 f))).getLsbD i = true,
    err_initFinal_iff n.toNat s hn i (.inl hi), hvoices, constructFlags_iff n s i hn, exists_dropped n s hn]
  exact flag_sources_regroup

/-- ERR.SAT (R187, R188, R316, R317). -/
theorem sat_initFinal (hb : s.BanksWritten) (htab : ∀ o, o < 16 → (initFinal n.toNat s).takes n.toNat o →
      (s.osc o).dirty = true → (s.osc o).job = none → s.Written (hmagAddr o) 256) : let t := initFinal n.toNat s
    let x := s.note n.toNat
    (t.err.getLsbD 3 = true ↔ s.err.getLsbD 3 = true ∨ ∃ v, v < 8 ∧ (t.voice n.toNat v).created = true ∧
      let y := t.voice n.toNat v
      let saturates := fun (o : Nat) (pitch : Sat Int) (get : Instr) (rng : Word) => pitch.sat = true ∨
        (s.osc o).job = none ∧ (s.flagsOf (.oscPrepare (BitVec.ofNat 8 o))).getLsbD 3 = true ∨
        ((t.setRng n.toNat rng).flagsOf get).getLsbD 3 = true
      saturates y.carrier (carrierPitch x y) (carrierGet n v x y) (genBefore n.toNat s v) ∨
        y.ownModulator = true ∧
          saturates y.modulator (modulatorPitch x y) (modulatorGet n v x y) (genOwn n.toNat s v)) := by
  intro t x
  have htab' : ∀ o, o < 16 → t.takes n.toNat o → s.unsettled o = true → s.Written (hmagAddr o) 256 := fun o ho ht hu => by
    rw [State.unsettled, Bool.and_eq_true, Option.isNone_iff_eq_none] at hu
    exact htab o ho ht hu.1 hu.2
  have hcar : ∀ v, v < 8 → (t.voice n.toNat v).created = true → (((t.setRng n.toNat (genBefore n.toNat s v)).flagsOf
      (carrierGet n v x (t.voice n.toNat v))).getLsbD 3 = true ↔
        (carrierFetched n.toNat v (latchedBefore n.toNat s v)).err.getLsbD 3 = true) := fun v hv hc => by
    rw [(carrier_again n s hn v hv hc hb).2]
  have hmod : ∀ v, v < 8 → (t.voice n.toNat v).created = true → (t.voice n.toNat v).ownModulator = true →
      (((t.setRng n.toNat (genOwn n.toNat s v)).flagsOf (modulatorGet n v x (t.voice n.toNat v))).getLsbD 3 = true ↔
        (modulatorFetched n.toNat v (initCarrier n.toNat v (latchedBefore n.toNat s v))).err.getLsbD 3 = true) :=
    fun v hv hc ho => by
    rw [(modulator_again n s hn v hv hc ((carrier_initFinal n.toNat s hn v hv hc).2.2.1 ▸ ho) hb).2]
  rw [err_initFinal_iff n.toNat s hn 3 (.inr htab')]
  dsimp only
  constructor
  · rintro ((h | h) | ⟨h, _⟩ | ⟨v, hv, hc, h⟩ | ⟨o, ho, ⟨v, hv, hc, rfl | ⟨hown, rfl⟩⟩, hp⟩ | ⟨v, hv, hc, h⟩)
    · exact .inl h
    · rw [constructFlags_sat] at h; cases h
    · cases h
    · rw [builtFlags_sat] at h; cases h
    · exact .inr ⟨v, hv, hc, .inl (.inr (.inl ((prepare_flags_iff ho).2 hp)))⟩
    · exact .inr ⟨v, hv, hc, .inr ⟨hown, .inr (.inl ((prepare_flags_iff ho).2 hp))⟩⟩
    · refine .inr ⟨v, hv, hc, ?_⟩
      rcases h with (⟨_, h⟩ | h) | ⟨ho, ⟨_, h⟩ | h⟩
      · exact .inl (.inl h)
      · exact .inl (.inr (.inr ((hcar v hv hc).2 h)))
      · exact .inr ⟨ho, .inl h⟩
      · exact .inr ⟨ho, .inr (.inr ((hmod v hv hc ho).2 h))⟩
  · have hfetch : (∃ v, v < 8 ∧ (t.voice n.toNat v).created = true ∧ (carrierRaises n.toNat s v 3 ∨
        (t.voice n.toNat v).ownModulator = true ∧ modulatorRaises n.toNat s v 3)) → _ := fun h =>
      (.inr (.inr (.inr (.inr h))) : (s.err.getLsbD 3 = true ∨ (constructFlags n.toNat s).getLsbD 3 = true) ∨
        (3 = 0 ∧ ∃ v, v < 8 ∧ (before n.toNat s v).drops n.toNat v = true) ∨
        (∃ v, v < 8 ∧ (t.voice n.toNat v).created = true ∧ (builtFlags n.toNat v (before n.toNat s v)).getLsbD 3 = true) ∨
        (∃ o, o < 16 ∧ t.takes n.toNat o ∧ s.unsettled o = true ∧ (prepFlags s o).getLsbD 3 = true) ∨ _)
    rintro (h | ⟨v, hv, hc, (h | h | h) | ⟨ho, h | h | h⟩⟩)
    · exact .inl (.inl h)
    · exact hfetch ⟨v, hv, hc, .inl (.inl ⟨rfl, h⟩)⟩
    · exact .inr (.inr (.inr (.inl ⟨_, Voice.carrier_lt _, ⟨v, hv, hc, .inl rfl⟩, (prepare_flags_iff (Voice.carrier_lt _)).1 h⟩)))
    · exact hfetch ⟨v, hv, hc, .inl (.inr ((hcar v hv hc).1 h))⟩
    · exact hfetch ⟨v, hv, hc, .inr ⟨ho, .inl ⟨rfl, h⟩⟩⟩
    · exact .inr (.inr (.inr (.inl ⟨_, Voice.modulator_lt _, ⟨v, hv, hc, .inr ⟨ho, rfl⟩⟩,
        (prepare_flags_iff (Voice.modulator_lt _)).1 h⟩)))
    · exact hfetch ⟨v, hv, hc, .inr ⟨ho, .inr ((hmod v hv hc ho).1 h)⟩⟩

/-! ## Waveforms, phases and ratios -/

omit hn in
theorem word_of_bytes {u w : State} {a : Nat} (hb : ∀ x, wordsAt a 1 x → u.mem.byte? x = w.mem.byte? x)
    (hw : w.Written a 1) : u.Written a 1 := fun i hi => by
  rw [word?_congr _ w.mem _ fun x h1 h2 => hb x ⟨by omega, by omega⟩]
  exact hw i hi

/-- The memory of a voice is untouched before its turn. -/
theorem bytes_latchedBefore (v x : Nat) (hv : v < 8) (hx : voiceBytes n.toNat v x) :
    (latchedBefore n.toNat s v).mem.byte? x = s.mem.byte? x := by
  rw [latchedBefore, (within_latched n.toNat v _).bytes x id,
    (span_before n.toNat s hn 0 v (Nat.zero_le _) (by omega)).voiceBytes (by omega) hx, before_zero]
  exact (construct_osc_mem n.toNat s).2 x

theorem genBefore_uncreated (v : Nat) (hv : v < 8) (hc : ((initFinal n.toNat s).voice n.toNat v).created = false) :
    genBefore n.toNat s (v + 1) = genBefore n.toNat s v := by
  rw [created_initFinal n.toNat s hn v hv] at hc
  have h := rng_initVoice n.toNat v hn hv (initBefore n.toNat s v)
  rw [← before, hc, if_neg (by decide)] at h
  rw [genBefore, before_succ, h]
  rfl

/-- What the memory of a voice and the generator are after NOTE.INIT (R316, R317). -/
theorem sound_initFinal (hb : s.BanksWritten) (v : Nat) (hv : v < 8) : let t := initFinal n.toNat s
    let x := s.note n.toNat
    let y := t.voice n.toNat v
    if y.created = false then genBefore n.toNat s (v + 1) = genBefore n.toNat s v
    else ∃ u, exec (carrierGet n v x y) (t.setRng n.toNat (genBefore n.toNat s v)) = .next u ∧
      t.cells (vwaveAddr n.toNat v false) 1024 = u.cells (vwaveAddr n.toNat v false) 1024 ∧
      let further := fun k => rngAfter k (u.note n.toNat).rng
      genOwn n.toNat s v = further (y.usize.toNat - 1) ∧
      (∀ k, k < y.usize.toNat →
        t.phase n.toNat v k .phhi .phlo = (if k = 0 then u.res0.toNat
          else (u.res0.toNat + (further k).toNat % 2147483648 / 2097152) % 1024) * 16777216 ∧
        t.phase n.toNat v k .fmihi .fmilo = 0 ∧
        (y.usize = 1 → t.cell (uniAddr n.toNat v k + 0x14) = 0x01000000) ∧
        (y.usize ≠ 1 → s.Written (uniAddr n.toNat v k) 1 →
          t.cell (uniAddr n.toNat v k + 0x14) = s.cell (uniAddr n.toNat v k))) ∧
      if y.ownModulator = false then genBefore n.toNat s (v + 1) = genOwn n.toNat s v
      else ∃ w, exec (modulatorGet n v x y) (t.setRng n.toNat (genOwn n.toNat s v)) = .next w ∧
        t.cells (vwaveAddr n.toNat v true) 1024 = w.cells (vwaveAddr n.toNat v true) 1024 ∧
        (∀ k, k < y.usize.toNat → t.phase n.toNat v k .phmhi .phmlo =
          (w.res0.toNat + t.phase n.toNat v k .phhi .phlo / 16777216) % 1024 * 16777216) ∧
        genBefore n.toNat s (v + 1) = (w.note n.toNat).rng := by
  intro t x y
  split
  · next hc => exact genBefore_uncreated n s hn v hv hc
  next hc =>
    rw [Bool.not_eq_false] at hc
    have hsound := sounded_initFinal n.toNat s hn v hv hc
    obtain ⟨_, _, hown, husize⟩ := carrier_initFinal n.toNat s hn v hv hc
    obtain ⟨⟨u, hu, hwords, hoff, hrng⟩, _⟩ := carrier_again n s hn v hv hc hb
    have hlast := genBefore_succ n.toNat s hn v hv hc
    refine ⟨u, hu, hsound.carrier.trans hwords.symm, ?_, fun k hk => ?_, ?_⟩
    · rw [genOwn, hrng, ← husize]
    · have hk' : k < ((latchedBefore n.toNat s v).voice n.toNat v).usize.toNat := husize ▸ hk
      refine ⟨?_, hsound.integrator k hk', fun h1 => hsound.ratioOne k hk' (husize ▸ h1), fun h1 hw => ?_⟩
      · rw [hsound.phase k hk', hoff, hrng]
        rfl
      · have hk64 : k < 64 := lt_trans hk' (BitVec.isLt _)
        have hbytes : ∀ x, wordsAt (uniAddr n.toNat v k) 1 x → (latchedBefore n.toNat s v).mem.byte? x = s.mem.byte? x :=
          fun x hx => bytes_latchedBefore n s hn v x hv (voiceBytes_record n.toNat v (f := .rbase) hk64 hx)
        have h := hsound.ratioBase k hk' (husize ▸ h1) (word_of_bytes hbytes hw)
        rw [cell_of_written hw hbytes] at h
        exact h
    · split
      · next ho =>
        rw [show y.ownModulator = _ from hown] at ho
        rw [hlast, soundRng, ho, if_neg (by decide), genOwn]
      next ho =>
        rw [Bool.not_eq_false] at ho
        have ho' := (show y.ownModulator = _ from hown) ▸ ho
        obtain ⟨⟨w, hw, hmwords, hmoff, hmrng⟩, _⟩ := modulator_again n s hn v hv hc ho' hb
        refine ⟨w, hw, (hsound.modulator ho').trans hmwords.symm, fun k hk => ?_, ?_⟩
        · rw [hsound.modPhase ho' k (husize ▸ hk), hmoff]
        · rw [hlast, soundRng, ho', if_pos rfl, hmrng]

theorem genBefore_ends : genBefore n.toNat s 0 = (s.note n.toNat).rng ∧
    genBefore n.toNat s 8 = ((initFinal n.toNat s).note n.toNat).rng :=
  ⟨rng_before_zero n.toNat s hn, by rw [(initFinal_keeps n.toNat s).1]; rfl⟩

end

/-- Settles O46: turn by turn over the voices, each of them a stretch of state changes that keeps what its turn does not own
(`Span`), so that what a turn reads stands since before NOTE.INIT and what it leaves still stands after it. -/
theorem noteInitResult : Obligations.NoteInitResult := by
  intro n s hn ha x enabled room
  obtain ⟨r1, r2, r3, r4, r5, r6, r7, r8, r9, r10, r11⟩ := registers_initFinal n s hn
  obtain ⟨b1, b2, b3, b4, b5⟩ := budget_initFinal n s hn
  obtain ⟨g0, g8⟩ := genBefore_ends n s hn
  exact ⟨initFinal n.toNat s, exec_noteInit n s hn ha, r1, r2, r3, r4, r5, r6, r7, r8, r9, r10, r11, b1, b2, b3, b4, b5,
    fun i hi => flags_initFinal n s hn i hi, fun v hv => voices_initFinal n s hn v hv,
    fun k hk => sources_initFinal n s hn k hk, fun f hf => filters_initFinal n s hn f hf,
    fun hb => ⟨genBefore n.toNat s, genOwn n.toNat s, g0, g8, fun v hv => sound_initFinal n s hn hb v hv,
      fun htab => sat_initFinal n s hn hb htab⟩⟩

end Sys2Proof.Machine
end

section
/-! PROOFS. What one step of the block can be (R110, R138, R161): the effect of every command, and the kinds of step. -/

namespace Sys2Proof.Machine

/-! ## Commands (R138 steps 3 to 5) -/

/-- What a command does to the state once its indices and its precondition hold, before CPTR moves. -/
def commandEffect (i : Instr) (s : State) : State :=
  match i with
  | .nop => s
  | .halt => halt s
  | .oscPrepare o => oscPrepare o.toNat s
  | .oscGet o n v sel useres freq => oscGetCmd o.toNat n.toNat v.toNat sel useres freq.toNat s
  | .oscRegen o => oscRegen o.toNat s
  | .oscCancel o => oscCancel o.toNat s
  | .envReset n k => envReset n.toNat k.toNat s
  | .envOut n k => envResult n.toNat k.toNat (runEnvStep n.toNat k.toNat s)
  | .envOutdb n k => envResult n.toNat k.toNat (runEnvOutDb n.toNat k.toNat s)
  | .envRelease n k => envRelease n.toNat k.toNat s
  | .envFinish n k => envFinish n.toNat k.toNat s
  | .lfoReset n k => lfoReset n.toNat k.toNat s
  | .lfoOut n k => lfoOut n.toNat k.toNat s
  | .fltSetfreq n f freq => fltSetfreq n.toNat f.toNat freq.toNat s
  | .fltSetfq n f freq q => setCoef n.toNat f.toNat freq.toNat q.toInt s
  | .fltOut n f buf => fltOut n.toNat f.toNat (bufferAddr n.toNat buf) s
  | .fltCleanup n f => cleanup n.toNat f.toNat s
  | .noteInit n => noteInit n.toNat s
  | .noteOut n => noteOut n.toNat s
  | .noteRelease n => s.modNote n.toNat Note.release
  | .noteKill n => s.modNote n.toNat Note.kill
  | .noteLegato n pitch velocity => noteLegato n.toNat pitch velocity s
  | .noteSetvel n value => noteSetvel n.toNat value s
  | .noteSetpitch n value => noteSetpitch n.toNat value s
  | .noteSetcut n value => noteSetcut n.toNat value s
  | .noteFin n => noteFin n.toNat s
  | .mixAll mask => mixAll mask s
  | .mixClear => mixClear s

/-- The state after a command that raises no fault: CPTR moves on, but for HALT (R162, R165). -/
def completed (i : Instr) (s : State) : State := if i = .halt then halt s else (commandEffect i s).advance

theorem ranged_eq (ok : Bool) (f : State → State) (s : State) :
    ranged ok f s = .next (if ok then (f s).advance else s.raiseCmd .indexRange) := by
  cases ok <;> rfl

theorem guarded_eq (ok pre : Bool) (k : FaultKind) (f : State → State) (s : State) : guarded ok pre k f s =
    .next (if ok then (if pre then (f s).advance else s.raiseCmd k) else s.raiseCmd .indexRange) := by
  cases ok <;> cases pre <;> rfl

/-- A command whose only fault is that of an index. -/
theorem elim_of_ranged {i : Instr} {s : State} (hi : i ≠ .halt)
    (hf : faultOf i s = if i.wellFormed = false then some .indexRange else none) :
    (faultOf i s).elim (completed i s) s.raiseCmd =
      if i.wellFormed then (commandEffect i s).advance else s.raiseCmd .indexRange := by
  rw [hf, completed, if_neg hi]
  cases i.wellFormed <;> rfl

/-- A command with a precondition on its note. -/
theorem elim_of_guarded {i : Instr} {s : State} {pre : Bool} {k : FaultKind} (hi : i ≠ .halt)
    (hf : faultOf i s = if i.wellFormed = false then some .indexRange else if pre then none else some k) :
    (faultOf i s).elim (completed i s) s.raiseCmd =
      if i.wellFormed then (if pre then (commandEffect i s).advance else s.raiseCmd k) else s.raiseCmd .indexRange := by
  rw [hf, completed, if_neg hi]
  cases i.wellFormed <;> cases pre <;> rfl

/-- Every command answers a next state: its fault, if the table of R422 gives it one, or its effect (R138, R423). -/
theorem exec_eq (i : Instr) (s : State) : exec i s = .next ((faultOf i s).elim (completed i s) s.raiseCmd) := by
  cases i with
  | halt => rfl
  | noteInit n =>
    have hf : faultOf (.noteInit n) s = if (Instr.noteInit n).wellFormed = false then some .indexRange
        else if !s.active n.toNat then none else some .slotBusy := by
      rw [← Bool.cond_eq_ite (!_), Bool.cond_not, Bool.cond_eq_ite]; rfl
    rw [elim_of_guarded (by simp) hf]
    refine Eq.trans ?_ (guarded_eq _ _ _ (commandEffect _) _)
    rfl
  | noteRelease n =>
    rw [elim_of_guarded (pre := s.active n.toNat) (k := .noteInactive) (by simp) rfl]
    refine Eq.trans ?_ (guarded_eq _ _ _ (commandEffect _) _)
    rfl
  | noteKill n =>
    rw [elim_of_guarded (pre := s.active n.toNat) (k := .noteInactive) (by simp) rfl]
    refine Eq.trans ?_ (guarded_eq _ _ _ (commandEffect _) _)
    rfl
  | noteLegato n pitch velocity =>
    rw [elim_of_guarded (pre := s.active n.toNat) (k := .noteInactive) (by simp) rfl]
    refine Eq.trans ?_ (guarded_eq _ _ _ (commandEffect _) _)
    rfl
  | _ =>
    rw [elim_of_ranged (by simp) rfl]
    refine Eq.trans ?_ (ranged_eq _ (commandEffect _) _)
    rfl

/-- What a command leaves: its fault, or its effect. -/
theorem exec_cases {i : Instr} {s t : State} (h : exec i s = .next t) :
    (∃ k, t = s.raiseCmd k) ∨ faultOf i s = none ∧ t = completed i s := by
  rw [exec_eq] at h
  obtain rfl := Host.Outcome.next.inj h
  cases hf : faultOf i s with
  | none => exact .inr ⟨rfl, rfl⟩
  | some k => exact .inl ⟨k, rfl⟩

/-- A command that raises no fault has its indices in range. -/
theorem wellFormed_of_no_fault {i : Instr} {s : State} (h : faultOf i s = none) : i.wellFormed = true := by
  unfold faultOf at h
  split at h
  · cases h
  · next hw => simpa using hw

theorem noteIndexOk_iff (n : Byte) : noteIndexOk n = true ↔ n.toNat < 16 := by simp [noteIndexOk]

theorem oscIndexOk_iff (o : Byte) : oscIndexOk o = true ↔ o.toNat < 16 := by simp [oscIndexOk]

/-! ## Steps (R110, R161) -/

/-- The kinds of step: `Stepped s t` names the agent that steps from `s` to `t`, with what it finds (R110). -/
inductive Stepped (s : State) : State → Prop where
  /-- Nothing steps: only the agenda may move on. -/
  | idle (rest : List Turn) : Stepped s { s with turns := rest }
  /-- The reset input (R470). -/
  | reset (rest : List Turn) (h : s.turns = .reset :: rest) : Stepped s (State.applyReset { s with turns := rest })
  /-- A HOST access (R94). -/
  | host (a : HostAccess) (rest : List Turn) (h : s.turns = .host a :: rest) : Stepped s (hostStep a { s with turns := rest })
  /-- A worker (R205). -/
  | regen (o u : Nat) (rest : List Turn) : Stepped s (regenStep o u { s with turns := rest })
  /-- SEQ past the end of command memory (R163). -/
  | overrun (rest : List Turn) (hb : s.status.busy = true) (hc : 0x1000 ≤ s.cptr.toNat) :
    Stepped s (State.raise { s with turns := rest } .cmdPtr s.cptr 0)
  /-- SEQ fetches words that are no command (R135). -/
  | illegal (rest : List Turn) (c : Words) (hb : s.status.busy = true) (hc : s.cptr.toNat < 0x1000) :
    Stepped s ((State.latch { s with turns := rest } c).raiseCmd .illegalCommand)
  /-- SEQ fetches a command and runs it (R161). -/
  | command (rest : List Turn) (c : Words) (i : Instr) (t : State) (hb : s.status.busy = true)
    (hc : s.cptr.toNat < 0x1000) (h : exec i (State.latch { s with turns := rest } c) = .next t) : Stepped s t

theorem stepped_seqStep {s t : State} {rest : List Turn} (hb : s.status.busy = true)
    (h : seqStep { s with turns := rest } = .next t) : Stepped s t := by
  unfold seqStep at h
  split at h
  · next hc => exact Host.Outcome.next.inj h ▸ .overrun rest hb hc
  · next hc =>
    split at h
    · next c _ =>
      unfold runWords at h
      split at h
      · next i _ => exact .command rest c i t hb (by simpa using hc) h
      · exact Host.Outcome.next.inj h ▸ .illegal rest c hb (by simpa using hc)
    · cases h

theorem stepped_regenIdle (s : State) : Stepped s (regenIdle s) := by
  unfold regenIdle
  split
  · exact .idle s.turns
  · exact .regen _ _ s.turns

/-- Every step is one of these kinds. -/
theorem stepped_of_step {s t : State} (h : step s = .next t) : Stepped s t := by
  unfold step at h
  split at h
  · unfold defaultTurn at h
    split at h
    · next hb => exact stepped_seqStep (rest := s.turns) hb h
    · exact Host.Outcome.next.inj h ▸ stepped_regenIdle s
  · next turn rest hturns =>
    cases turn with
    | seq =>
      simp only [takeTurn] at h
      split at h
      · next hb => exact stepped_seqStep hb h
      · exact Host.Outcome.next.inj h ▸ .idle rest
    | host a => exact Host.Outcome.next.inj h ▸ .host a rest hturns
    | regen o u => exact Host.Outcome.next.inj h ▸ .regen o u rest
    | reset => exact Host.Outcome.next.inj h ▸ .reset rest hturns

/-! ## Totality -/

/-- SEQ has a next state unless it fetches unwritten words (R72). -/
theorem seqStep_total (s : State) : (∃ t, seqStep s = .next t) ∨
    (seqStep s = .fault .undefFetch ∧ s.cptr.toNat < 0x1000 ∧ s.fetch = none) := by
  unfold seqStep
  split
  · exact .inl ⟨_, rfl⟩
  · next hc =>
    split
    · next c _ =>
      unfold runWords
      split
      · exact .inl ⟨_, exec_eq _ _⟩
      · exact .inl ⟨_, rfl⟩
    · next hf => exact .inr ⟨rfl, by omega, hf⟩

theorem step_nil {s : State} (h : s.turns = []) : step s = defaultTurn s := by rw [step, h]

theorem step_cons {s : State} {turn : Turn} {rest : List Turn} (h : s.turns = turn :: rest) :
    step s = takeTurn turn { s with turns := rest } := by rw [step, h]

/-- Settles O12: only the fetch of SEQ can fail, and neither the agenda nor the latches are part of it. -/
theorem stepTotal : Obligations.StepTotal := by
  intro s
  have hseq (hb : s.status.busy = true) (rest : List Turn) (he : step s = seqStep { s with turns := rest }) :
      (∃ t, step s = .next t) ∨
        (step s = .fault .undefFetch ∧ s.status.busy = true ∧ s.cptr.toNat < 0x1000 ∧ s.fetch = none) :=
    he ▸ (seqStep_total { s with turns := rest }).imp_right fun ⟨hfault, hin, hfetch⟩ => ⟨hfault, hb, hin, hfetch⟩
  cases hturns : s.turns with
  | nil =>
    by_cases hb : s.status.busy = true
    · exact hseq hb s.turns ((step_nil hturns).trans (if_pos hb))
    · exact .inl ⟨_, (step_nil hturns).trans (if_neg hb)⟩
  | cons turn rest =>
    cases turn with
    | seq =>
      by_cases hb : s.status.busy = true
      · exact hseq hb rest ((step_cons hturns).trans (if_pos hb))
      · exact .inl ⟨_, (step_cons hturns).trans (if_neg hb)⟩
    | host a => exact .inl ⟨_, step_cons hturns⟩
    | regen o u => exact .inl ⟨_, step_cons hturns⟩
    | reset => exact .inl ⟨_, step_cons hturns⟩

end Sys2Proof.Machine
end

section
/-! PROOFS. What every command keeps of the configuration and of the playing state of its note (R33, R319): the relations
and the primitive updates. -/

namespace Sys2Proof.Machine

/-! ## Notes -/

theorem Note.SameConfig.refl (x : Note) : x.SameConfig x :=
  ⟨⟨rfl, rfl, rfl, rfl, rfl, rfl, rfl⟩, fun _ => rfl, fun _ => rfl, fun _ => rfl, fun _ => rfl⟩

theorem Note.SameConfig.trans {x y z : Note} (h : x.SameConfig y) (k : y.SameConfig z) : x.SameConfig z := by
  obtain ⟨h1, h2, h3, h4, h5, h6, h7⟩ := h.registers
  obtain ⟨k1, k2, k3, k4, k5, k6, k7⟩ := k.registers
  exact ⟨⟨k1.trans h1, k2.trans h2, k3.trans h3, k4.trans h4, k5.trans h5, k6.trans h6, k7.trans h7⟩,
    fun i => (k.envs i).trans (h.envs i), fun i => (k.lfos i).trans (h.lfos i), fun i => (k.flts i).trans (h.flts i),
    fun i => (k.voices i).trans (h.voices i)⟩

/-- Two notes are playing alike: the slot is taken or not, the legato machine stands where it stood, and the same voices are
created. -/
structure Note.SamePlay (x y : Note) : Prop where
  active : y.nstat.active = x.nstat.active
  legato : y.legato = x.legato
  created : ∀ v, (y.voice v).created = (x.voice v).created

theorem Note.SamePlay.refl (x : Note) : x.SamePlay x := ⟨rfl, rfl, fun _ => rfl⟩

theorem Note.SamePlay.trans {x y z : Note} (h : x.SamePlay y) (k : y.SamePlay z) : x.SamePlay z :=
  ⟨k.active.trans h.active, k.legato.trans h.legato, fun v => (k.created v).trans (h.created v)⟩

theorem Note.sameConfig_env {x : Note} {k : Nat} {e : Env} (h : e.config = (x.env k).config) :
    x.SameConfig { x with envs := x.envs.setIfInBounds k e } := by
  refine ⟨⟨rfl, rfl, rfl, rfl, rfl, rfl, rfl⟩, fun j => ?_, fun _ => rfl, fun _ => rfl, fun _ => rfl⟩
  rw [Note.env_set]
  split
  · next hj => rw [h, hj.1]
  · rfl

theorem Note.sameConfig_lfo {x : Note} {k : Nat} {l : Lfo} (h : l.config = (x.lfo k).config) :
    x.SameConfig { x with lfos := x.lfos.setIfInBounds k l } := by
  refine ⟨⟨rfl, rfl, rfl, rfl, rfl, rfl, rfl⟩, fun _ => rfl, fun j => ?_, fun _ => rfl, fun _ => rfl⟩
  rw [Note.lfo_set]
  split
  · next hj => rw [h, hj.1]
  · rfl

theorem Note.sameConfig_flt {x : Note} {k : Nat} {f : Flt} (h : f.config = (x.flt k).config) :
    x.SameConfig { x with flts := x.flts.setIfInBounds k f } := by
  refine ⟨⟨rfl, rfl, rfl, rfl, rfl, rfl, rfl⟩, fun _ => rfl, fun _ => rfl, fun j => ?_, fun _ => rfl⟩
  rw [Note.flt_set]
  split
  · next hj => rw [h, hj.1]
  · rfl

theorem Note.sameConfig_voice {x : Note} {v : Nat} {y : Voice} (h : y.config = (x.voice v).config) :
    x.SameConfig { x with voices := x.voices.setIfInBounds v y } := by
  refine ⟨⟨rfl, rfl, rfl, rfl, rfl, rfl, rfl⟩, fun _ => rfl, fun _ => rfl, fun _ => rfl, fun j => ?_⟩
  rw [Note.voice_set]
  split
  · next hj => rw [h, hj.1]
  · rfl

theorem Note.samePlay_voice {x : Note} {v : Nat} {y : Voice} (h : y.created = (x.voice v).created) :
    x.SamePlay { x with voices := x.voices.setIfInBounds v y } := by
  refine ⟨rfl, rfl, fun j => ?_⟩
  rw [Note.voice_set]
  split
  · next hj => rw [h, hj.1]
  · rfl

/-! ## The relations -/

/-- From `s` to `t` no configuration has changed: of the notes only slot `n`, and not its configuration; of the oscillators
not the configuration and its version; of memory no configuration cell; no control register. -/
structure Configured (n : Nat) (s t : State) : Prop where
  control : SameControl s t
  cptr : t.cptr = s.cptr
  note : (s.note n).SameConfig (t.note n)
  others : ∀ m, m ≠ n → t.note m = s.note m
  oscs : ∀ o, (t.osc o).cfg = (s.osc o).cfg ∧ (t.osc o).cfgver = (s.osc o).cfgver
  bytes : ∀ a, configBytes a → t.mem.byte? a = s.mem.byte? a

/-- Nor has the note begun, ended or moved its legato machine, nor a voice. -/
structure Steady (n : Nat) (s t : State) : Prop extends Configured n s t where
  nvoices : t.nvoices = s.nvoices
  play : (s.note n).SamePlay (t.note n)

section
variable {n : Nat} {s t u : State}

theorem Configured.refl (n : Nat) (s : State) : Configured n s s :=
  ⟨.refl s, rfl, .refl _, fun _ _ => rfl, fun _ => ⟨rfl, rfl⟩, fun _ _ => rfl⟩

theorem Configured.trans (h : Configured n s t) (k : Configured n t u) : Configured n s u :=
  ⟨h.control.trans k.control, k.cptr.trans h.cptr, h.note.trans k.note, fun m hm => (k.others m hm).trans (h.others m hm),
    fun o => ⟨(k.oscs o).1.trans (h.oscs o).1, (k.oscs o).2.trans (h.oscs o).2⟩,
    fun a ha => (k.bytes a ha).trans (h.bytes a ha)⟩

theorem Steady.refl (n : Nat) (s : State) : Steady n s s := ⟨.refl n s, rfl, .refl _⟩

theorem Steady.trans (h : Steady n s t) (k : Steady n t u) : Steady n s u :=
  ⟨h.toConfigured.trans k.toConfigured, k.nvoices.trans h.nvoices, h.play.trans k.play⟩

theorem Steady.foldl {α : Type} (f : State → α → State) (l : List α) (h : ∀ a ∈ l, ∀ s, Steady n s (f s a)) (s : State) :
    Steady n s (l.foldl f s) := by
  induction l generalizing s with
  | nil => exact .refl n s
  | cons a l ih => exact (h a List.mem_cons_self s).trans (ih (fun b hb => h b (List.mem_cons_of_mem a hb)) _)

theorem Configured.foldl {α : Type} (f : State → α → State) (l : List α) (h : ∀ a ∈ l, ∀ s, Configured n s (f s a))
    (s : State) : Configured n s (l.foldl f s) := by
  induction l generalizing s with
  | nil => exact .refl n s
  | cons a l ih => exact (h a List.mem_cons_self s).trans (ih (fun b hb => h b (List.mem_cons_of_mem a hb)) _)

/-- An update of flags, results and the numbering of undef reads. -/
theorem Steady.of_eq (hc : SameControl s t) (hp : t.cptr = s.cptr) (hn : t.notes = s.notes) (ho : t.oscs = s.oscs)
    (hm : t.mem = s.mem) (hv : t.nvoices = s.nvoices) : Steady n s t := by
  have hnote (m : Nat) : t.note m = s.note m := by rw [State.note, State.note, hn]
  have hosc (o : Nat) : t.osc o = s.osc o := by rw [State.osc, State.osc, ho]
  exact ⟨⟨hc, hp, hnote n ▸ .refl _, fun m _ => hnote m, fun o => by rw [hosc o]; exact ⟨rfl, rfl⟩, fun _ _ => by rw [hm]⟩,
    hv, hnote n ▸ .refl _⟩

/-! ## The primitive updates -/

theorem steady_setErrIf (b : Bool) (e : ErrBit) (s : State) : Steady n s (s.setErrIf b e) :=
  .of_eq (by constructor <;> simp) rfl rfl rfl rfl rfl

theorem steady_noteSat (b : Bool) (s : State) : Steady n s (s.noteSat b) := steady_setErrIf b .sat s

theorem steady_touch (a m : Nat) (s : State) : Steady n s (s.touch a m) :=
  .of_eq (by constructor <;> simp) rfl rfl rfl rfl rfl

theorem steady_touchAll (rs : List (Nat × Nat)) (s : State) : Steady n s (s.touchAll rs) :=
  Steady.foldl _ rs (fun r _ => steady_touch r.1 r.2) s

theorem steady_setRes0 (a : Word) (s : State) : Steady n s (s.setRes0 a) :=
  .of_eq (by constructor <;> simp) rfl rfl rfl rfl rfl

theorem steady_setRes (a b : Word) (s : State) : Steady n s (s.setRes a b) :=
  .of_eq (by constructor <;> simp) rfl rfl rfl rfl rfl

theorem configured_nvoices (x : BitVec 8) (s : State) : Configured n s { s with nvoices := x } :=
  ⟨by constructor <;> simp, rfl, .refl _, fun _ _ => rfl, fun _ => ⟨rfl, rfl⟩, fun _ _ => rfl⟩

theorem steady_setCells (a : Nat) (ws : List Word) (h : ∀ x, wordsAt a ws.length x → ¬ configBytes x) (s : State) :
    Steady n s (s.setCells a ws) := by
  refine ⟨⟨by constructor <;> simp, rfl, .refl _, fun _ _ => rfl, fun _ => ⟨rfl, rfl⟩, fun x hx => ?_⟩, rfl, .refl _⟩
  rw [setCells_mem, byte?_splice, if_neg]
  rintro ⟨h1, h2⟩
  exact h x ⟨h1, by simpa using h2⟩ hx

theorem steady_setCell (a : Nat) (w : Word) (h : ∀ x, wordsAt a 1 x → ¬ configBytes x) (s : State) :
    Steady n s (s.setCell a w) := by rw [setCell_eq]; exact steady_setCells a [w] h s

theorem steady_setSignedCells (a : Nat) (xs : List Int) (h : ∀ x, wordsAt a xs.length x → ¬ configBytes x) (s : State) :
    Steady n s (s.setSignedCells a xs) := steady_setCells a _ (by simpa using h) s

theorem steady_setOsc (o : Nat) (x : Osc) (s : State) (hc : x.cfg = (s.osc o).cfg) (hv : x.cfgver = (s.osc o).cfgver) :
    Steady n s (s.setOsc o x) := by
  refine ⟨⟨by constructor <;> simp, rfl, .refl _, fun _ _ => rfl, fun p => ?_, fun _ _ => rfl⟩, rfl, .refl _⟩
  rw [osc_setOsc]
  split
  · next hp => rw [hc, hv, hp.1]; exact ⟨rfl, rfl⟩
  · exact ⟨rfl, rfl⟩

theorem configured_setNote (x : Note) (s : State) (h : (s.note n).SameConfig x) : Configured n s (s.setNote n x) := by
  by_cases hn : n < 16
  · exact ⟨by constructor <;> simp, rfl, by rw [note_setNote_self _ _ _ hn]; exact h,
      fun m hm => note_setNote_ne _ _ _ _ hm.symm, fun _ => ⟨rfl, rfl⟩, fun _ _ => rfl⟩
  · rw [setNote_of_le s n x (Nat.le_of_not_lt hn)]; exact .refl n s

theorem configured_modNote (f : Note → Note) (s : State) (h : (s.note n).SameConfig (f (s.note n))) :
    Configured n s (s.modNote n f) := configured_setNote _ s h

theorem steady_setNote (x : Note) (s : State) (h : (s.note n).SameConfig x) (hp : (s.note n).SamePlay x) :
    Steady n s (s.setNote n x) := by
  refine ⟨configured_setNote x s h, rfl, ?_⟩
  by_cases hn : n < 16
  · rw [note_setNote_self _ _ _ hn]; exact hp
  · rw [setNote_of_le s n x (Nat.le_of_not_lt hn)]; exact .refl _

theorem steady_modNote (f : Note → Note) (s : State) (h : (s.note n).SameConfig (f (s.note n)))
    (hp : (s.note n).SamePlay (f (s.note n))) : Steady n s (s.modNote n f) := steady_setNote _ s h hp

theorem steady_setEnv (k : Nat) (e : Env) (s : State) (h : e.config = (s.env n k).config) : Steady n s (s.setEnv n k e) :=
  steady_modNote _ s (Note.sameConfig_env h) ⟨rfl, rfl, fun _ => rfl⟩

theorem steady_setLfo (k : Nat) (l : Lfo) (s : State) (h : l.config = (s.lfo n k).config) : Steady n s (s.setLfo n k l) :=
  steady_modNote _ s (Note.sameConfig_lfo h) ⟨rfl, rfl, fun _ => rfl⟩

theorem steady_setFlt (f : Nat) (x : Flt) (s : State) (h : x.config = (s.flt n f).config) : Steady n s (s.setFlt n f x) :=
  steady_modNote _ s (Note.sameConfig_flt h) ⟨rfl, rfl, fun _ => rfl⟩

theorem configured_modVoice (v : Nat) (f : Voice → Voice) (s : State)
    (h : (f (s.voice n v)).config = (s.voice n v).config) : Configured n s (s.modVoice n v f) :=
  configured_setNote _ s (Note.sameConfig_voice h)

theorem steady_setVoice (v : Nat) (y : Voice) (s : State) (h : y.config = (s.voice n v).config)
    (hc : y.created = (s.voice n v).created) : Steady n s (s.setVoice n v y) :=
  steady_modNote _ s (Note.sameConfig_voice h) (Note.samePlay_voice hc)

theorem steady_modVoice (v : Nat) (f : Voice → Voice) (s : State) (h : (f (s.voice n v)).config = (s.voice n v).config)
    (hc : (f (s.voice n v)).created = (s.voice n v).created) : Steady n s (s.modVoice n v f) := steady_setVoice v _ s h hc

theorem steady_setRng (r : Word) (s : State) : Steady n s (s.setRng n r) :=
  steady_modNote _ s ⟨⟨rfl, rfl, rfl, rfl, rfl, rfl, rfl⟩, fun _ => rfl, fun _ => rfl, fun _ => rfl, fun _ => rfl⟩
    ⟨rfl, rfl, fun _ => rfl⟩

end

/-! ## Configuration cells and buffers -/

/-- The cells of a sub-voice record that only HOST writes (R66). -/
def UniField.hostOnly (f : UniField) : Prop := f = .rbase ∨ f = .pos ∨ f = .invert

theorem not_config_uni {n v k a : Nat} {f : UniField} (hf : ¬ f.hostOnly) (hv : v < 8) (hk : k < 64)
    (h : wordsAt (uniAddr n v k + f.offset) 1 a) : ¬ configBytes a := by
  have hne : f.offset ≠ 0 ∧ f.offset ≠ 0xC ∧ f.offset ≠ 0x10 ∧ f.offset % 4 = 0 ∧ f.offset < 0x40 := by
    refine ⟨?_, ?_, ?_, f.offset_mod, f.offset_lt⟩ <;>
      exact fun he => hf (by cases f <;> simp_all [UniField.offset, UniField.hostOnly])
  rintro (h1 | ⟨o, ho, h1⟩ | ⟨m, j, hm, hj, h1 | h1⟩ | ⟨m, w, j, hm, hw, hj, h1 | h1⟩) <;>
    simp only [wordsAt, uniAddr, voiceBase, noteBase, cmdAddr, hmagAddr, oscBase, dtAddr, valAddr, envBase] at h h1 <;>
    omega

/-- The bytes of a note slot above the sub-voice records of a voice hold no configuration. -/
theorem not_config_voice {n v a : Nat} (hv : v < 8) (h : voiceBase n v + 0x2000 ≤ a) (h' : a < voiceBase n v + 0x8000) :
    ¬ configBytes a := by
  rintro (h1 | ⟨o, ho, h1⟩ | ⟨m, j, hm, hj, h1 | h1⟩ | ⟨m, w, j, hm, hw, hj, h1 | h1⟩) <;>
    simp only [wordsAt, uniAddr, voiceBase, noteBase, cmdAddr, hmagAddr, oscBase, dtAddr, valAddr, envBase] at h h' h1 <;>
    omega

theorem not_config_channel {n a : Nat} (h : noteBase n + 0x8000 ≤ a) (h' : a < noteBase n + 0x8800) : ¬ configBytes a := by
  rintro (h1 | ⟨o, ho, h1⟩ | ⟨m, j, hm, hj, h1 | h1⟩ | ⟨m, w, j, hm, hw, hj, h1 | h1⟩) <;>
    simp only [wordsAt, uniAddr, voiceBase, noteBase, cmdAddr, hmagAddr, oscBase, dtAddr, valAddr, envBase] at h h' h1 <;>
    omega

theorem not_config_mix {a : Nat} (h : mixlAddr ≤ a) : ¬ configBytes a := by
  rintro (h1 | ⟨o, ho, h1⟩ | ⟨m, j, hm, hj, h1 | h1⟩ | ⟨m, w, j, hm, hw, hj, h1 | h1⟩) <;>
    simp only [mixlAddr, wordsAt, uniAddr, voiceBase, noteBase, cmdAddr, hmagAddr, oscBase, dtAddr, valAddr,
      envBase] at h h1 <;>
    omega

theorem not_config_bank {o a : Nat} {b : Bool} (ho : o < 16) (h : bankBytes o b a) : ¬ configBytes a := by
  have h' : 0x100000 ≤ a ∧ a < 0x1000000 := by
    simp only [bankBytes, wordsAt, specAddr, waveAddr] at h
    cases b <;> simp at h <;> omega
  rintro (h1 | ⟨o, ho, h1⟩ | ⟨m, j, hm, hj, h1 | h1⟩ | ⟨m, w, j, hm, hw, hj, h1 | h1⟩) <;>
    simp only [wordsAt, uniAddr, voiceBase, noteBase, cmdAddr, hmagAddr, oscBase, dtAddr, valAddr, envBase] at h' h1 <;>
    omega

theorem not_config_vout {n v a m : Nat} (hv : v < 8) (hm : m ≤ 256) (h : wordsAt (voutAddr n v) m a) : ¬ configBytes a := by
  simp only [wordsAt, voutAddr] at h
  exact not_config_voice (n := n) hv (by omega) (by omega)

theorem not_config_vwave {n v a m : Nat} {sel : Bool} (hv : v < 8) (hm : m ≤ 1024) (h : wordsAt (vwaveAddr n v sel) m a) :
    ¬ configBytes a := by
  simp only [wordsAt, vwaveAddr] at h
  cases sel <;> simp at h <;> exact not_config_voice (n := n) hv (by omega) (by omega)

theorem not_config_out {n a m : Nat} (hm : m ≤ 256) (h : wordsAt (outlAddr n) m a ∨ wordsAt (outrAddr n) m a) :
    ¬ configBytes a := by
  simp only [wordsAt, outlAddr, outrAddr] at h
  exact not_config_channel (n := n) (by omega) (by omega)

end Sys2Proof.Machine
end

section
/-! PROOFS. What every command keeps of the configuration and of the playing state (R33, R319), procedure by procedure in the
order of the model, and that no command writes what only HOST configures. -/

namespace Sys2Proof.Machine

/-! ## Envelopes, LFOs, filters -/

theorem config_completeSegment (e : Env) (c : Nat) (v : Word) : (e.completeSegment c v).config = e.config := by
  unfold Env.completeSegment
  split
  · rfl
  · split <;> rfl

theorem config_traverse (e : Env) (c dt : Nat) (v : Word) : (e.traverse c dt v).config = e.config := by
  unfold Env.traverse
  split
  · exact config_completeSegment e c v
  · rfl

theorem config_traverseForced (e : Env) (dt : Nat) : (e.traverseForced dt).config = e.config := by
  unfold Env.traverseForced
  dsimp only
  split <;> rfl

theorem config_envStep (s : State) (n k : Nat) : (envStep s n k).env.config = (s.env n k).config := by
  unfold envStep
  dsimp only
  split
  · rfl
  · rfl
  · rfl
  · exact config_traverseForced _ _
  · exact config_traverse _ _ _ _

theorem config_envOutDb (s : State) (n k : Nat) : (envOutDb s n k).env.config = (s.env n k).config := by
  unfold envOutDb
  dsimp only
  split
  · exact config_envStep s n k
  · split
    · exact config_traverse _ _ _ _
    · exact config_envStep s n k

theorem config_release (e : Env) : e.release.config = e.config := by
  unfold Env.release
  split <;> rfl

theorem config_finish (e : Env) : e.finish.config = e.config := by
  unfold Env.finish
  split <;> rfl

theorem config_next (l : Lfo) : l.next.config = l.config := by
  unfold Lfo.next
  split <;> rfl

section
variable (n k : Nat) (s : State)

theorem steady_envReset : Steady n s (envReset n k s) :=
  (((steady_touch _ _ s).trans (steady_setErrIf _ _ _)).trans (steady_setErrIf _ _ _)).trans (steady_setEnv k _ _ rfl)

theorem steady_performCall (r : EnvCall) (h : r.env.config = (s.env n k).config) : Steady n s (performCall n k r s).st := by
  have w := within_touchAll (n := n) (P := fun p => p = .undef) (A := nowhere) (envReads n k (s.env n k)) rfl
    (s.noteSat r.sat)
  refine ((steady_noteSat r.sat s).trans (steady_touchAll _ _)).trans (steady_setEnv k _ _ ?_)
  rw [w.env (by simp)]
  exact h

theorem steady_runEnvStep : Steady n s (runEnvStep n k s).st := steady_performCall n k s _ (config_envStep s n k)

theorem steady_runEnvOutDb : Steady n s (runEnvOutDb n k s).st := steady_performCall n k s _ (config_envOutDb s n k)

theorem steady_envRelease : Steady n s (envRelease n k s) := steady_setEnv k _ s (config_release _)

theorem steady_envFinish : Steady n s (envFinish n k s) := steady_setEnv k _ s (config_finish _)

theorem steady_lfoReset : Steady n s (lfoReset n k s) := (steady_setErrIf _ _ s).trans (steady_setLfo k _ _ rfl)

theorem steady_runLfoStep : Steady n s (runLfoStep n k s).st :=
  (steady_noteSat _ s).trans (steady_setLfo k _ _ (config_next _))

theorem steady_setCoef (freq : Nat) (q : Int) : Steady n s (setCoef n k freq q s) :=
  ((steady_setErrIf _ _ s).trans (steady_setErrIf _ _ _)).trans (steady_setFlt k _ _ rfl)

theorem steady_cleanup : Steady n s (cleanup n k s) := (steady_setErrIf _ _ s).trans (steady_setFlt k _ _ rfl)

theorem steady_filterBlock (b : List Int) : Steady n s (filterBlock n k b s).st := by
  unfold filterBlock
  dsimp only
  split
  · exact .refl n s
  · exact (steady_noteSat _ s).trans (steady_setFlt k _ _ rfl)

theorem steady_fltOut (a : Nat) (ha : ∀ x, wordsAt a 256 x → ¬ configBytes x) : Steady n s (fltOut n k a s) := by
  unfold fltOut
  split
  · exact .refl n s
  · exact ((steady_touch a 256 s).trans (steady_filterBlock n k _ _)).trans
      (steady_setSignedCells a _ (by rw [length_filterBlock, length_signedCells]; exact ha) _)

end

theorem not_config_buffer {n a : Nat} {buf : Byte} (h : bufferIdOk buf = true) (ha : wordsAt (bufferAddr n buf) 256 a) :
    ¬ configBytes a := by
  unfold bufferAddr at ha
  split at ha
  · exact not_config_out (n := n) (Nat.le_refl _) (.inl ha)
  · split at ha
    · exact not_config_out (n := n) (Nat.le_refl _) (.inr ha)
    · refine not_config_vout ?_ (Nat.le_refl _) ha
      simp [bufferIdOk] at h
      omega

/-! ## Sub-voice records and buffers -/

section
variable {n : Nat} (v : Nat) (s : State)

theorem steady_touchUni (cnt : Nat) (f : UniField) : Steady n s (s.touchUni n v cnt f) := steady_touchAll _ s

theorem steady_touchPhases (cnt : Nat) (hi lo : UniField) : Steady n s (s.touchPhases n v cnt hi lo) :=
  (steady_touchUni v s cnt hi).trans (steady_touchUni v _ cnt lo)

variable (hv : v < 8)
include hv

theorem steady_setUni (f : UniField) (ws : List Word) (hf : ¬ f.hostOnly) (hl : ws.length ≤ 64) :
    Steady n s (s.setUni n v f ws) :=
  Steady.foldl _ _ (fun _ hk => steady_setCell _ _ fun _ =>
    not_config_uni hf hv (Nat.lt_of_lt_of_le (List.mem_range.1 hk) hl)) s

theorem steady_setPhases (hi lo : UniField) (ps : List Nat) (h1 : ¬ hi.hostOnly) (h2 : ¬ lo.hostOnly) (hl : ps.length ≤ 64) :
    Steady n s (s.setPhases n v hi lo ps) :=
  Steady.foldl _ _ (fun _ hk t => by
    have hk := Nat.lt_of_lt_of_le (List.mem_range.1 hk) hl
    exact (steady_setCell _ _ (fun _ => not_config_uni h1 hv hk) t).trans
      (steady_setCell _ _ (fun _ => not_config_uni h2 hv hk) _)) s

theorem steady_vout (xs : List Int) (hl : xs.length ≤ 256) : Steady n s (s.setSignedCells (voutAddr n v) xs) :=
  steady_setSignedCells _ _ (fun _ => not_config_vout hv hl) s

theorem steady_vwave (sel : Bool) (ws : List Word) (hl : ws.length ≤ 1024) : Steady n s (s.setCells (vwaveAddr n v sel) ws) :=
  steady_setCells _ _ (fun _ => not_config_vwave hv hl) s

end

theorem steady_setOut {n : Nat} (s : State) (l r : List Int) (hl : l.length ≤ 256) (hr : r.length ≤ 256) :
    Steady n s (s.setOut n l r) :=
  (steady_setSignedCells _ _ (fun _ hx => not_config_out hl (.inl hx)) s).trans
    (steady_setSignedCells _ _ (fun _ hx => not_config_out hr (.inr hx)) _)

/-! ## A voice's block -/

section
variable (n : Nat)

theorem steady_scale (g : Nat → Int) (x : Stereo) : Steady n x.st (x.scale g).st := steady_noteSat _ _

theorem steady_runSources (base : Nat) (s : State) : Steady n s (runSources n base s).st :=
  (((((steady_runEnvOutDb n base s).trans (steady_runLfoStep n base _)).trans (steady_runEnvStep n _ _)).trans
    (steady_runLfoStep n _ _)).trans (steady_runEnvStep n _ _)).trans (steady_runLfoStep n _ _)

theorem steady_stereoFilter (f freq : Nat) (q : Int) (x : Stereo) : Steady n x.st (Stereo.filter n f freq q x).st :=
  (((steady_setCoef n f x.st freq q).trans (steady_setCoef n (f + 1) _ freq q)).trans
    (steady_filterBlock n f _ x.l)).trans (steady_filterBlock n (f + 1) _ x.r)

variable (v : Nat)

theorem steady_touchOscillators (s : State) : Steady n s (touchOscillators n v s) := by
  have h0 : Steady n s ((((s.touch (vwaveAddr n v false) 1024).touchPhases n v (s.voice n v).usize.toNat .phhi
      .phlo).touchUni n v (s.voice n v).usize.toNat .pos).touchUni n v (s.voice n v).usize.toNat .invert) :=
    (((steady_touch _ _ s).trans (steady_touchPhases v _ _ _ _)).trans (steady_touchUni v _ _ _)).trans
      (steady_touchUni v _ _ _)
  have hs2 (t : State) (b c : Prop) [Decidable b] [Decidable c] (cnt m : Nat) :
      Steady n t (if b then t else if c then t.touch (voutAddr n m) 256
        else (t.touch (vwaveAddr n v true) 1024).touchPhases n v cnt .phmhi .phmlo) := by
    split
    · exact .refl n t
    · split
      · exact steady_touch _ _ t
      · exact (steady_touch _ _ t).trans (steady_touchPhases v _ _ _ _)
  unfold touchOscillators
  dsimp only
  split
  · exact (h0.trans (hs2 _ _ _ _ _)).trans (steady_touchPhases v _ _ _ _)
  · exact h0.trans (hs2 _ _ _ _ _)

theorem steady_voiceFadeIn (x : Stereo) : Steady n x.st (voiceFadeIn n v x).st := by
  unfold voiceFadeIn
  split
  · exact steady_noteSat _ _
  · exact .refl n _

theorem steady_voiceFilter (a b : Int) (x : Stereo) : Steady n x.st (voiceFilter n v a b x).st := by
  unfold voiceFilter
  dsimp only
  split
  · exact (steady_noteSat _ _).trans (steady_stereoFilter n _ _ _ { x with st := _ })
  · exact .refl n _

theorem steady_voiceFadeOut (x : Stereo) : Steady n x.st (voiceFadeOut n v x).st := by
  unfold voiceFadeOut
  dsimp only
  split
  · exact (steady_scale n fadeOutGain x).trans (steady_modVoice v (fun w => { w with finished := true }) _ rfl rfl)
  · exact .refl n _

theorem steady_voiceAmp (a al : Int) (s : State) : Steady n s (voiceAmp n v a al s) :=
  (steady_noteSat _ s).trans (steady_setVoice v _ _ rfl rfl)

variable (hv : v < 8)
include hv

theorem steady_storeRatios (r : Ratios) (s : State)
    (h : r.pos.length ≤ 63 ∧ r.step.length ≤ 63 ∧ r.ratio.length ≤ 63) : Steady n s (storeRatios n v r s) := by
  obtain ⟨h1, h2, h3⟩ := h
  have hset (t : State) (f : UniField) (xs : List Int) (hf : ¬ f.hostOnly) (hl : xs.length ≤ 63) :
      Steady n t (t.setUni n v f (xs.map toWord)) := steady_setUni v t hv f _ hf (by rw [List.length_map]; omega)
  exact (((((steady_touchUni v s _ _).trans (steady_touchUni v _ _ _)).trans (steady_touchUni v _ _ _)).trans
    (hset _ _ _ (by simp [UniField.hostOnly]) h1)).trans (hset _ _ _ (by simp [UniField.hostOnly]) h2)).trans
      (hset _ _ _ (by simp [UniField.hostOnly]) h3)

theorem steady_storePhases (ps : List SubPhase) (hl : ps.length ≤ 63) (s : State) : Steady n s (storePhases n v ps s) := by
  have h (t : State) (hi lo : UniField) (f : SubPhase → Nat) (h1 : ¬ hi.hostOnly) (h2 : ¬ lo.hostOnly) :
      Steady n t (t.setPhases n v hi lo (ps.map f)) :=
    steady_setPhases v t hv hi lo _ h1 h2 (by rw [List.length_map]; omega)
  have h1 : Steady n s (s.setPhases n v .phhi .phlo (ps.map (·.ph))) :=
    h s _ _ _ (by simp [UniField.hostOnly]) (by simp [UniField.hostOnly])
  have h2 (t : State) (b : Prop) [Decidable b] :
      Steady n t (if b then t else t.setPhases n v .phmhi .phmlo (ps.map (·.phm))) := by
    split
    · exact .refl n t
    · exact h t _ _ _ (by simp [UniField.hostOnly]) (by simp [UniField.hostOnly])
  unfold storePhases
  dsimp only
  split
  · exact (h1.trans (h2 _ _)).trans (h _ _ _ _ (by simp [UniField.hostOnly]) (by simp [UniField.hostOnly]))
  · exact h1.trans (h2 _ _)

theorem steady_voiceOscillators (fv fmv : Nat) (rs : List Int) (s : State) :
    Steady n s (voiceOscillators n v fv fmv rs s).st :=
  ((steady_touchOscillators n v s).trans (steady_noteSat _ _)).trans
    (steady_storePhases n v hv _ (by simpa using length_subBlocks n v s fv fmv rs) _)

theorem steady_voiceSignal (gpitch : Int) (m : Sources) : Steady n m.st (voiceSignal n v gpitch m).st :=
  ((((steady_setErrIf _ _ m.st).trans (steady_noteSat _ _)).trans
    (steady_storeRatios n v hv _ _ (length_blockRatios n v m.st))).trans (steady_voiceAmp n v _ _ _)).trans
      (steady_voiceOscillators n v hv _ _ _ _)

theorem steady_deposit (acc : Sums) (x : Stereo) (h : x.Len) : Steady n x.st (deposit n v acc x).st := by
  unfold deposit
  dsimp only
  split
  · exact (steady_noteSat _ _).trans (steady_vout v _ hv _ (by simp [h.1, h.2]))
  · exact steady_vout v _ hv _ (by simp)

theorem steady_liveVoice (gpitch : Int) (acc : Sums) : Steady n acc.st (liveVoice n v gpitch acc).st := by
  unfold liveVoice
  dsimp only
  refine Steady.trans (Steady.trans ?_ (steady_deposit n v hv _ _ ?_)) (steady_modVoice v _ _ rfl rfl)
  · exact (((((steady_runSources n _ _).trans (steady_voiceSignal n v hv _ _)).trans
      (steady_voiceFadeIn n v _)).trans (steady_voiceFilter n v _ _ _)).trans (steady_scale n _ _)).trans
        (steady_voiceFadeOut n v _)
  · exact len_voiceFadeOut n v _ (len_scale _ _ (len_voiceFilter n v _ _ _ (len_voiceFadeIn n v _
      (len_voiceOscillators n v _ _ _ _))))

theorem steady_voiceBlock (gpitch : Int) (acc : Sums) : Steady n acc.st (voiceBlock n gpitch acc v).st := by
  unfold voiceBlock
  dsimp only
  split
  · exact .refl n _
  · split
    · exact steady_vout v _ hv _ (by simp)
    · exact steady_liveVoice n v hv gpitch acc

end

/-! ## NOTE.OUT -/

section
variable (n : Nat)

theorem steady_noteAmp (a al : Int) (s : State) : Steady n s (noteAmp n a al s) :=
  (steady_noteSat _ s).trans (steady_setNote _ _
    ⟨⟨rfl, rfl, rfl, rfl, rfl, rfl, rfl⟩, fun _ => rfl, fun _ => rfl, fun _ => rfl, fun _ => rfl⟩ ⟨rfl, rfl, fun _ => rfl⟩)

theorem steady_phaseA (s : State) : Steady n s (phaseA n s).st :=
  ((steady_runSources n 0 s).trans (steady_noteSat _ _)).trans (steady_noteAmp n _ _ _)

theorem steady_phaseB (gpitch : Int) (s : State) : Steady n s (phaseB n gpitch s).st := by
  have fold : ∀ l : List Nat, (∀ v ∈ l, v < 8) → ∀ acc : Sums,
      Steady n acc.st (l.foldl (voiceBlock n gpitch) acc).st := by
    intro l
    induction l with
    | nil => intro _ acc; exact .refl n _
    | cons v l ih =>
      intro hv acc
      exact (steady_voiceBlock n v (hv v List.mem_cons_self) gpitch acc).trans
        (ih (fun w hw => hv w (List.mem_cons_of_mem v hw)) _)
  exact fold _ (fun v hv => List.mem_range.1 hv) ⟨zeros 256, zeros 256, s⟩

theorem steady_globalFilter (gff : Nat) (x : Stereo) : Steady n x.st (globalFilter n gff x).st := by
  unfold globalFilter
  split
  · exact steady_stereoFilter n _ _ _ x
  · exact .refl n _

theorem steady_noteChannels (b : Sums) : Steady n b.st (noteChannels b).st := steady_noteSat _ _

theorem steady_noteAmpApply (x : Stereo) : Steady n x.st (noteAmpApply n x).st := steady_scale n _ x

theorem steady_notePan (x : Stereo) : Steady n x.st (notePan n x).st := steady_noteSat _ _

theorem sameConfig_withLegato (x : Note) (g : Legato) : x.SameConfig (x.withLegato g) :=
  ⟨⟨rfl, rfl, rfl, rfl, rfl, rfl, rfl⟩, fun _ => rfl, fun _ => rfl, fun _ => rfl, fun _ => rfl⟩

theorem configured_noteLegatoApply (x : Stereo) : Configured n x.st (noteLegatoApply n x).st := by
  unfold noteLegatoApply
  dsimp only
  generalize Legato.gains 256 _ = gs
  generalize Legato.after 256 _ = g
  exact (steady_scale n (fun i => gs.getD i 0) x).toConfigured.trans
    (configured_modNote (fun z => z.withLegato g) _ (sameConfig_withLegato _ g))

theorem sameConfig_finish (x : Note) : x.SameConfig x.finish := by
  refine ⟨⟨rfl, rfl, rfl, rfl, rfl, rfl, rfl⟩, fun _ => rfl, fun _ => rfl, fun _ => rfl, fun v => ?_⟩
  simp only [Note.voice, Note.finish, Vector.getElem?_map]
  cases x.voices[v]? <;> rfl

theorem configured_finishNote (x : Stereo) (h : x.Len) : Configured n x.st (finishNote n x) :=
  (((steady_scale n _ x).trans (steady_setOut _ _ _ (by simp [Stereo.scale, h.1]) (by simp [Stereo.scale, h.2]))).toConfigured.trans
    (configured_nvoices _ _)).trans (configured_modNote _ _ (sameConfig_finish _))

theorem configured_releaseVoice (s : State) (v : Nat) : Configured n s (releaseVoice n s v) := by
  unfold releaseVoice
  dsimp only
  split
  · exact (configured_nvoices _ s).trans (configured_modNote _ _ (Note.sameConfig_voice rfl))
  · exact .refl n s

theorem configured_noteEnd (x : Stereo) (h : x.Len) : Configured n x.st (noteEnd n x) := by
  unfold noteEnd
  dsimp only
  split
  · exact (configured_finishNote n x h).trans (steady_setRes _ _ _).toConfigured
  · exact ((steady_setOut _ _ _ (by simp [h.1]) (by simp [h.2])).toConfigured.trans
      (Configured.foldl _ _ (fun v _ s => configured_releaseVoice n s v) _)).trans (steady_setRes _ _ _).toConfigured

theorem configured_noteRender (s : State) : Configured n s (noteRender n s) := by
  unfold noteRender
  dsimp only
  refine Configured.trans (Configured.trans ?_ (configured_noteEnd n _ ?_)) (configured_modNote Note.rendered _
    ⟨⟨rfl, rfl, rfl, rfl, rfl, rfl, rfl⟩, fun _ => rfl, fun _ => rfl, fun _ => rfl, fun _ => rfl⟩)
  · exact (((((steady_phaseA n s).trans (steady_phaseB n _ _)).trans (steady_noteChannels n _)).trans
      (steady_globalFilter n _ _)).trans ((steady_noteAmpApply n _).trans (steady_notePan n _))).toConfigured.trans
        (configured_noteLegatoApply n _)
  · exact len_noteLegatoApply n _ (len_notePan n _ (len_scale _ _ (len_globalFilter n _ _ (len_noteChannels n _ _))))

theorem steady_noteSilence (s : State) : Steady n s (noteSilence n s) :=
  (steady_setOut s _ _ (by simp) (by simp)).trans (steady_setRes _ _ _)

theorem configured_noteOut (s : State) : Configured n s (noteOut n s) := by
  unfold noteOut
  split
  · exact configured_noteRender n s
  · exact (steady_noteSilence n s).toConfigured

end

end Sys2Proof.Machine
end

section
/-! PROOFS. What OSC, NOTE.INIT, note control and the mix keep of the configuration and of the playing state, and that no
command writes what only HOST configures (R33, R319). -/

namespace Sys2Proof.Machine

/-! ## Oscillators -/

section
variable {n : Nat} (o : Nat) (s : State)

theorem steady_writeBank (b : Bool) (S : Spectrum) (ho : o < 16) (h : S.length = 512) : Steady n s (writeBank o b S s) :=
  (steady_setCells _ _ (fun _ hx => not_config_bank (b := b) ho (.inl (by simpa [h] using hx))) s).trans
    (steady_setSignedCells _ _ (fun _ hx => not_config_bank (b := b) ho (.inr (by simpa [length_invT] using hx))) _)

theorem osc_writeBank (b : Bool) (S : Spectrum) (p : Nat) : (writeBank o b S s).osc p = s.osc p := rfl

theorem steady_syncPrepare (ho : o < 16) : Steady n s (syncPrepare o s) := by
  have hosc (a m : Nat) (b c : Bool) : (((s.touch a m).setErrIf b .cfg).noteSat c).osc o = s.osc o := rfl
  rw [syncPrepare_eq]
  refine ((((steady_touch _ _ s).trans (steady_setErrIf _ _ _)).trans (steady_noteSat _ _)).trans
    (steady_writeBank o _ _ _ ho (length_preparedSpectrum o s))).trans (steady_setOsc _ _ _ ?_ ?_) <;>
  · rw [osc_writeBank, hosc]
    rfl

theorem steady_oscPrepare (ho : o < 16) : Steady n s (oscPrepare o s) := by
  unfold oscPrepare
  split
  · exact steady_setRes0 _ s
  · split
    · exact steady_setRes0 _ s
    · exact (steady_syncPrepare o s ho).trans (steady_setRes0 _ _)

theorem steady_tableSelect (ho : o < 16) : Steady n s (tableSelect o s) := by
  unfold tableSelect
  split
  · exact steady_syncPrepare o s ho
  · exact .refl n s

variable {v : Nat} (hv : v < 8) (sel useres : Bool)
include hv

theorem steady_getCopy : Steady n s (getCopy o n v sel s) :=
  (steady_touch _ _ s).trans (steady_vwave v _ hv sel _ (by rw [length_cells]))

theorem steady_getAntiAliased (f : Nat) : Steady n s (getAntiAliased o n v sel useres f s) := by
  unfold getAntiAliased
  dsimp only
  generalize getSpectrum _ _ _ _ _ _ = S
  exact (((steady_touch _ _ s).trans (steady_noteSat _ _)).trans
    (steady_vwave v _ hv sel _ (by rw [List.length_map, length_invT]))).trans (steady_setRng _ _)

theorem steady_getFromTable (freq : Nat) : Steady n s (getFromTable o n v sel useres freq s).st := by
  have hflags := (steady_setErrIf (n := n) (s.osc o).cfg.getBad .cfg s).trans
    (steady_setErrIf (freq < Config.FREQ_MIN) .clamp _)
  have hdeliver (c : OscCfg) (t : State) : Steady n t
      (if c.aa = 0 then getCopy o n v sel t else getAntiAliased o n v sel useres (max freq Config.FREQ_MIN) t) := by
    split
    · exact steady_getCopy o t hv sel
    · exact steady_getAntiAliased o t hv sel useres _
  have hdraw (c : OscCfg) (t : State) : Steady n t (if c.randmodeEff = 1 then t.setRng n (rngNext (t.note n).rng) else t) := by
    split
    · exact steady_setRng _ t
    · exact .refl n t
  exact (hflags.trans (hdeliver _ _)).trans (hdraw _ _)

theorem steady_oscGet (freq : Nat) (ho : o < 16) : Steady n s (oscGet o n v sel useres freq s).st := by
  unfold oscGet
  dsimp only
  split
  · exact (steady_tableSelect o s ho).trans (steady_getFromTable o _ hv sel useres freq)
  · exact ((steady_tableSelect o s ho).trans (steady_vwave v _ hv sel _ (by rw [List.length_map, length_zeros]))).trans
      (steady_setErrIf _ _ _)

omit hv

theorem steady_oscRegen : Steady n s (oscRegen o s) := by
  unfold oscRegen
  split
  · exact (steady_setErrIf true .regenRej s).trans (steady_setRes0 _ _)
  · exact ((steady_touch _ _ s).trans (steady_setOsc o { s.osc o with job := some _ } _ rfl rfl)).trans (steady_setRes0 _ _)

theorem steady_oscCancel : Steady n s (oscCancel o s) := by
  unfold oscCancel
  split
  · exact steady_setRes0 _ s
  · exact (steady_setOsc o { s.osc o with job := some _ } s rfl rfl).trans (steady_setRes0 _ _)

end

/-! ## NOTE.INIT -/

section
variable (n v : Nat) (s : State)

theorem sameConfig_construct (x : Note) : x.SameConfig x.construct :=
  ⟨⟨rfl, rfl, rfl, rfl, rfl, rfl, rfl⟩, fun _ => rfl, fun _ => rfl, fun _ => rfl, fun _ => rfl⟩

theorem steady_resetSlots (base : Nat) : Steady n s (resetSlots n base s) :=
  Steady.foldl _ _ (fun k _ t => (steady_envReset n (base + k) t).trans (steady_lfoReset n (base + k) _)) s

theorem configured_noteConstruct : Configured n s (noteConstruct n s) :=
  (configured_modNote _ s (sameConfig_construct _)).trans
    (((steady_resetSlots n _ 0).trans (steady_cleanup n 0 _)).trans (steady_cleanup n 1 _)).toConfigured

theorem configured_takeVoice : Configured n s (takeVoice n v s) :=
  (configured_nvoices _ s).trans (configured_modVoice v _ _ rfl)

theorem steady_latchVoice : Steady n s (latchVoice n v s) := (steady_setErrIf _ _ s).trans (steady_setVoice v _ _ rfl rfl)

variable (hv : v < 8)
include hv

theorem steady_initCarrier : Steady n s (initCarrier n v s) := by
  have hu := (s.voice n v).usize.isLt
  refine ((((steady_noteSat _ s).trans (steady_oscGet _ _ hv _ _ _ (Voice.carrier_lt _))).trans (steady_setRng _ _)).trans
    (steady_setPhases v _ hv _ _ _ (by simp [UniField.hostOnly]) (by simp [UniField.hostOnly]) ?_)).trans
    (steady_setPhases v _ hv _ _ _ (by simp [UniField.hostOnly]) (by simp [UniField.hostOnly]) ?_)
  · rw [List.length_map]
    exact (length_startIndices _ _ _).trans (by omega)
  · rw [List.length_replicate]
    omega

theorem steady_initModulator : Steady n s (initModulator n v s) := by
  have hu := (s.voice n v).usize.isLt
  unfold initModulator
  dsimp only
  split
  · exact .refl n s
  · exact ((steady_noteSat _ s).trans (steady_oscGet _ _ hv _ _ _ (Voice.modulator_lt _))).trans
      (steady_setPhases v _ hv _ _ _ (by simp [UniField.hostOnly]) (by simp [UniField.hostOnly])
        (by rw [List.length_map, List.length_range]; omega))

theorem steady_initRatios : Steady n s (initRatios n v s) := by
  have hu := (s.voice n v).usize.isLt
  unfold initRatios
  dsimp only
  split
  · exact steady_setUni v s hv _ _ (by simp [UniField.hostOnly]) (by simp)
  · exact (steady_touchUni v s _ _).trans
      (steady_setUni v _ hv _ _ (by simp [UniField.hostOnly]) (by rw [List.length_map, List.length_range]; omega))

theorem configured_constructVoice : Configured n s (constructVoice n v s) :=
  ((configured_takeVoice n v s).trans (steady_latchVoice n v _).toConfigured).trans
    (((((steady_resetSlots n _ _).trans (steady_cleanup n _ _)).trans (steady_cleanup n _ _)).trans
      (((steady_initCarrier n v _ hv).trans (steady_initModulator n v _ hv)).trans
        (steady_modVoice v Voice.startAmps _ rfl rfl))).trans (steady_initRatios n v _ hv)).toConfigured

theorem configured_initVoice (acc : InitAcc) : Configured n acc.st (initVoice n acc v).st := by
  have hvacate := configured_modVoice (n := n) v Voice.vacate acc.st rfl
  unfold initVoice
  dsimp only
  split
  · exact hvacate
  · split
    · exact hvacate.trans (steady_setErrIf true .alloc _).toConfigured
    · exact hvacate.trans (configured_constructVoice n v _ hv)

omit hv

theorem configured_noteInit : Configured n s (noteInit n s) := by
  have fold : ∀ l : List Nat, (∀ v ∈ l, v < 8) → ∀ acc : InitAcc, Configured n acc.st (l.foldl (initVoice n) acc).st := by
    intro l
    induction l with
    | nil => intro _ acc; exact .refl n _
    | cons v l ih =>
      intro hv acc
      exact (configured_initVoice n v (hv v List.mem_cons_self) acc).trans
        (ih (fun w hw => hv w (List.mem_cons_of_mem v hw)) _)
  exact ((configured_noteConstruct n s).trans (fold _ (fun v hv => List.mem_range.1 hv) ⟨_, 0, 0⟩)).trans
    (steady_setRes _ _ _).toConfigured

end

/-! ## Note control and mix -/

section
variable (n : Nat) (s : State)

theorem sameConfig_release (x : Note) : x.SameConfig x.release := by
  refine ⟨⟨rfl, rfl, rfl, rfl, rfl, rfl, rfl⟩, fun k => ?_, fun _ => rfl, fun _ => rfl, fun _ => rfl⟩
  simp only [Note.env, Note.release, Vector.getElem?_map]
  cases x.envs[k]? with
  | none => rfl
  | some e => exact config_release e

theorem sameConfig_kill (x : Note) : x.SameConfig x.kill := by
  refine ⟨⟨rfl, rfl, rfl, rfl, rfl, rfl, rfl⟩, fun k => ?_, fun _ => rfl, fun _ => rfl, fun _ => rfl⟩
  simp only [Note.env, Note.kill, Vector.getElem?_map]
  cases x.envs[k]? with
  | none => rfl
  | some e => exact config_finish e

theorem steady_noteSetvel (value : Word) : Steady n s (noteSetvel n value s) :=
  (steady_setErrIf _ _ s).trans (steady_modNote _ _
    ⟨⟨rfl, rfl, rfl, rfl, rfl, rfl, rfl⟩, fun _ => rfl, fun _ => rfl, fun _ => rfl, fun _ => rfl⟩ ⟨rfl, rfl, fun _ => rfl⟩)

theorem steady_noteSetpitch (value : Word) : Steady n s (noteSetpitch n value s) :=
  steady_modNote _ _ ⟨⟨rfl, rfl, rfl, rfl, rfl, rfl, rfl⟩, fun _ => rfl, fun _ => rfl, fun _ => rfl, fun _ => rfl⟩
    ⟨rfl, rfl, fun _ => rfl⟩

theorem steady_noteSetcut (value : Word) : Steady n s (noteSetcut n value s) :=
  steady_modNote _ _ ⟨⟨rfl, rfl, rfl, rfl, rfl, rfl, rfl⟩, fun _ => rfl, fun _ => rfl, fun _ => rfl, fun _ => rfl⟩
    ⟨rfl, rfl, fun _ => rfl⟩

theorem sameConfig_legatoEvent (x : Note) (pitch vel : Word) : x.SameConfig (x.legatoEvent pitch vel) := by
  unfold Note.legatoEvent
  split
  · split <;> exact ⟨⟨rfl, rfl, rfl, rfl, rfl, rfl, rfl⟩, fun _ => rfl, fun _ => rfl, fun _ => rfl, fun _ => rfl⟩
  all_goals exact ⟨⟨rfl, rfl, rfl, rfl, rfl, rfl, rfl⟩, fun _ => rfl, fun _ => rfl, fun _ => rfl, fun _ => rfl⟩

theorem configured_noteLegato (pitch velocity : Word) : Configured n s (noteLegato n pitch velocity s) :=
  (steady_setErrIf _ _ s).toConfigured.trans (configured_modNote _ _ (sameConfig_legatoEvent _ _ _))

theorem steady_mixStore (l r : List Int) : Steady n s ((s.setSignedCells mixlAddr l).setSignedCells mixrAddr r) :=
  (steady_setSignedCells _ _ (fun _ hx => not_config_mix hx.1) s).trans
    (steady_setSignedCells _ _ (fun _ hx => not_config_mix ((by decide : mixlAddr ≤ mixrAddr).trans hx.1)) _)

theorem steady_mixAll (mask : BitVec 16) : Steady n s (mixAll mask s) :=
  ((Steady.foldl _ (selectedNotes mask) (fun m _ t => (steady_touch (outlAddr m) 256 t).trans (steady_touch (outrAddr m) 256 _))
    s).trans (steady_noteSat _ _)).trans (steady_mixStore n _ _ _)

end

/-! ## Commands -/

/-- The commands that move a note's legato machine, begin or end a note or its voices, or end the list. -/
def changesPlay : Instr → Bool
  | .halt | .noteInit _ | .noteOut _ | .noteLegato _ _ _ => true
  | _ => false

/-- Every other command leaves all notes playing as they were. -/
theorem steady_command {i : Instr} (hw : i.wellFormed = true) (hi : changesPlay i = false) (s : State) :
    ∃ n, Steady n s (commandEffect i s) := by
  cases i with
  | nop => exact ⟨0, .refl 0 s⟩
  | oscPrepare o => exact ⟨0, steady_oscPrepare _ s ((oscIndexOk_iff o).1 hw)⟩
  | oscGet o n v sel useres freq =>
    simp only [Instr.wellFormed, Bool.and_eq_true] at hw
    obtain ⟨⟨ho, -⟩, -⟩ := hw
    exact ⟨n.toNat, (steady_oscGet _ s v.isLt sel useres _ ((oscIndexOk_iff o).1 ho)).trans (steady_setRes _ _ _)⟩
  | oscRegen o => exact ⟨0, steady_oscRegen _ s⟩
  | oscCancel o => exact ⟨0, steady_oscCancel _ s⟩
  | envReset n k => exact ⟨_, steady_envReset _ _ s⟩
  | envOut n k => exact ⟨_, (steady_runEnvStep n.toNat k.toNat s).trans (steady_setRes _ _ _)⟩
  | envOutdb n k => exact ⟨_, (steady_runEnvOutDb n.toNat k.toNat s).trans (steady_setRes _ _ _)⟩
  | envRelease n k => exact ⟨_, steady_envRelease _ _ s⟩
  | envFinish n k => exact ⟨_, steady_envFinish _ _ s⟩
  | lfoReset n k => exact ⟨_, steady_lfoReset _ _ s⟩
  | lfoOut n k => exact ⟨_, (steady_runLfoStep n.toNat k.toNat s).trans (steady_setRes0 _ _)⟩
  | fltSetfreq n f freq => exact ⟨_, steady_setCoef _ _ s _ _⟩
  | fltSetfq n f freq q => exact ⟨_, steady_setCoef _ _ s _ _⟩
  | fltOut n f buf =>
    simp only [Instr.wellFormed, Bool.and_eq_true] at hw
    exact ⟨n.toNat, steady_fltOut _ _ s _ fun _ => not_config_buffer hw.2⟩
  | fltCleanup n f => exact ⟨_, steady_cleanup _ _ s⟩
  | noteRelease n => exact ⟨n.toNat, steady_modNote _ s (sameConfig_release _) ⟨rfl, rfl, fun _ => rfl⟩⟩
  | noteKill n => exact ⟨n.toNat, steady_modNote _ s (sameConfig_kill _) ⟨rfl, rfl, fun _ => rfl⟩⟩
  | noteSetvel n value => exact ⟨_, steady_noteSetvel _ s value⟩
  | noteSetpitch n value => exact ⟨_, steady_noteSetpitch _ s value⟩
  | noteSetcut n value => exact ⟨_, steady_noteSetcut _ s value⟩
  | noteFin n => exact ⟨0, steady_setRes _ _ s⟩
  | mixAll mask => exact ⟨0, steady_mixAll 0 s mask⟩
  | mixClear => exact ⟨0, steady_mixStore 0 s _ _⟩
  | halt | noteInit _ | noteOut _ | noteLegato _ _ _ => cases hi

/-- Every command but HALT leaves all configurations as they were. -/
theorem configured_command {i : Instr} (hw : i.wellFormed = true) (hi : i ≠ .halt) (s : State) :
    ∃ n, Configured n s (commandEffect i s) := by
  cases hp : changesPlay i with
  | false => exact (steady_command hw hp s).imp fun _ h => h.toConfigured
  | true =>
    cases i with
    | halt => exact absurd rfl hi
    | noteInit n => exact ⟨_, configured_noteInit _ s⟩
    | noteOut n => exact ⟨_, configured_noteOut _ s⟩
    | noteLegato n pitch velocity => exact ⟨_, configured_noteLegato _ s pitch velocity⟩
    | _ => cases hp

/-- Settles O9: a fault and HALT write run flags only, every other command leaves all configurations as they were. -/
theorem configurationKept : Obligations.ConfigurationKept := by
  intro i s t h
  have hrefl (m : Nat) : (s.note m).SameConfig (s.note m) := .refl _
  rcases exec_cases h with ⟨k, rfl⟩ | ⟨hf, rfl⟩
  · exact ⟨hrefl, fun _ => ⟨rfl, rfl⟩, rfl, rfl, rfl, fun _ _ => rfl⟩
  · rw [completed]
    split
    · exact ⟨hrefl, fun _ => ⟨rfl, rfl⟩, rfl, rfl, rfl, fun _ _ => rfl⟩
    · next hi =>
      obtain ⟨n, hc⟩ := configured_command (wellFormed_of_no_fault hf) hi s
      refine ⟨fun m => ?_, hc.oscs, hc.control.ctl, hc.control.voiceCap, hc.control.irqEn, hc.bytes⟩
      by_cases hm : m = n
      · exact hm ▸ hc.note
      · exact (hc.others m hm).symm ▸ hrefl m

end Sys2Proof.Machine
end

section
/-! PROOFS. What one HOST access can do to the block (R94 to R101): the kinds of effect, over the register map. -/

namespace Sys2Proof.Machine

/-! ## Kinds of effect -/

/-- What an access may leave of state `s`: `HostEffect s t`. -/
inductive HostEffect (s : State) : State → Prop where
  /-- Flags, enables, the cap, controllers, regeneration summaries and read data. -/
  | control (err : BitVec 8) (irqPend irqEn : BitVec 5) (cap : BitVec 8) (ctl : Ctl) (done canc : BitVec 16) (rdata : Word)
      (reads : Nat) : HostEffect s { s with
        err := err, irqPend := irqPend, irqEn := irqEn, voiceCap := cap, ctl := ctl, regenDone := done, regenCanc := canc,
        rdata := rdata, busReads := reads }
  /-- A write to CMD_START (R160). -/
  | start (w : Word) : HostEffect s (cmdStart w s)
  /-- A write to FAULT_ACK (R426). -/
  | ack : HostEffect s s.faultAck
  /-- A write to a scalar configuration register of an oscillator (R52, R53). -/
  | config (o : Nat) (c : OscCfg) : HostEffect s (bumpVersion o (s.setOsc o { s.osc o with cfg := c }))
  /-- A write to a harmonic table (R52, R53). -/
  | table (o i : Nat) (w : Word) (ho : o < 16) (hi : i < 256) : HostEffect s (bumpVersion o (s.setCell (hmagAddr o + 4 * i) w))
  /-- A write to a register of a note slot. -/
  | note (n : Nat) (x : Note) (h : (s.note n).SamePlay x) : HostEffect s (s.setNote n x)
  /-- A write to any other cell: CMDMEM or a note slot's. -/
  | store (a : Nat) (w : Word) (h : a + 4 ≤ 0x10000 ∨ 0x1000000 ≤ a) : HostEffect s (s.setCell a w)

/-- A register whose writes have no other effect. -/
def Reg.Tame (g : Reg) : Prop := ∀ w s, HostEffect s (g.write w s)

theorem HostEffect.refl (s : State) : HostEffect s s := .control _ _ _ _ _ _ _ _ _

/-! ## Registers -/

section
variable (n k : Nat)

@[simp] theorem tame_roReg (get : State → Word) : (roReg get).Tame := fun _ s => .refl s

@[simp] theorem tame_roCell (a : Nat) : (roCell a).Tame := fun _ s => .refl s

theorem tame_rwCell {a : Nat} (mask : Word) (h : a + 4 ≤ 0x10000 ∨ 0x1000000 ≤ a) : (rwCell a mask).Tame :=
  fun w _ => .store a (w &&& mask) h

@[simp] theorem tame_cfgReg (get : OscCfg → Word) (set : Word → OscCfg → OscCfg) : (cfgReg n get set).Tame :=
  fun w s => .config n (set w (s.osc n).cfg)

@[simp] theorem tame_noteRo (get : Note → Word) : (noteRo n get).Tame := tame_roReg _

theorem samePlay_iff (x y : Note) : x.SamePlay y ↔
    y.nstat.active = x.nstat.active ∧ y.legato = x.legato ∧ ∀ v, (y.voice v).created = (x.voice v).created :=
  ⟨fun h => ⟨h.active, h.legato, h.created⟩, fun ⟨h1, h2, h3⟩ => ⟨h1, h2, h3⟩⟩

theorem tame_noteRw (get : Note → Word) (set : Word → Note → Note) (h : ∀ w x, Note.SamePlay x (set w x)) :
    (noteRw n get set).Tame := fun w _ => .note n _ (h w _)

@[simp] theorem tame_envRo (get : Env → Word) : (envRo n k get).Tame := tame_roReg _

@[simp] theorem tame_envRw (get : Env → Word) (set : Word → Env → Env) : (envRw n k get set).Tame :=
  fun _ _ => .note n _ ⟨rfl, rfl, fun _ => rfl⟩

@[simp] theorem tame_lfoRo (get : Lfo → Word) : (lfoRo n k get).Tame := tame_roReg _

@[simp] theorem tame_lfoRw (get : Lfo → Word) (set : Word → Lfo → Lfo) : (lfoRw n k get set).Tame :=
  fun _ _ => .note n _ ⟨rfl, rfl, fun _ => rfl⟩

@[simp] theorem tame_fltRo (get : Flt → Word) : (fltRo n k get).Tame := tame_roReg _

@[simp] theorem tame_fltRw (get : Flt → Word) (set : Word → Flt → Flt) : (fltRw n k get set).Tame :=
  fun _ _ => .note n _ ⟨rfl, rfl, fun _ => rfl⟩

@[simp] theorem tame_voiceRo (get : Voice → Word) : (voiceRo n k get).Tame := tame_roReg _

theorem tame_voiceRw (get : Voice → Word) (set : Word → Voice → Voice) (h : ∀ w y, (set w y).created = y.created) :
    (voiceRw n k get set).Tame := fun w _ => .note n _ (Note.samePlay_voice (h w _))

end

/-! ## Regions -/

section
variable {n k off a : Nat} {g : Reg}

theorem tame_glbReg (h : glbReg off = some g) : g.Tame := by
  intro w s
  unfold glbReg at h
  split at h <;> cases h <;> constructor

theorem tame_oscReg {o : Nat} (ho : o < 16) (ha : off % 4 = 0) (h : oscReg o off = some g) : g.Tame := by
  unfold oscReg at h
  split at h
  · next hoff =>
    cases h
    intro w s
    have he : oscBase o + off = hmagAddr o + 4 * (off / 4) := by unfold hmagAddr; omega
    exact he ▸ .table o (off / 4) (w &&& 0x7F) ho (by omega)
  · unfold oscScalar at h
    split at h <;> cases h <;> simp

theorem tame_noteReg (h : noteReg n off = some g) : g.Tame := by
  unfold noteReg at h
  split at h <;> cases h <;> simp [tame_noteRw, samePlay_iff, Note.legato, Note.voice]

theorem tame_envReg (h : envReg n k off = some g) : g.Tame := by
  unfold envReg at h
  split at h
  · cases h
    exact tame_rwCell _ (.inr (by unfold envBase noteBase; omega))
  · unfold envScalar at h
    split at h <;> cases h <;> simp

theorem tame_lfoReg (h : lfoReg n k off = some g) : g.Tame := by
  unfold lfoReg at h
  split at h <;> cases h <;> simp

theorem tame_fltReg (h : fltReg n k off = some g) : g.Tame := by
  unfold fltReg at h
  split at h
  · unfold fltScalar at h
    split at h <;> cases h <;> simp
  · split at h
    · cases h; simp
    · split at h
      · cases h
      · split at h <;> cases h
        simp

theorem tame_voiceRegion (ha : 0x1000000 ≤ a) (h : voiceRegion n k off a = some g) : g.Tame := by
  unfold voiceRegion at h
  split at h
  · unfold voiceReg at h
    split at h <;> cases h <;> simp [tame_voiceRw]
  · split at h
    · unfold uniReg at h
      split at h
      · cases h; exact tame_rwCell _ (.inr ha)
      · split at h
        · cases h; exact tame_rwCell _ (.inr ha)
        · split at h <;> cases h
          simp
    · split at h
      · cases h; simp
      · split at h <;> cases h
        simp

theorem tame_noteRegion (ha : 0x1000000 ≤ a) (h : noteRegion n off a = some g) : g.Tame := by
  unfold noteRegion at h
  split at h
  · exact tame_noteReg h
  · split at h
    · exact tame_envReg h
    · split at h
      · exact tame_lfoReg h
      · split at h
        · exact tame_fltReg h
        · split at h
          · cases h; simp
          · split at h
            · exact tame_voiceRegion ha h
            · cases h

theorem tame_locate (ha : a % 4 = 0) (h : locate a = some g) : g.Tame := by
  unfold locate at h
  split at h
  · exact tame_glbReg h
  · split at h
    · cases h; exact tame_rwCell _ (.inl (by omega))
    · split at h
      · exact tame_oscReg (by omega) (by omega) h
      · split at h
        · cases h; exact fun _ s => .refl s
        · split at h
          · cases h; exact fun _ s => .refl s
          · split at h
            · exact tame_noteRegion (by omega) h
            · split at h <;> cases h
              simp

end

/-! ## Accesses -/

theorem hostEffect_hostRead (w : Width) (a : Nat) (s : State) : HostEffect s (hostRead w a s) := by
  unfold hostRead
  split
  · exact .control _ _ _ _ _ _ _ _ _
  · exact .refl s
  · split
    · exact .control _ _ _ _ _ _ _ _ _
    · exact .control _ _ _ _ _ _ _ _ _

theorem aligned_of_accepted {w : Width} {a : Nat} {allowed : Bool} {s : State} (h : refusal w a allowed s = none) :
    a % 4 = 0 := by
  unfold refusal at h
  split at h
  · cases h
  · split at h
    · cases h
    · omega

theorem hostEffect_hostWrite (w : Width) (a : Nat) (v : Word) (s : State) : HostEffect s (hostWrite w a v s) := by
  unfold hostWrite
  split
  · exact .control _ _ _ _ _ _ _ _ _
  · exact .refl s
  · next hr hg =>
    split
    · exact .control _ _ _ _ _ _ _ _ _
    · exact tame_locate (aligned_of_accepted hr) hg v s

/-- Every HOST access has one of these effects. -/
theorem hostEffect_hostStep (x : HostAccess) (s : State) : HostEffect s (hostStep x s) := by
  cases x with
  | read w a => exact hostEffect_hostRead w a.toNat s
  | write w a v => exact hostEffect_hostWrite w a.toNat v s

end Sys2Proof.Machine
end

section
/-! PROOFS. The invariants of the sequencer, of the voice budget and of the legato machine (R32, R43, R45, R49, R59, R367):
what every step keeps of them. -/

namespace Sys2Proof.Machine

/-! ## The sequencer -/

/-- The sequencer and the notes of two states are the same. -/
structure SamePlayer (s t : State) : Prop where
  cptr : t.cptr = s.cptr
  status : t.status = s.status
  notes : t.notes = s.notes
  nvoices : t.nvoices = s.nvoices

theorem samePlayer_spectrumUnit (o : Nat) (j : Job) (s : State) : SamePlayer s (spectrumUnit o j s) := by
  unfold spectrumUnit
  constructor <;> simp

theorem samePlayer_sampleUnit (o u : Nat) (j : Job) (s : State) : SamePlayer s (sampleUnit o u j s) := by
  unfold sampleUnit
  constructor <;> simp

theorem SamePlayer.refl (s : State) : SamePlayer s s := ⟨rfl, rfl, rfl, rfl⟩

/-- A worker's step touches neither the sequencer nor the notes. -/
theorem samePlayer_regenStep (o u : Nat) (s : State) : SamePlayer s (regenStep o u s) := by
  unfold regenStep
  split
  · exact .refl s
  · next j _ =>
    split_ifs
    · constructor <;> simp [observeCancel]
    · exact samePlayer_spectrumUnit o j s
    · constructor <;> simp [publish]
    · exact samePlayer_sampleUnit o u j s
    · exact .refl s

theorem sequencerInv_congr {s t : State} (hc : t.cptr = s.cptr) (hs : t.status = s.status) (h : SequencerInv s) :
    SequencerInv t := by
  unfold SequencerInv at *
  rwa [hc, hs]

theorem sequencerInv_reset : SequencerInv State.reset := ⟨by decide, by decide, nofun, nofun⟩

theorem sequencerInv_raise {s : State} (k : FaultKind) (ptr : BitVec 13) (info : Word) (h : SequencerInv s) :
    SequencerInv (s.raise k ptr info) := by
  obtain ⟨hmod, hle, -, -⟩ := h
  exact ⟨hmod, hle, by simp, by simp⟩

theorem sequencerInv_cmdStart (w : Word) {s : State} (h : SequencerInv s) : SequencerInv (cmdStart w s) := by
  unfold cmdStart
  split
  · exact h
  · next hf =>
    split
    · next hok =>
      simp only [startOk, Bool.and_eq_true, beq_iff_eq] at hok
      obtain ⟨hlow, hhigh⟩ := hok
      have hlow : (w.extractLsb' 0 4).toNat = 0 := by rw [hlow]; rfl
      have hhigh : (w.extractLsb' 12 20).toNat = 0 := by rw [hhigh]; rfl
      simp only [BitVec.extractLsb'_toNat, Nat.shiftRight_eq_div_pow, Nat.pow_zero, Nat.div_one] at hlow hhigh
      have hw := w.isLt
      have hcptr : (w.extractLsb' 0 13).toNat = w.toNat % 8192 := by simp
      refine ⟨?_, ?_, fun _ => ⟨rfl, by simpa using hf⟩, by simp⟩
      · show (w.extractLsb' 0 13).toNat % 16 = 0
        omega
      · show (w.extractLsb' 0 13).toNat ≤ 0x1000
        omega
    · exact sequencerInv_raise _ _ _ h

theorem sequencerInv_hostEffect {s t : State} (e : HostEffect s t) (h : SequencerInv s) : SequencerInv t := by
  cases e with
  | start w => exact sequencerInv_cmdStart w h
  | ack =>
    obtain ⟨hmod, hle, hbusy, -⟩ := h
    exact ⟨hmod, hle, fun hb => ⟨(hbusy hb).1, rfl⟩, fun _ => rfl⟩
  | _ => exact sequencerInv_congr rfl rfl h

theorem sequencerInv_advance {s : State} (hc : s.cptr.toNat < 0x1000) (h : SequencerInv s) : SequencerInv s.advance := by
  obtain ⟨hmod, -, hbusy, hdone⟩ := h
  have hadd : s.advance.cptr.toNat = s.cptr.toNat + 16 := by
    rw [advance_cptr, BitVec.toNat_add, show (16 : BitVec 13).toNat = 16 from rfl, Nat.mod_eq_of_lt (by omega)]
  exact ⟨by omega, by omega, hbusy, hdone⟩

/-- A fetched command keeps CPTR in step: it stays with a fault and with HALT, and moves on by one command otherwise. -/
theorem sequencerInv_exec {i : Instr} {s t : State} (hb : s.status.busy = true) (hc : s.cptr.toNat < 0x1000)
    (h : exec i s = .next t) (hs : SequencerInv s) : SequencerInv t := by
  rcases exec_cases h with ⟨k, rfl⟩ | ⟨hf, rfl⟩
  · exact sequencerInv_raise k _ _ hs
  · rw [completed]
    split
    · obtain ⟨hmod, hle, hbusy, -⟩ := hs
      exact ⟨hmod, hle, nofun, fun _ => (hbusy hb).2⟩
    · next hi =>
      obtain ⟨n, hn⟩ := configured_command (wellFormed_of_no_fault hf) hi s
      exact sequencerInv_advance (hn.cptr ▸ hc) (sequencerInv_congr hn.cptr hn.control.status hs)

/-- Settles O16, over the kinds of step. -/
theorem sequencerKept : Obligations.SequencerKept := by
  intro s t hs h
  have hrest (rest : List Turn) : SequencerInv { s with turns := rest } := sequencerInv_congr (s := s) rfl rfl hs
  cases stepped_of_step h with
  | idle rest => exact hrest rest
  | reset rest _ => exact sequencerInv_congr (s := State.reset) rfl rfl sequencerInv_reset
  | host a rest _ => exact sequencerInv_hostEffect (hostEffect_hostStep a _) (hrest rest)
  | regen o u rest =>
    have hr := samePlayer_regenStep o u { s with turns := rest }
    exact sequencerInv_congr hr.cptr hr.status (hrest rest)
  | overrun rest hb hc => exact sequencerInv_raise _ _ _ (hrest rest)
  | illegal rest c hb hc => exact sequencerInv_raise _ _ _ (sequencerInv_congr (s := s) rfl rfl hs)
  | command rest c i _ hb hc h =>
    exact sequencerInv_exec (s := State.latch { s with turns := rest } c) hb hc h (sequencerInv_congr (s := s) rfl rfl hs)

/-! ## Undisturbed notes -/

/-- All notes play on as they were, and NVOICES stays. -/
structure Undisturbed (s t : State) : Prop where
  nvoices : t.nvoices = s.nvoices
  play : ∀ n, (s.note n).SamePlay (t.note n)

theorem Undisturbed.of_eq {s t : State} (hv : t.nvoices = s.nvoices) (hn : t.notes = s.notes) : Undisturbed s t :=
  ⟨hv, fun n => by rw [State.note, State.note, hn]; exact .refl _⟩

theorem Steady.undisturbed {n : Nat} {s t : State} (h : Steady n s t) : Undisturbed s t := by
  refine ⟨h.nvoices, fun m => ?_⟩
  by_cases hm : m = n
  · exact hm ▸ h.play
  · exact (h.others m hm).symm ▸ .refl _

theorem undisturbed_setNote {n : Nat} {s : State} {x : Note} (h : (s.note n).SamePlay x) : Undisturbed s (s.setNote n x) := by
  refine ⟨rfl, fun m => ?_⟩
  rw [note_setNote]
  split
  · next hm => exact hm.1 ▸ h
  · exact .refl _

theorem undisturbed_hostEffect {s t : State} (e : HostEffect s t) : Undisturbed s t := by
  cases e with
  | note n x h => exact undisturbed_setNote h
  | start w => unfold cmdStart; split_ifs <;> exact .of_eq rfl rfl
  | _ => exact .of_eq rfl rfl

/-- What holds after reset, of undisturbed notes, and through NOTE.INIT, NOTE.OUT and NOTE.LEGATO, every step keeps. -/
theorem kept_of_undisturbed {Inv : State → Prop} (hkeep : ∀ s t, Undisturbed s t → Inv s → Inv t) (hreset : Inv State.reset)
    (hinit : ∀ n s, n < 16 → s.active n = false → Inv s → Inv (initFinal n s))
    (hout : ∀ n s, n < 16 → s.active n = true → Inv s → Inv (noteDone n s))
    (hlegato : ∀ n pitch velocity s, Inv s → Inv (noteLegato n pitch velocity s)) (s t : State) (hs : Inv s)
    (h : step s = .next t) : Inv t := by
  have hrest (rest : List Turn) : Inv { s with turns := rest } := hkeep s _ (.of_eq rfl rfl) hs
  have hadvance (u : State) : Inv u → Inv u.advance := hkeep u _ (.of_eq rfl rfl)
  have hexec (i : Instr) (u v : State) (hu : Inv u) (he : exec i u = .next v) : Inv v := by
    rcases exec_cases he with ⟨k, rfl⟩ | ⟨hf, hv⟩
    · exact hkeep u _ (.of_eq rfl rfl) hu
    have hw := wellFormed_of_no_fault hf
    cases hp : changesPlay i with
    | false =>
      rw [hv, completed, if_neg (by rintro rfl; cases hp)]
      obtain ⟨n, hn⟩ := steady_command hw hp u
      exact hadvance _ (hkeep u _ hn.undisturbed hu)
    | true =>
      cases i with
      | halt => exact hv ▸ hkeep u _ (.of_eq rfl rfl) hu
      | noteInit n =>
        have hn := (noteIndexOk_iff n).1 hw
        have ha : u.active n.toNat = false := by
          unfold faultOf at hf
          rw [if_neg (by simp [hw])] at hf
          cases ha : u.active n.toNat with
          | false => rfl
          | true => simp [ha] at hf
        rw [exec_noteInit n u hn ha] at he
        exact Host.Outcome.next.inj he ▸ hinit _ u hn ha hu
      | noteOut n =>
        have hn := (noteIndexOk_iff n).1 hw
        cases ha : u.active n.toNat with
        | false =>
          have hc : commandEffect (.noteOut n) u = noteSilence n.toNat u := if_neg (by simp [ha])
          rw [hv, completed, if_neg (by simp), hc]
          exact hadvance _ (hkeep u _ (steady_noteSilence n.toNat u).undisturbed hu)
        | true =>
          rw [exec_noteOut u n hn ha] at he
          exact Host.Outcome.next.inj he ▸ hout _ u hn ha hu
      | noteLegato n pitch velocity => exact hv ▸ hadvance _ (hlegato n.toNat pitch velocity u hu)
      | _ => cases hp
  cases stepped_of_step h with
  | idle rest => exact hrest rest
  | reset rest _ => exact hkeep State.reset _ (.of_eq rfl rfl) hreset
  | host a rest _ => exact hkeep _ _ (undisturbed_hostEffect (hostEffect_hostStep a _)) (hrest rest)
  | regen o u rest =>
    have hr := samePlayer_regenStep o u { s with turns := rest }
    exact hkeep _ _ (.of_eq hr.nvoices hr.notes) (hrest rest)
  | overrun rest _ _ => exact hkeep s _ (.of_eq rfl rfl) hs
  | illegal rest c _ _ => exact hkeep s _ (.of_eq rfl rfl) hs
  | command rest c i _ _ _ h => exact hexec i (State.latch { s with turns := rest } c) t (hkeep s _ (.of_eq rfl rfl) hs) h

/-! ## The budget -/

theorem note_reset (n : Nat) (hn : n < 16) : State.reset.note n = .reset := by
  simp [State.note, State.reset, hn]

theorem voice_noteReset (v : Nat) (hv : v < 8) : Note.reset.voice v = .reset := by
  simp [Note.voice, Note.reset, hv]

theorem createdTotal_eq (s : State) : s.createdTotal = ∑ n ∈ Finset.range 16, (s.note n).createdCount := by
  have hl : s.notes.toList = (List.range 16).map s.note := by
    apply List.ext_getElem
    · simp
    · intro i h1 h2
      have h16 : i < 16 := by simpa using h1
      simp [State.note, h16]
  rw [State.createdTotal, hl, List.map_map, Finset.sum_range, ← List.sum_ofFn, List.ofFn_eq_map, ← List.map_coe_finRange_eq_range,
    List.map_map]
  rfl

theorem createdCount_le (x : Note) : x.createdCount ≤ 8 := by
  rw [createdCount_eq]
  exact List.countP_le_length.trans (by simp)

/-- A change of one note changes the total by its own count. -/
theorem createdTotal_update {s t : State} {n : Nat} (hn : n < 16) (h : ∀ m, m ≠ n → t.note m = s.note m) :
    t.createdTotal + (s.note n).createdCount = s.createdTotal + (t.note n).createdCount := by
  have hmem : n ∈ Finset.range 16 := Finset.mem_range.2 hn
  have hrest : ∑ m ∈ (Finset.range 16).erase n, (t.note m).createdCount =
      ∑ m ∈ (Finset.range 16).erase n, (s.note m).createdCount :=
    Finset.sum_congr rfl fun m hm => by rw [h m (Finset.ne_of_mem_erase hm)]
  rw [createdTotal_eq, createdTotal_eq, ← Finset.add_sum_erase _ _ hmem, hrest,
    ← Finset.add_sum_erase _ (fun m => (s.note m).createdCount) hmem]
  omega

theorem createdCount_le_total {s : State} {n : Nat} (hn : n < 16) : (s.note n).createdCount ≤ s.createdTotal := by
  rw [createdTotal_eq]
  exact Finset.single_le_sum (f := fun m => (s.note m).createdCount) (fun _ _ => Nat.zero_le _) (Finset.mem_range.2 hn)

theorem budgetInv_undisturbed (s t : State) (h : Undisturbed s t) (hs : BudgetInv s) : BudgetInv t := by
  obtain ⟨htotal, hinactive⟩ := hs
  have hcount (n : Nat) : (t.note n).createdCount = (s.note n).createdCount :=
    createdCount_congr fun v _ => (h.play n).created v
  refine ⟨?_, fun n hn ha => ?_⟩
  · rw [h.nvoices, htotal, createdTotal_eq, createdTotal_eq]
    exact Finset.sum_congr rfl fun n _ => (hcount n).symm
  · rw [hcount n]
    exact hinactive n hn ((h.play n).active.symm.trans ha)

/-- One note's command keeps the budget, if it moves NVOICES with the note's own count. -/
theorem budgetInv_update {s t : State} {n : Nat} (hn : n < 16) (ho : ∀ m, m ≠ n → t.note m = s.note m) (hs : BudgetInv s)
    (hv : t.nvoices.toNat + (s.note n).createdCount = s.nvoices.toNat + (t.note n).createdCount)
    (ha : t.active n = false → (t.note n).createdCount = 0) : BudgetInv t := by
  obtain ⟨htotal, hinactive⟩ := hs
  have hu := createdTotal_update hn ho
  refine ⟨by omega, fun m hm hma => ?_⟩
  by_cases hmn : m = n
  · exact hmn ▸ ha (hmn ▸ hma)
  · rw [ho m hmn]
    exact hinactive m hm (by rw [State.active, ho m hmn] at hma; exact hma)

theorem budgetInv_noteInit (n : Nat) (s : State) (hn : n < 16) (ha : s.active n = false) (hs : BudgetInv s) :
    BudgetInv (initFinal n s) := by
  have hactive : (initFinal n s).active n = true :=
    (congrArg (fun x : Note => x.nstat.active) (head_initFinal n s hn) :)
  obtain ⟨hb, -, -⟩ := budget_before n s hn 8 le_rfl
  obtain ⟨-, -, hv, -⟩ := initFinal_keeps n s
  have hzero := hs.2 n hn ha
  refine budgetInv_update hn (configured_noteInit n s).others hs ?_ fun h => by rw [hactive] at h; cases h
  rw [hv, hb, createdCount_initFinal n s hn, hzero]
  omega

theorem budgetInv_noteOut (n : Nat) (s : State) (hn : n < 16) (ha : s.active n = true) (hs : BudgetInv s) :
    BudgetInv (noteDone n s) := by
  obtain ⟨hb, hle⟩ := budget_noteDone n s hn
  have hsmall := createdCount_le (s.note n)
  have hall := createdCount_le_total (s := s) hn
  have htotal := hs.1
  have hdiff : (noteDone n s).nvoices.toNat =
      s.nvoices.toNat - ((s.note n).createdCount - ((noteDone n s).note n).createdCount) := by
    have hof : (BitVec.ofNat 8 ((s.note n).createdCount - ((noteDone n s).note n).createdCount)).toNat =
        (s.note n).createdCount - ((noteDone n s).note n).createdCount := by
      rw [BitVec.toNat_ofNat, Nat.mod_eq_of_lt (by omega)]
    rw [hb, BitVec.toNat_sub_of_le (by rw [BitVec.le_def, hof]; omega), hof]
  refine budgetInv_update hn (configured_noteRender n s).others hs (by omega) fun h => ?_
  rcases outcome_noteDone n s hn with ⟨-, -, -, hzero⟩ | ⟨-, hact, -⟩
  · exact hzero
  · rw [State.active, hact] at h
    exact absurd (ha.symm.trans h) (by decide)

/-- NOTE.LEGATO begins and ends no note and no voice. -/
theorem legatoEvent_keeps (x : Note) (pitch vel : Word) : (x.legatoEvent pitch vel).nstat = x.nstat ∧
    (x.legatoEvent pitch vel).createdCount = x.createdCount := by
  unfold Note.legatoEvent
  split
  · split <;> exact ⟨rfl, rfl⟩
  all_goals exact ⟨rfl, rfl⟩

theorem budgetInv_noteLegato (n : Nat) (pitch velocity : Word) (s : State) (hs : BudgetInv s) :
    BudgetInv (noteLegato n pitch velocity s) := by
  obtain ⟨htotal, hinactive⟩ := hs
  have hnote (m : Nat) : ((noteLegato n pitch velocity s).note m).nstat = (s.note m).nstat ∧
      ((noteLegato n pitch velocity s).note m).createdCount = (s.note m).createdCount := by
    unfold noteLegato State.modNote
    rw [note_setNote]
    split
    · next hm =>
      rw [← hm.1]
      exact legatoEvent_keeps _ _ _
    · exact ⟨rfl, rfl⟩
  refine ⟨?_, fun m hm ha => ?_⟩
  · rw [createdTotal_eq, Finset.sum_congr rfl fun m _ => (hnote m).2, ← createdTotal_eq]
    exact htotal
  · rw [(hnote m).2]
    exact hinactive m hm (by rw [State.active, (hnote m).1] at ha; exact ha)

theorem budgetInv_reset : BudgetInv State.reset := by
  have hzero (n : Nat) (hn : n < 16) : (State.reset.note n).createdCount = 0 := by
    rw [note_reset n hn]
    exact createdCount_eq_zero fun v hv => by rw [voice_noteReset v hv]; rfl
  refine ⟨?_, fun n hn _ => hzero n hn⟩
  rw [createdTotal_eq, Finset.sum_congr rfl fun n hn => hzero n (Finset.mem_range.1 hn), Finset.sum_const_zero]
  rfl

/-- Settles O17: only NOTE.INIT and NOTE.OUT create and release voices, and both move NVOICES with them. -/
theorem budgetKept : Obligations.BudgetKept :=
  kept_of_undisturbed budgetInv_undisturbed budgetInv_reset budgetInv_noteInit budgetInv_noteOut budgetInv_noteLegato

/-! ## The legato machine -/

/-- The bounds of the legato machine (R59, R367), over its registers. -/
def Legato.Bounded (g : Legato) : Prop :=
  (g.state = .normal → g.count = 0) ∧ (g.state ≠ .normal → 1 ≤ g.count.toNat ∧ g.count.toNat ≤ 220) ∧
    (g.state = .fadeIn ∨ g.state = .fadeOut → g.silent = false) ∧ (g.state = .catchUp → g.silent = true)

theorem legatoInv_iff (x : Note) : x.LegatoInv ↔ x.legato.Bounded := Iff.rfl

/-- The count of a fade or a catch-up goes down by one until it is over. -/
theorem count_pred {c : Word} (h : 1 ≤ c.toNat) : (c - 1).toNat = c.toNat - 1 := by
  rw [BitVec.toNat_sub_of_le (by rw [BitVec.le_def]; exact h)]
  rfl

theorem bounded_countdown {g : Legato} (h : g.Bounded) (hg : g.state ≠ .normal) (h0 : ¬ g.count - 1 = 0) :
    Legato.Bounded { g with count := g.count - 1 } := by
  obtain ⟨-, hcount, hfade, hcatch⟩ := h
  have hpred := count_pred (hcount hg).1
  have hne : (g.count - 1).toNat ≠ 0 := fun hz => h0 (BitVec.eq_of_toNat_eq hz)
  have hle := (hcount hg).2
  refine ⟨fun hn => absurd hn hg, fun _ => ?_, hfade, hcatch⟩
  show 1 ≤ (g.count - 1).toNat ∧ (g.count - 1).toNat ≤ 220
  omega

theorem bounded_normal (silent : Bool) (fired : Bool) : Legato.Bounded ⟨.normal, silent, 0, fired⟩ := by
  simp [Legato.Bounded]

theorem bounded_next {g : Legato} (h : g.Bounded) : g.next.Bounded := by
  unfold Legato.next
  split
  · exact h
  · next hg =>
    split
    · exact bounded_normal _ _
    · exact bounded_countdown h (by rw [hg]; decide) ‹_›
  · next hg =>
    split
    · simp [Legato.Bounded]
    · exact bounded_countdown h (by rw [hg]; decide) ‹_›
  · next hg =>
    split
    · exact bounded_normal _ _
    · exact bounded_countdown h (by rw [hg]; decide) ‹_›

theorem bounded_after (cnt : Nat) {g : Legato} (h : g.Bounded) : (Legato.after cnt g).Bounded := by
  induction cnt generalizing g with
  | zero => exact h
  | succ cnt ih => exact ih (bounded_next h)

theorem legatoInv_undisturbed (s t : State) (h : Undisturbed s t) (hs : LegatoInv s) : LegatoInv t := fun n hn => by
  rw [legatoInv_iff, (h.play n).legato]
  exact hs n hn

/-- One note's command keeps the invariant, if it keeps it of that note. -/
theorem legatoInv_update {s t : State} {n : Nat} (ho : ∀ m, m ≠ n → t.note m = s.note m) (hs : LegatoInv s)
    (h : n < 16 → (t.note n).LegatoInv) : LegatoInv t := fun m hm => by
  by_cases hmn : m = n
  · exact hmn ▸ h (hmn ▸ hm)
  · rw [ho m hmn]
    exact hs m hm

theorem legatoInv_noteInit (n : Nat) (s : State) (hn : n < 16) (_ : s.active n = false) (hs : LegatoInv s) :
    LegatoInv (initFinal n s) := by
  refine legatoInv_update (configured_noteInit n s).others hs fun _ => ?_
  have hlegato : ((initFinal n s).note n).legato = (s.note n).construct.legato :=
    (congrArg Note.legato (head_initFinal n s hn) :)
  rw [legatoInv_iff, hlegato]
  exact bounded_normal _ _

theorem legatoInv_noteOut (n : Nat) (s : State) (hn : n < 16) (_ : s.active n = true) (hs : LegatoInv s) :
    LegatoInv (noteDone n s) := by
  refine legatoInv_update (configured_noteRender n s).others hs fun _ => ?_
  obtain ⟨⟨hstate, hsilent, hcount, -, -⟩, -⟩ := kept_registers (head_noteDone n s hn)
  have hb : (legatoAfter n s).Bounded := bounded_after 256 (hs n hn)
  unfold Note.LegatoInv
  rw [hstate, hsilent, hcount]
  exact hb

/-- NOTE.LEGATO begins a fade with its full length, or leaves state and count as they are (R360). -/
theorem legatoInv_legatoEvent {x : Note} (pitch vel : Word) (h : x.LegatoInv) : (x.legatoEvent pitch vel).LegatoInv := by
  unfold Note.legatoEvent
  split
  · split
    · simp [Note.LegatoInv]
    · next hsilent => simp [Note.LegatoInv, hsilent]
  all_goals exact h

theorem legatoInv_noteLegato (n : Nat) (pitch velocity : Word) (s : State) (hs : LegatoInv s) :
    LegatoInv (noteLegato n pitch velocity s) :=
  legatoInv_update (configured_noteLegato n s pitch velocity).others hs fun hn => by
    unfold noteLegato
    rw [note_modNote_self _ _ _ hn]
    exact legatoInv_legatoEvent pitch _ (hs n hn)

theorem legatoInv_reset : LegatoInv State.reset := fun n hn => by
  rw [note_reset n hn]
  exact bounded_normal false false

/-- Settles O18: the machine moves in NOTE.OUT only, and NOTE.INIT and NOTE.LEGATO set it inside its bounds. -/
theorem legatoKept : Obligations.LegatoKept :=
  kept_of_undisturbed legatoInv_undisturbed legatoInv_reset legatoInv_noteInit legatoInv_noteOut legatoInv_noteLegato

end Sys2Proof.Machine
end

section
/-! PROOFS. What commands do to the oscillators' registers, tables and banks (R52 to R56, R187): nothing, or, of an unsettled
oscillator, one preparation. -/

namespace Sys2Proof.Machine

/-! ## Words of memory -/

theorem word?_of_bytes {m k : Mem} {a n : Nat} (h : ∀ x, wordsAt a n x → m.byte? x = k.byte? x) {i : Nat} (hi : i < n) :
    m.word? (a + 4 * i) = k.word? (a + 4 * i) :=
  word?_congr m k _ fun x h1 h2 => h x (by unfold wordsAt; omega)

theorem written_of_bytes {s t : State} {a n : Nat} (h : ∀ x, wordsAt a n x → t.mem.byte? x = s.mem.byte? x)
    (hw : s.Written a n) : t.Written a n := fun i hi => by
  rw [word?_of_bytes h hi]
  exact hw i hi

theorem holds_of_bytes {m k : Mem} {a n : Nat} {ws : List Word} (h : ∀ x, wordsAt a n x → m.byte? x = k.byte? x)
    (hl : ws.length = n) (hh : k.Holds a ws) : m.Holds a ws := fun i hi => by
  rw [word?_of_bytes h (hl ▸ hi)]
  exact hh i hi

theorem holds_splice (m : Mem) (a : Nat) (ws : List Word) : (m.splice a (bytesOf ws)).Holds a ws := fun i hi =>
  word?_splice_bytesOf m a ws i hi

theorem tablesIn_congr {m k : Mem} {o : Nat} (h : ∀ x, wordsAt (hmagAddr o) 256 x → m.byte? x = k.byte? x) :
    tablesIn m o ↔ tablesIn k o :=
  forall_congr' fun i => forall_congr' fun hi => by rw [word?_of_bytes h hi]

/-- The spectrum of a configuration depends on the bytes of its tables. -/
theorem spectrumOf_congr {m k : Mem} {o : Nat} (c : OscCfg)
    (h : ∀ x, wordsAt (hmagAddr o) 256 x → m.byte? x = k.byte? x) : spectrumOf c m o = spectrumOf c k o := by
  have h1 : ((List.range 128).map fun i => (m.word? (hmagAddr o + 4 * i)).getD 0) =
      (List.range 128).map fun i => (k.word? (hmagAddr o + 4 * i)).getD 0 :=
    List.map_congr_left fun i hi => by rw [word?_of_bytes h (Nat.lt_trans (List.mem_range.1 hi) (by decide))]
  have h2 : ((List.range 128).map fun i => (m.word? (hphaseAddr o + 4 * i)).getD 0) =
      (List.range 128).map fun i => (k.word? (hphaseAddr o + 4 * i)).getD 0 :=
    List.map_congr_left fun i hi => by
      have hi' := List.mem_range.1 hi
      rw [show hphaseAddr o + 4 * i = hmagAddr o + 4 * (128 + i) by unfold hphaseAddr hmagAddr; omega,
        word?_of_bytes h (by omega)]
  unfold spectrumOf
  rw [h1, h2]

/-- Where the tables are written, a preparation computes the spectrum of configuration and tables. -/
theorem preparedSpectrum_of_tables {s : State} {o : Nat} (h : tablesIn s.mem o) :
    (preparedSpectrum s o).val = spectrumOf (s.osc o).cfg s.mem o := by
  have hcell {i : Nat} (hi : i < 256) : s.cell (hmagAddr o + 4 * i) = (s.mem.word? (hmagAddr o + 4 * i)).getD 0 := by
    obtain ⟨w, hw⟩ := Option.isSome_iff_exists.1 (h i hi)
    rw [cell_of_word? hw, hw]
    rfl
  have h1 : s.cells (hmagAddr o) 128 = (List.range 128).map fun i => (s.mem.word? (hmagAddr o + 4 * i)).getD 0 := by
    rw [cells_eq]
    exact List.map_congr_left fun i hi => hcell (Nat.lt_trans (List.mem_range.1 hi) (by decide))
  have h2 : s.cells (hphaseAddr o) 128 = (List.range 128).map fun i => (s.mem.word? (hphaseAddr o + 4 * i)).getD 0 := by
    rw [cells_eq]
    refine List.map_congr_left fun i hi => ?_
    have hi' := List.mem_range.1 hi
    rw [show hphaseAddr o + 4 * i = hmagAddr o + 4 * (128 + i) by unfold hphaseAddr hmagAddr; omega]
    exact hcell (by omega)
  unfold preparedSpectrum spectrumOf
  rw [h1, h2]

/-- A bank holds what it was filled with. -/
theorem holds_writeBank (o : Nat) (b : Bool) (S : Spectrum) (s : State) (h : S.length = 512) :
    (writeBank o b S s).mem.Holds (specAddr o b) (spectrumWords S) ∧
      (writeBank o b S s).mem.Holds (waveAddr o b) ((invT S).map toWord) := by
  refine ⟨holds_of_bytes (n := 1024) (fun x hx => ?_) (by rw [length_spectrumWords, h]) (holds_splice s.mem _ _),
    holds_splice _ _ _⟩
  refine (within_setSignedCells (n := 0) (P := fun _ => False) (A := wordsAt (waveAddr o b) (invT S).length) _ _
    (fun _ hx => hx) _).bytes x ?_
  rw [length_invT]
  simp only [wordsAt, specAddr, waveAddr] at hx ⊢
  cases b <;> simp at hx ⊢ <;> omega

/-! ## One oscillator -/

/-- Nothing of oscillator `o` changes: registers, tables, banks. -/
structure QuietAt (o : Nat) (s t : State) : Prop where
  osc : t.osc o = s.osc o
  tables : ∀ a, wordsAt (hmagAddr o) 256 a → t.mem.byte? a = s.mem.byte? a
  banks : ∀ b a, bankBytes o b a → t.mem.byte? a = s.mem.byte? a

/-- Oscillator `o` was unsettled and is prepared (R187): its shadow bank is filled from the configuration and published. -/
structure PreparesAt (o : Nat) (s t : State) : Prop where
  unsettled : s.unsettled o = true
  osc : t.osc o = (s.osc o).prepared
  tables : ∀ a, wordsAt (hmagAddr o) 256 a → t.mem.byte? a = s.mem.byte? a
  kept : ∀ a, bankBytes o (s.osc o).pubsel a → t.mem.byte? a = s.mem.byte? a
  written : t.Written (specAddr o (t.osc o).pubsel) 1024 ∧ t.Written (waveAddr o (t.osc o).pubsel) 1024
  holds : tablesIn s.mem o → t.mem.Holds (specAddr o (t.osc o).pubsel) (spectrumWords (spectrumOf (s.osc o).cfg s.mem o)) ∧
    t.mem.Holds (waveAddr o (t.osc o).pubsel) ((invT (spectrumOf (s.osc o).cfg s.mem o)).map toWord)

/-- Every oscillator stays as it is or is prepared once. -/
def Settles (s t : State) : Prop := ∀ o, o < 16 → QuietAt o s t ∨ PreparesAt o s t

section
variable {o : Nat} {s t u : State}

theorem QuietAt.refl (o : Nat) (s : State) : QuietAt o s s := ⟨rfl, fun _ _ => rfl, fun _ _ _ => rfl⟩

theorem QuietAt.trans (h : QuietAt o s t) (k : QuietAt o t u) : QuietAt o s u :=
  ⟨k.osc.trans h.osc, fun a ha => (k.tables a ha).trans (h.tables a ha), fun b a ha => (k.banks b a ha).trans (h.banks b a ha)⟩

theorem QuietAt.unsettled (h : QuietAt o s t) : t.unsettled o = s.unsettled o := by
  rw [State.unsettled, h.osc]
  rfl

theorem QuietAt.trans_prepares (h : QuietAt o s t) (k : PreparesAt o t u) : PreparesAt o s u where
  unsettled := h.unsettled ▸ k.unsettled
  osc := by rw [k.osc, h.osc]
  tables a ha := (k.tables a ha).trans (h.tables a ha)
  kept a ha := (k.kept a (h.osc.symm ▸ ha)).trans (h.banks _ a ha)
  written := k.written
  holds ht := by
    have hk := k.holds ((tablesIn_congr h.tables).2 ht)
    rwa [h.osc, spectrumOf_congr _ h.tables] at hk

theorem length_spectrumOf (c : OscCfg) (m : Mem) (o : Nat) : (spectrumOf c m o).length = 512 := length_prepareSpectrum _ _ _

theorem length_words_spectrumOf (c : OscCfg) (m : Mem) (o : Nat) : (spectrumWords (spectrumOf c m o)).length = 1024 := by
  rw [length_spectrumWords, length_spectrumOf]

theorem length_words_invT (S : Spectrum) : ((invT S).map toWord).length = 1024 := by rw [List.length_map, length_invT]

theorem PreparesAt.trans_quiet (h : PreparesAt o s t) (k : QuietAt o t u) : PreparesAt o s u where
  unsettled := h.unsettled
  osc := k.osc.trans h.osc
  tables a ha := (k.tables a ha).trans (h.tables a ha)
  kept a ha := (k.banks _ a ha).trans (h.kept a ha)
  written := by
    rw [k.osc]
    exact ⟨written_of_bytes (fun x hx => k.banks _ x (.inl hx)) h.written.1,
      written_of_bytes (fun x hx => k.banks _ x (.inr hx)) h.written.2⟩
  holds ht := by
    rw [k.osc]
    exact ⟨holds_of_bytes (fun x hx => k.banks _ x (.inl hx)) (length_words_spectrumOf _ _ _) (h.holds ht).1,
      holds_of_bytes (fun x hx => k.banks _ x (.inr hx)) (length_words_invT _) (h.holds ht).2⟩

theorem PreparesAt.settled (h : PreparesAt o s t) : t.unsettled o = false := by
  rw [State.unsettled, h.osc]
  rfl

theorem Settles.refl (s : State) : Settles s s := fun o _ => .inl (.refl o s)

theorem Settles.trans (h : Settles s t) (k : Settles t u) : Settles s u := fun o ho => by
  rcases h o ho with h | h <;> rcases k o ho with k | k
  · exact .inl (h.trans k)
  · exact .inr (h.trans_prepares k)
  · exact .inr (h.trans_quiet k)
  · exact absurd k.unsettled (by rw [h.settled]; decide)

/-! ## Updates outside the oscillators -/

/-- The addresses above the oscillators' tables and banks (R92). -/
def aboveOscs : Nat → Prop := fun a => 0x1000000 ≤ a

theorem table_not_above {a : Nat} (ho : o < 16) (h : wordsAt (hmagAddr o) 256 a) : 0x10000 ≤ a ∧ ¬ aboveOscs a := by
  simp only [wordsAt, hmagAddr, oscBase, aboveOscs] at *
  omega

theorem bank_not_above {b : Bool} {a : Nat} (ho : o < 16) (h : bankBytes o b a) : 0x100000 ≤ a ∧ ¬ aboveOscs a := by
  simp only [bankBytes, wordsAt, specAddr, waveAddr, aboveOscs] at *
  cases b <;> simp at h <;> omega

/-- An update that touches no oscillator and no byte between command memory and the note slots. -/
theorem settles_of_bytes (ho : ∀ o, t.osc o = s.osc o)
    (hb : ∀ a, 0x10000 ≤ a → ¬ aboveOscs a → t.mem.byte? a = s.mem.byte? a) : Settles s t := fun o ho' =>
  .inl ⟨ho o, fun a ha => hb a (table_not_above ho' ha).1 (table_not_above ho' ha).2, fun _ a ha =>
    hb a (Nat.le_trans (by decide) (bank_not_above ho' ha).1) (bank_not_above ho' ha).2⟩

theorem settles_of_eq (ho : t.oscs = s.oscs) (hm : t.mem = s.mem) : Settles s t :=
  settles_of_bytes (fun _ => by rw [State.osc, State.osc, ho]) fun _ _ _ => by rw [hm]

theorem settles_of_frame {mask : BitVec 8} {N : Nat → Prop} (h : Frame mask N nowhere aboveOscs s t) : Settles s t :=
  settles_of_bytes (fun o => h.outside.oscs o id) fun a _ ha => h.outside.bytes a ha

theorem settles_of_within {n : Nat} {P : Part → Prop} {A : Nat → Prop} (h : Within n P A s t) (hP : ∀ o, ¬ P (.osc o))
    (hA : ∀ a, A a → aboveOscs a) : Settles s t :=
  settles_of_bytes (fun o => h.osc (hP o)) fun a _ ha => h.bytes a fun k => ha (hA a k)

theorem voiceBytes_above {n v a : Nat} (h : voiceBytes n v a) : aboveOscs a := by
  simp only [voiceBytes, voiceBase, noteBase, aboveOscs] at *
  omega

end

/-! ## Oscillator commands -/

section
variable (o : Nat) (s : State)

/-- A preparation prepares its oscillator and leaves the others alone. -/
theorem settles_syncPrepare (ho : o < 16) (hu : s.unsettled o = true) : Settles s (syncPrepare o s) := fun p hp => by
  have w := within_syncPrepare (n := 0) o s
  have htables (a : Nat) (ha : wordsAt (hmagAddr p) 256 a) : (syncPrepare o s).mem.byte? a = s.mem.byte? a :=
    w.bytes a ((tables_apart (n := 0) hp ha).2 o _ ho)
  by_cases hpo : p = o
  · subst hpo
    have hosc := osc_syncPrepare p s ho
    refine .inr ⟨hu, hosc, htables, fun a ha => w.bytes a fun hb => ?_, written_syncPrepare p s ho, fun ht => ?_⟩
    · exact absurd (bankBytes_apart ha hb ho ho).2 (by cases (s.osc p).pubsel <;> decide)
    · rw [hosc, ← preparedSpectrum_of_tables ht, syncPrepare_eq]
      exact holds_writeBank p _ _ _ (length_preparedSpectrum p s)
  · exact .inl ⟨w.osc (by simp [hpo]), htables, fun b a ha => w.bytes a fun hb => hpo (bankBytes_apart ha hb hp ho).1⟩

theorem settles_tableSelect (ho : o < 16) : Settles s (tableSelect o s) := by
  cases h : s.unsettled o with
  | true => rw [tableSelect_unsettled h]; exact settles_syncPrepare o s ho h
  | false => rw [tableSelect_settled h]; exact .refl s

theorem settles_oscPrepare (ho : o < 16) : Settles s (oscPrepare o s) := by
  unfold oscPrepare
  split
  · exact settles_of_eq rfl rfl
  · next hd =>
    split
    · exact settles_of_eq rfl rfl
    · next hj =>
      have hu : s.unsettled o = true := by
        simp only [Bool.not_eq_true, Bool.not_eq_false', Option.isSome_eq_false_iff] at hd hj
        rw [State.unsettled, hd, hj]
        rfl
      exact (settles_syncPrepare o s ho hu).trans (settles_of_eq rfl rfl)

theorem settles_delivers {n v : Nat} {sel : Bool} {D : Delivery} {s : State} {g : GetOut} (h : Delivers n v sel D s g) :
    Settles s g.st := settles_of_within h.within (by simp) fun _ ha => voiceBytes_above (vwave_voice ha)

variable {n v : Nat} (hn : n < 16) (sel useres : Bool)
include hn

theorem settles_oscGet (freq : Nat) (ho : o < 16) : Settles s (oscGet o n v sel useres freq s).st := by
  rw [oscGet_tableSelect _ _ _ _ _ _ _ ho]
  exact (settles_tableSelect o s ho).trans
    (settles_delivers (delivers_oscGet hn o v sel useres _ _ (unsettled_tableSelect o s ho)))

theorem settles_fetch (p : Sat Int) (ho : o < 16) : Settles s (fetch o n v sel useres p s).st :=
  (settles_of_eq (s := s) (t := s.noteSat p.sat) rfl rfl).trans (settles_oscGet o _ hn sel useres _ ho)

end

/-! ## NOTE.INIT -/

section
variable (n v : Nat) (s : State) (hn : n < 16)

theorem fieldsBytes_above {F : UniField → Prop} {a : Nat} (h : fieldsBytes n v F a) : aboveOscs a := by
  obtain ⟨f, _, k, _, hk⟩ := h
  simp only [wordsAt, uniAddr, voiceBase, noteBase, aboveOscs] at *
  omega

include hn

theorem settles_initCarrier : Settles s (initCarrier n v s) :=
  (settles_fetch _ s hn false _ _ (Voice.carrier_lt _)).trans
    (settles_of_within (within_carrierStore n v s (Nat.le_of_lt_succ (s.voice n v).usize.isLt)) (by simp)
      fun _ => fieldsBytes_above n v)

theorem settles_initModulator : Settles s (initModulator n v s) := by
  cases h : (s.voice n v).ownModulator with
  | false => rw [initModulator_none n v s h]; exact .refl s
  | true =>
    exact (settles_fetch _ s hn true _ _ (Voice.modulator_lt _)).trans
      (settles_of_within (within_modulatorStore n v s h) (by simp) fun _ => fieldsBytes_above n v)

theorem settles_soundVoice : Settles s (soundVoice n v s) :=
  (((settles_initCarrier n v s hn).trans (settles_initModulator n v _ hn)).trans
    (settles_of_eq (t := (initModulator n v (initCarrier n v s)).modVoice n v Voice.startAmps) rfl rfl)).trans
      (settles_of_within (within_initRatios n v _) (by simp) fun a ha => voiceBytes_above (ratio_voice n v ha))

theorem settles_initVoice (hv : v < 8) (a : InitAcc) : Settles a.st (initVoice n a v).st := by
  have hvacate : Settles a.st (a.st.modVoice n v Voice.vacate) := settles_of_eq rfl rfl
  rcases turn_cases n v a.st with ⟨hc, -⟩ | ⟨-, hd, -⟩ | ⟨-, -, he⟩
  · rw [initVoice_created n v hn hv a hc]
    exact (settles_of_within (within_latched n v a.st) (by simp [initParts]) fun _ h => h.elim).trans
      (settles_soundVoice n v _ hn)
  · rw [initVoice_dropped n v hn hv a hd]
    exact hvacate.trans (settles_of_eq rfl rfl)
  · rw [initVoice_disabled n v hn hv a he]
    exact hvacate

theorem settles_before (m : Nat) (hm : m ≤ 8) : Settles s (before n s m) := by
  induction m with
  | zero =>
    exact settles_of_within (within_noteConstruct n s) (by simp [constructParts, sourcesParts]) fun _ h => h.elim
  | succ m ih =>
    rw [before_succ]
    exact (ih (by omega)).trans (settles_initVoice n m hn (by omega) (initBefore n s m))

theorem settles_noteInit : Settles s (noteInit n s) :=
  (settles_before n s hn 8 le_rfl).trans (settles_of_eq rfl rfl)

end

/-! ## Every command -/

/-- The commands that start or cancel a background job. -/
def changesJobs : Instr → Bool
  | .oscRegen _ | .oscCancel _ => true
  | _ => false

theorem noteBytes_above {n a : Nat} (h : noteBytes n a) : aboveOscs a := by
  simp only [noteBytes, noteBase, aboveOscs] at *
  omega

theorem above_buffer {n a : Nat} {buf : Byte} (h : wordsAt (bufferAddr n buf) 256 a) : aboveOscs a := by
  simp only [wordsAt, bufferAddr, outlAddr, outrAddr, voutAddr, voiceBase, noteBase, aboveOscs] at *
  split_ifs at h <;> omega

theorem settles_fltOut (n f : Nat) (buf : Byte) (s : State) : Settles s (fltOut n f (bufferAddr n buf) s) := by
  unfold fltOut
  split
  · exact .refl s
  · exact (settles_of_frame ((frame_touch (mask := .allOnes 8) (N := fun _ => True) _ _ s).trans
      (frame_filterBlock n f _ trivial (by decide) _))).trans
        (settles_of_frame (mask := .allOnes 8) (N := nowhere) (frame_setSignedCells _ _ (fun _ hx => above_buffer (by
          rwa [length_filterBlock, length_signedCells] at hx)) _))

theorem settles_mixStore (l r : List Int) (s : State) :
    Settles s ((s.setSignedCells mixlAddr l).setSignedCells mixrAddr r) :=
  settles_of_frame (mask := .allOnes 8) (N := nowhere) ((frame_setSignedCells _ _ (fun _ hx =>
    (by decide : 0x1000000 ≤ mixlAddr).trans hx.1) s).trans
      (frame_setSignedCells _ _ (fun _ hx => (by decide : 0x1000000 ≤ mixrAddr).trans hx.1) _))

theorem settles_mixAll (mask : BitVec 16) (s : State) : Settles s (mixAll mask s) := by
  have htouch : Frame (.allOnes 8) nowhere nowhere aboveOscs s (touchNotes (selectedNotes mask) s) :=
    Frame.foldl _ (fun t m => (frame_touch (outlAddr m) 256 t).trans (frame_touch (outrAddr m) 256 _)) _ s
  exact (settles_of_frame (htouch.trans (frame_noteSat _ (by decide) _))).trans (settles_mixStore _ _ _)

/-- Every command but these two leaves each oscillator as it is, or prepares it. -/
theorem settles_command {i : Instr} (hw : i.wellFormed = true) (hi : changesJobs i = false) (s : State) :
    Settles s (commandEffect i s) := by
  have hframe {t : State} (h : Frame (.allOnes 8) (fun _ => True) nowhere aboveOscs s t) : Settles s t := settles_of_frame h
  cases i with
  | nop => exact .refl s
  | halt => exact settles_of_eq rfl rfl
  | oscPrepare o => exact settles_oscPrepare _ s ((oscIndexOk_iff o).1 hw)
  | oscGet o n v sel useres freq =>
    simp only [Instr.wellFormed, Bool.and_eq_true] at hw
    obtain ⟨⟨ho, hn⟩, -⟩ := hw
    exact (settles_oscGet _ s ((noteIndexOk_iff n).1 hn) sel useres _ ((oscIndexOk_iff o).1 ho)).trans
      (settles_of_eq rfl rfl)
  | oscRegen o | oscCancel o => cases hi
  | envReset n k => exact hframe (frame_envReset _ _ trivial (by decide) (by decide) s)
  | envOut n k => exact (hframe (frame_runEnvStep n.toNat k.toNat trivial (by decide) s)).trans (settles_of_eq rfl rfl)
  | envOutdb n k => exact (hframe (frame_runEnvOutDb n.toNat k.toNat trivial (by decide) s)).trans (settles_of_eq rfl rfl)
  | envRelease n k => exact settles_of_eq rfl rfl
  | envFinish n k => exact settles_of_eq rfl rfl
  | lfoReset n k => exact settles_of_eq rfl rfl
  | lfoOut n k => exact settles_of_eq rfl rfl
  | fltSetfreq n f freq => exact settles_of_eq rfl rfl
  | fltSetfq n f freq q => exact settles_of_eq rfl rfl
  | fltOut n f buf => exact settles_fltOut _ _ buf s
  | fltCleanup n f => exact settles_of_eq rfl rfl
  | noteInit n => exact settles_noteInit _ s ((noteIndexOk_iff n).1 hw)
  | noteOut n =>
    exact hframe (frame_noteOut n.toNat trivial (by decide) (by decide) (by decide) (fun _ => noteBytes_above) s)
  | noteRelease n => exact settles_of_eq rfl rfl
  | noteKill n => exact settles_of_eq rfl rfl
  | noteLegato n pitch velocity => exact settles_of_eq rfl rfl
  | noteSetvel n value => exact settles_of_eq rfl rfl
  | noteSetpitch n value => exact settles_of_eq rfl rfl
  | noteSetcut n value => exact settles_of_eq rfl rfl
  | noteFin n => exact settles_of_eq rfl rfl
  | mixAll mask => exact settles_mixAll mask s
  | mixClear => exact settles_mixStore _ _ s

end Sys2Proof.Machine
end

section
/-! PROOFS. A prepared spectrum reads back from its bank (R54, R198, R199): its bins lie in the 32-bit range. -/

namespace Sys2Proof.Machine

/-! ## Ranges -/

/-- Both cells of a bin lie in the 32-bit signed range. -/
def BinInRange (c : Int × Int) : Prop :=
  (-2147483648 ≤ c.1 ∧ c.1 ≤ 2147483647) ∧ -2147483648 ≤ c.2 ∧ c.2 ≤ 2147483647

theorem binInRange_zero : BinInRange (0, 0) := by unfold BinInRange; omega

theorem binInRange_divBin (c : Int × Int) (d : Nat) : BinInRange (divBin c d).val := ⟨sat32_range _, sat32_range _⟩

theorem bin_mapBins (S : Spectrum) (f : Nat → Int × Int → Sat (Int × Int)) {k : Nat} (h1 : 1 ≤ k) (h2 : k ≤ 511) :
    Spectrum.bin (mapBins S f).val k = (f k (S.bin k)).val := by
  have hbin : Spectrum.bin (mapBins S f).val k = (if k = 0 then Sat.ok (S.bin 0) else f k (S.bin k)).val := by
    simp only [mapBins, mapSat, List.map_map]
    exact Spectrum.bin_map_range _ _ _ (by simp only [Config.HB]; omega)
  rw [hbin, if_neg (by omega)]

theorem mem_binNumbers {k : Nat} (h1 : 1 ≤ k) (h2 : k ≤ 511) : k ∈ binNumbers :=
  List.mem_map.2 ⟨k - 1, List.mem_range.2 (by omega), by omega⟩

/-- A bin without magnitude is (0, 0). -/
theorem eq_zero_of_squares {c : Int × Int} (h : c.1 * c.1 + c.2 * c.2 = 0) : c = (0, 0) := by
  have h1 := mul_self_nonneg c.1
  have h2 := mul_self_nonneg c.2
  exact Prod.ext (mul_self_eq_zero.1 (by omega)) (mul_self_eq_zero.1 (by omega))

theorem eq_zero_of_mag {c : Int × Int} (h : mag c = 0) : c = (0, 0) := by
  have h0 := isqrt_eq_zero _ h
  have h1 := mul_self_nonneg c.1
  have h2 := mul_self_nonneg c.2
  exact eq_zero_of_squares (by omega)

theorem binInRange_normaliseSum (S : Spectrum) {k : Nat} (h1 : 1 ≤ k) (h2 : k ≤ 511) :
    BinInRange (Spectrum.bin (normaliseSum S).val k) := by
  unfold normaliseSum
  dsimp only
  split
  · next hd =>
    have hk := List.sum_eq_zero_iff.1 hd _ (List.mem_map_of_mem (mem_binNumbers h1 h2))
    exact (eq_zero_of_mag hk).symm ▸ binInRange_zero
  · rw [bin_mapBins _ _ h1 h2]
    exact binInRange_divBin _ _

theorem binInRange_normaliseRms (S : Spectrum) {k : Nat} (h1 : 1 ≤ k) (h2 : k ≤ 511) :
    BinInRange (Spectrum.bin (normaliseRms S).val k) := by
  unfold normaliseRms
  dsimp only
  split
  · next hr =>
    have hsum := isqrt_eq_zero _ hr
    have hle := List.single_le_sum (l := binNumbers.map fun j => (S.bin j).1 * (S.bin j).1 + (S.bin j).2 * (S.bin j).2)
      (fun x hx => by
        obtain ⟨j, -, rfl⟩ := List.mem_map.1 hx
        exact add_nonneg (mul_self_nonneg _) (mul_self_nonneg _)) _ (List.mem_map_of_mem (mem_binNumbers h1 h2))
    have h1 := mul_self_nonneg (S.bin k).1
    have h2 := mul_self_nonneg (S.bin k).2
    have hzero : S.bin k = (0, 0) := eq_zero_of_squares (by omega)
    exact hzero.symm ▸ binInRange_zero
  · rw [bin_mapBins _ _ h1 h2]
    exact binInRange_divBin _ _

/-- Every bin of a prepared spectrum was narrowed by the normalisation, or is (0, 0). -/
theorem binInRange_prepareSpectrum (c : OscCfg) (hmag hphase : List Nat) (k : Nat) (hk : k < 512) :
    BinInRange (Spectrum.bin (prepareSpectrum c hmag hphase).val k) := by
  have hzero (S : Spectrum) (h : ∀ j, 1 ≤ j → j ≤ 511 → BinInRange (S.bin j)) : BinInRange (Spectrum.bin (zeroDC S) k) := by
    obtain ⟨-, h0, hbins⟩ := zeroDC_bins S
    rcases Nat.eq_zero_or_pos k with rfl | hpos
    · exact h0.symm ▸ binInRange_zero
    · exact (hbins k hpos (by omega)).symm ▸ h k hpos (by omega)
  unfold prepareSpectrum
  simp only [Sat.bind, Sat.map]
  refine hzero _ fun j h1 h2 => ?_
  split
  · exact binInRange_normaliseSum _ h1 h2
  · exact binInRange_normaliseRms _ h1 h2

/-! ## Reading a bank back -/

theorem spectrumWords_getElem? (S : Spectrum) (k : Nat) :
    (spectrumWords S)[2 * k]? = S[k]?.map (fun c => toWord c.1) ∧
      (spectrumWords S)[2 * k + 1]? = S[k]?.map fun c => toWord c.2 := by
  induction S generalizing k with
  | nil => simp [spectrumWords]
  | cons c S ih =>
    have hcons : spectrumWords (c :: S) = toWord c.1 :: toWord c.2 :: spectrumWords S := by simp [spectrumWords]
    rw [hcons]
    cases k with
    | zero => exact ⟨rfl, rfl⟩
    | succ k =>
      rw [show 2 * (k + 1) = 2 * k + 1 + 1 by omega]
      exact ih k

/-- A spectrum whose bins lie in the 32-bit range reads back from its words (R54). -/
theorem spectrumOfWords_spectrumWords {S : Spectrum} (hl : S.length = 512) (hr : ∀ k, k < 512 → BinInRange (S.bin k)) :
    spectrumOfWords (spectrumWords S) = S := by
  refine List.ext_getElem (by simp [spectrumOfWords, hl]) fun k h1 h2 => ?_
  have hk : k < 512 := hl ▸ h2
  obtain ⟨⟨ha, hb⟩, hc, hd⟩ := hr k hk
  obtain ⟨e1, e2⟩ := spectrumWords_getElem? S k
  have hbin : S.bin k = S[k] := by simp [Spectrum.bin, List.getD, h2]
  rw [hbin] at ha hb hc hd
  simp only [spectrumOfWords, List.getElem_map, List.getElem_range, List.getD, e1, e2, List.getElem?_eq_getElem h2,
    Option.map_some, Option.getD_some]
  rw [toInt_toWord _ ha hb, toInt_toWord _ hc hd]

theorem spectrumOfWords_spectrumOf (c : OscCfg) (m : Mem) (o : Nat) :
    spectrumOfWords (spectrumWords (spectrumOf c m o)) = spectrumOf c m o :=
  spectrumOfWords_spectrumWords (length_spectrumOf c m o) fun k hk => binInRange_prepareSpectrum _ _ _ k hk

end Sys2Proof.Machine
end

section
/-! PROOFS. The published banks and the regeneration jobs (R53 to R56, R113, R117, R187, R204 to R212): what commands, workers
and HOST keep of them. -/

namespace Sys2Proof.Machine

/-! ## One oscillator's banks -/

/-- What the invariant of the banks says of oscillator `o`. -/
structure BanksAt (s : State) (o : Nat) : Prop where
  written : (s.osc o).valid = true →
    s.Written (specAddr o (s.osc o).pubsel) 1024 ∧ s.Written (waveAddr o (s.osc o).pubsel) 1024
  clean : (s.osc o).dirty = false → (s.osc o).valid = true ∧
    (tablesIn s.mem o → s.mem.Holds (specAddr o (s.osc o).pubsel) (spectrumWords (spectrumOf (s.osc o).cfg s.mem o)) ∧
      s.mem.Holds (waveAddr o (s.osc o).pubsel) ((invT (spectrumOf (s.osc o).cfg s.mem o)).map toWord))
  job : ∀ j, (s.osc o).job = some j → JobInv s o j

theorem banksInv_iff (s : State) : BanksInv s ↔ ∀ o, o < 16 → BanksAt s o :=
  ⟨fun h o ho => ⟨h.written o ho, h.clean o ho, fun j => h.jobs o j ho⟩,
    fun h => ⟨fun o ho => (h o ho).written, fun o ho => (h o ho).clean, fun o j ho => (h o ho).job j⟩⟩

/-- A clean oscillator is published with the present version. -/
def FreshAt (s : State) (o : Nat) : Prop :=
  (s.osc o).dirty = false → (s.osc o).valid = true ∧ (s.osc o).pubver = (s.osc o).cfgver

section
variable {o : Nat} {s t : State}

/-- The published bank is kept, and the registers that speak of it; a clean oscillator stays clean with its configuration. -/
theorem banksAt_of_published (h : BanksAt s o) (hvalid : (t.osc o).valid = (s.osc o).valid)
    (hpub : (t.osc o).pubsel = (s.osc o).pubsel)
    (hbank : ∀ a, bankBytes o (s.osc o).pubsel a → t.mem.byte? a = s.mem.byte? a)
    (hclean : (t.osc o).dirty = false → (s.osc o).dirty = false ∧ (t.osc o).cfg = (s.osc o).cfg ∧
      ∀ a, wordsAt (hmagAddr o) 256 a → t.mem.byte? a = s.mem.byte? a)
    (hjob : ∀ j, (t.osc o).job = some j → JobInv t o j) : BanksAt t o where
  written hv := by
    rw [hpub]
    obtain ⟨h1, h2⟩ := h.written (hvalid ▸ hv)
    exact ⟨written_of_bytes (fun x hx => hbank x (.inl hx)) h1, written_of_bytes (fun x hx => hbank x (.inr hx)) h2⟩
  clean hd := by
    obtain ⟨hds, hcfg, htab⟩ := hclean hd
    obtain ⟨hv, hholds⟩ := h.clean hds
    rw [hvalid, hpub, hcfg, tablesIn_congr htab, spectrumOf_congr _ htab]
    refine ⟨hv, fun ht => ?_⟩
    obtain ⟨h1, h2⟩ := hholds ht
    exact ⟨holds_of_bytes (fun x hx => hbank x (.inl hx)) (length_words_spectrumOf _ _ _) h1,
      holds_of_bytes (fun x hx => hbank x (.inr hx)) (length_words_invT _) h2⟩
  job := hjob

/-- A job goes on where its shadow bank is kept, and its snapshot is the present configuration if its version says so. -/
theorem jobInv_of_shadow {j : Job} (h : JobInv s o j) (hpub : (t.osc o).pubsel = (s.osc o).pubsel)
    (hbank : ∀ a, bankBytes o (!(s.osc o).pubsel) a → t.mem.byte? a = s.mem.byte? a)
    (hsnap : j.snapVer = (t.osc o).cfgver → j.snapCfg = (t.osc o).cfg ∧
      ∀ a, wordsAt (hmagAddr o) 256 a → j.snapTable.byte? a = t.mem.byte? a) : JobInv t o j where
  snapshot := hsnap
  spectrum hs := by
    rw [hpub]
    obtain ⟨hw, hh⟩ := h.spectrum hs
    exact ⟨written_of_bytes (fun x hx => hbank x (.inl hx)) hw, fun ht =>
      holds_of_bytes (fun x hx => hbank x (.inl hx)) (length_words_spectrumOf _ _ _) (hh ht)⟩
  samples u hu := by
    rw [hpub]
    obtain ⟨hlt, hs, hword⟩ := h.samples u hu
    rw [cells_of_written (h.spectrum hs).1 fun x hx => hbank x (.inl hx), word?_of_bytes (fun x hx => hbank x (.inr hx)) hlt]
    exact ⟨hlt, hs, hword⟩

theorem jobInv_keepSnapshot {j : Job} (h : JobInv s o j) (hcfg : (t.osc o).cfg = (s.osc o).cfg)
    (hver : (t.osc o).cfgver = (s.osc o).cfgver) (htab : ∀ a, wordsAt (hmagAddr o) 256 a → t.mem.byte? a = s.mem.byte? a) :
    j.snapVer = (t.osc o).cfgver → j.snapCfg = (t.osc o).cfg ∧
      ∀ a, wordsAt (hmagAddr o) 256 a → j.snapTable.byte? a = t.mem.byte? a := by
  intro hv
  obtain ⟨h1, h2⟩ := h.snapshot (hv.trans hver)
  exact ⟨h1.trans hcfg.symm, fun a ha => (h2 a ha).trans (htab a ha).symm⟩

theorem banksAt_quiet (q : QuietAt o s t) (h : BanksAt s o) : BanksAt t o :=
  banksAt_of_published h (by rw [q.osc]) (by rw [q.osc]) (q.banks _) (fun hd => ⟨q.osc ▸ hd, by rw [q.osc], q.tables⟩)
    fun j hj => by
      have hs := h.job j (q.osc ▸ hj)
      exact jobInv_of_shadow hs (by rw [q.osc]) (q.banks _)
        (jobInv_keepSnapshot hs (by rw [q.osc]) (by rw [q.osc]) q.tables)

theorem banksAt_prepares (p : PreparesAt o s t) : BanksAt t o where
  written _ := p.written
  clean _ := by
    have hcfg : (t.osc o).cfg = (s.osc o).cfg := by rw [p.osc]; rfl
    rw [hcfg, spectrumOf_congr _ p.tables, tablesIn_congr p.tables]
    exact ⟨by rw [p.osc]; rfl, p.holds⟩
  job j hj := by
    have hnone := p.unsettled
    rw [State.unsettled, Bool.and_eq_true, Option.isNone_iff_eq_none] at hnone
    have hjob : (t.osc o).job = (s.osc o).job := by rw [p.osc]; rfl
    rw [hjob, hnone.2] at hj
    cases hj

theorem freshAt_quiet (q : QuietAt o s t) (h : FreshAt s o) : FreshAt t o := by
  unfold FreshAt
  rw [q.osc]
  exact h

theorem freshAt_prepares (p : PreparesAt o s t) : FreshAt t o := fun _ => by
  rw [p.osc]
  exact ⟨rfl, rfl⟩

theorem banksInv_settles (h : Settles s t) (hs : BanksInv s) : BanksInv t :=
  (banksInv_iff t).2 fun o ho => (h o ho).elim (fun q => banksAt_quiet q ((banksInv_iff s).1 hs o ho)) banksAt_prepares

theorem freshInv_settles (h : Settles s t) (hs : FreshInv s) : FreshInv t := fun o ho =>
  (h o ho).elim (fun q => freshAt_quiet q (hs o ho)) freshAt_prepares

end

/-! ## Starting and cancelling a job (R204, R212) -/

section
variable {o : Nat} {s t : State}

/-- A command that gives oscillator `o` a job, or another one, and changes no memory. -/
structure Rejobs (o : Nat) (x : Option Job) (s t : State) : Prop where
  osc : t.osc o = { s.osc o with job := x }
  others : ∀ p, p ≠ o → t.osc p = s.osc p
  mem : t.mem = s.mem

theorem rejobs_setOsc (ho : o < 16) (x : Option Job) (s : State) (m : State) (hm : m.oscs = s.oscs) (hmem : m.mem = s.mem) :
    Rejobs o x s (m.setOsc o { s.osc o with job := x }) :=
  ⟨osc_setOsc_self _ _ _ ho, fun p hp => (osc_setOsc_ne _ _ _ _ hp.symm).trans (by rw [State.osc, State.osc, hm]), hmem⟩

theorem Rejobs.quietAt {x : Option Job} (h : Rejobs o x s t) {p : Nat} (hp : p ≠ o) : QuietAt p s t :=
  ⟨h.others p hp, fun _ _ => by rw [h.mem], fun _ _ _ => by rw [h.mem]⟩

theorem Rejobs.freshInv {x : Option Job} (h : Rejobs o x s t) (hs : FreshInv s) : FreshInv t := fun p hp => by
  by_cases hpo : p = o
  · subst hpo
    rw [h.osc]
    exact hs p hp
  · exact freshAt_quiet (h.quietAt hpo) (hs p hp)

theorem Rejobs.banksInv {x : Option Job} (h : Rejobs o x s t) (hjob : ∀ j, x = some j → JobInv t o j) (hs : BanksInv s) :
    BanksInv t := (banksInv_iff t).2 fun p hp => by
  have hsp := (banksInv_iff s).1 hs p hp
  by_cases hpo : p = o
  · subst hpo
    refine banksAt_of_published hsp (by rw [h.osc]) (by rw [h.osc]) (fun _ _ => by rw [h.mem])
      (fun hd => ⟨by rw [h.osc] at hd; exact hd, by rw [h.osc], fun _ _ => by rw [h.mem]⟩) fun j hj => hjob j ?_
    rw [h.osc] at hj
    exact hj
  · exact banksAt_quiet (h.quietAt hpo) hsp

/-- The job that OSC.REGEN starts (R204). -/
def newJob (o : Nat) (s : State) : Job :=
  { snapCfg := (s.osc o).cfg, snapTable := s.mem.window (hmagAddr o) 1024, snapVer := (s.osc o).cfgver, cancel := false,
    specDone := false, unitDone := [] }

theorem rejobs_startJob (ho : o < 16) (s : State) : Rejobs o (some (newJob o s)) s (startJob o s) :=
  rejobs_setOsc ho _ s (s.touch (hmagAddr o) 256) rfl rfl

theorem jobInv_newJob (h : Rejobs o (some (newJob o s)) s t) : JobInv t o (newJob o s) where
  snapshot _ := by
    rw [h.osc, h.mem]
    exact ⟨rfl, fun a ha => (byte?_window _ _ _ _).trans (if_pos ha)⟩
  spectrum hs := by cases hs
  samples u hu := by cases hu

/-- What OSC.REGEN and OSC.CANCEL can do: nothing to the oscillators, or start a job, or mark the running one. -/
inductive JobEffect (o : Nat) (s : State) : State → Prop where
  | none (t : State) (h : Settles s t) : JobEffect o s t
  | start (t : State) (h : Rejobs o (some (newJob o s)) s t) : JobEffect o s t
  | mark (t : State) (j : Job) (hj : (s.osc o).job = some j) (h : Rejobs o (some { j with cancel := true }) s t) :
    JobEffect o s t

theorem Rejobs.of_eq {x : Option Job} {u : State} (h : Rejobs o x s t) (ho : u.oscs = t.oscs) (hm : u.mem = t.mem) :
    Rejobs o x s u := by
  have hosc (p : Nat) : u.osc p = t.osc p := by rw [State.osc, State.osc, ho]
  exact ⟨(hosc o).trans h.osc, fun p hp => (hosc p).trans (h.others p hp), hm.trans h.mem⟩

theorem jobEffect_oscRegen (ho : o < 16) (s : State) : JobEffect o s (oscRegen o s) := by
  unfold oscRegen
  split
  · exact .none _ (settles_of_eq rfl rfl)
  · exact .start _ ((rejobs_startJob ho s).of_eq rfl rfl)

theorem jobEffect_oscCancel (ho : o < 16) (s : State) : JobEffect o s (oscCancel o s) := by
  unfold oscCancel
  split
  · exact .none _ (settles_of_eq rfl rfl)
  · next j hj => exact .mark _ j hj ((rejobs_setOsc ho _ s s rfl rfl).of_eq rfl rfl)

theorem JobEffect.freshInv (h : JobEffect o s t) (hs : FreshInv s) : FreshInv t := by
  cases h with
  | none h => exact freshInv_settles h hs
  | start h => exact h.freshInv hs
  | mark j hj h => exact h.freshInv hs

theorem JobEffect.banksInv (h : JobEffect o s t) (ho : o < 16) (hs : BanksInv s) : BanksInv t := by
  cases h with
  | none h => exact banksInv_settles h hs
  | start h => exact h.banksInv (fun j hj => Option.some.inj hj ▸ jobInv_newJob h) hs
  | mark j hj h =>
    refine h.banksInv (fun k hk => ?_) hs
    obtain rfl := Option.some.inj hk
    have hjob := hs.jobs o j ho hj
    have hmark : JobInv s o { j with cancel := true } := ⟨hjob.snapshot, hjob.spectrum, hjob.samples⟩
    exact jobInv_of_shadow hmark (by rw [h.osc]) (fun _ _ => by rw [h.mem])
      (jobInv_keepSnapshot hmark (by rw [h.osc]) (by rw [h.osc]) fun _ _ => by rw [h.mem])

theorem JobEffect.bytes (h : JobEffect o s t) {p a : Nat} (hp : p < 16) (ha : bankBytes p (s.osc p).pubsel a) :
    t.mem.byte? a = s.mem.byte? a := by
  cases h with
  | none h => exact (h p hp).elim (fun q => q.banks _ a ha) fun k => k.kept a ha
  | start h => rw [h.mem]
  | mark j hj h => rw [h.mem]

end

end Sys2Proof.Machine
end

section
/-! PROOFS. The steps of the regeneration workers (R205 to R210): what each of the four kinds writes, and what it keeps of the
banks; and that no step but reset changes a byte of a published bank. -/

namespace Sys2Proof.Machine

theorem within_eraseCells {n : Nat} {P : Part → Prop} {A : Nat → Prop} (a m : Nat) (h : ∀ x, wordsAt a m x → A x) (s : State) :
    Within n P A s (s.eraseCells a m) := by
  refine ⟨fun p _ => ?_, fun x hx => ?_, rfl, rfl⟩
  · cases p with
    | amp => exact ⟨rfl, rfl⟩
    | _ => exact rfl
  · rw [eraseCells_mem, byte?_erase, if_neg]
    exact fun k => hx (h x k)

theorem within_undef {n : Nat} {P : Part → Prop} {A : Nat → Prop} (b : Bool) (k : Nat) (h : P .undef) (s : State) :
    Within n P A s { s with undefRead := b, undefReads := k } := by
  refine ⟨fun p hp => ?_, fun _ _ => rfl, rfl, rfl⟩
  cases p with
  | undef => exact absurd h hp
  | amp => exact ⟨rfl, rfl⟩
  | _ => exact rfl

/-! ## Kinds of step -/

section
variable {o u : Nat} {s : State}

theorem job_of_le (h : 16 ≤ o) : (s.osc o).job = none := by
  rw [State.osc, Vector.getElem?_eq_none h]
  rfl

theorem lt_of_job {j : Job} (h : (s.osc o).job = some j) : o < 16 := by
  by_contra hc
  rw [job_of_le (Nat.le_of_not_lt hc)] at h
  cases h

/-- What a worker on oscillator `o` does (R205). -/
inductive WorkerEffect (o : Nat) (s : State) : State → Prop where
  | idle : WorkerEffect o s s
  | cancel (j : Job) (hj : (s.osc o).job = some j) : WorkerEffect o s (observeCancel o s)
  | spectrum (j : Job) (hj : (s.osc o).job = some j) (hs : j.specDone = false) : WorkerEffect o s (spectrumUnit o j s)
  | publish (j : Job) (hj : (s.osc o).job = some j) (hs : j.specDone = true) (ha : j.allDone = true) :
    WorkerEffect o s (publish o j s)
  | sample (j : Job) (u : Nat) (hj : (s.osc o).job = some j) (hs : j.specDone = true) (hu : u < 1024) :
    WorkerEffect o s (sampleUnit o u j s)

theorem workerEffect_regenStep (o u : Nat) (s : State) : WorkerEffect o s (regenStep o u s) := by
  unfold regenStep
  split
  · exact .idle
  · next j hj =>
    split
    · exact .cancel j hj
    · split
      · next hs => exact .spectrum j hj (by simpa using hs)
      · next hs =>
        have hs : j.specDone = true := by simpa using hs
        split
        · next ha => exact .publish j hj hs ha
        · split
          · next hu =>
            simp only [Bool.and_eq_true, decide_eq_true_eq] at hu
            exact .sample j u hj hs hu.1
          · exact .idle

end

/-! ## What each kind writes -/

/-- The spectrum of a job's snapshot (R206). -/
def jobSpectrum (o : Nat) (j : Job) (reads : Nat) : Sat Spectrum :=
  prepareSpectrum j.snapCfg (codes (j.column reads (hmagAddr o))) (codes (j.column reads (hphaseAddr o)))

theorem length_jobSpectrum (o : Nat) (j : Job) (reads : Nat) : (jobSpectrum o j reads).val.length = 512 :=
  length_prepareSpectrum _ _ _

theorem spectrumUnit_eq (o : Nat) (j : Job) (s : State) : spectrumUnit o j s =
    (((State.setErrIf { s with
        undefRead := s.undefRead || !definedIn j.snapTable (hmagAddr o) 256
        undefReads := s.undefReads + (!definedIn j.snapTable (hmagAddr o) 256).toNat } j.snapCfg.prepareBad .cfg).noteSat
          (jobSpectrum o j s.undefReads).sat).setCells (specAddr o (!(s.osc o).pubsel))
            (spectrumWords (jobSpectrum o j s.undefReads).val)).setOsc o
              { s.osc o with job := some { j with specDone := true } } := rfl

/-- The word that a sample unit stores (R207). -/
def unitWord (o u : Nat) (s : State) : Word :=
  toWord (invTSample (spectrumOfWords (s.cells (specAddr o !(s.osc o).pubsel) 1024)) u)

theorem sampleUnit_eq (o u : Nat) (j : Job) (s : State) : sampleUnit o u j s =
    ((s.touch (specAddr o (!(s.osc o).pubsel)) 1024).setCell (waveAddr o (!(s.osc o).pubsel) + 4 * u) (unitWord o u s)).setOsc o
      { s.osc o with job := some { j with unitDone := insertUnit u j.unitDone } } := rfl

/-- A worker's step stays in its oscillator's registers and shadow bank. -/
theorem within_worker {o : Nat} {s t : State} (h : WorkerEffect o s t) :
    Within 0 (fun p => p = .undef ∨ p = .osc o) (bankBytes o !(s.osc o).pubsel) s t := by
  cases h with
  | idle => exact .refl s
  | cancel j hj =>
    exact (((((.of_eq rfl rfl rfl rfl rfl rfl rfl : Within 0 _ _ s { s with regenCanc := _ }).trans
      (within_eraseCells _ _ (fun _ hx => .inl hx) _)).trans (within_eraseCells _ _ (fun _ hx => .inr hx) _)).trans
        (within_setOsc o _ (.inr rfl) _)).trans (.of_eq rfl rfl rfl rfl rfl rfl rfl))
  | spectrum j hj hs =>
    rw [spectrumUnit_eq]
    exact ((((within_undef _ _ (.inl rfl) s).trans (within_setErrIf _ _ _)).trans (within_noteSat _ _)).trans
      (within_setCells _ _ (fun x hx => .inl (by rwa [length_spectrumWords, length_jobSpectrum] at hx)) _)).trans
        (within_setOsc o _ (.inr rfl) _)
  | publish j hj hs ha =>
    exact ((.of_eq rfl rfl rfl rfl rfl rfl rfl : Within 0 _ _ s { s with regenDone := _ }).trans
      (within_setOsc o _ (.inr rfl) _)).trans (.of_eq rfl rfl rfl rfl rfl rfl rfl)
  | sample j u hj hs hu =>
    rw [sampleUnit_eq]
    exact ((within_touch _ _ (.inl rfl) s).trans (within_setCell _ _ (fun x hx => .inr (by
      simp only [wordsAt] at *; omega)) _)).trans (within_setOsc o _ (.inr rfl) _)

section
variable {o : Nat} {s t : State}

theorem WorkerEffect.lt (h : WorkerEffect o s t) (hne : t ≠ s) : o < 16 := by
  cases h with
  | idle => exact absurd rfl hne
  | cancel j hj => exact lt_of_job hj
  | spectrum j hj _ => exact lt_of_job hj
  | publish j hj _ _ => exact lt_of_job hj
  | sample j u hj _ _ => exact lt_of_job hj

theorem WorkerEffect.quietAt (h : WorkerEffect o s t) {p : Nat} (hp : p < 16) (hpo : p ≠ o) : QuietAt p s t := by
  by_cases hne : t = s
  · exact hne ▸ .refl p s
  · have ho := h.lt hne
    have w := within_worker h
    exact ⟨w.osc (by simp [hpo]), fun a ha => w.bytes a fun hb => (tables_apart (n := 0) hp ha).2 o _ ho hb,
      fun b a ha => w.bytes a fun hb => hpo (bankBytes_apart ha hb hp ho).1⟩

theorem WorkerEffect.tables (h : WorkerEffect o s t) (ho : o < 16) (a : Nat) (ha : wordsAt (hmagAddr o) 256 a) :
    t.mem.byte? a = s.mem.byte? a :=
  (within_worker h).bytes a fun hb => (tables_apart (n := 0) ho ha).2 o _ ho hb

theorem WorkerEffect.published (h : WorkerEffect o s t) (ho : o < 16) (a : Nat) (ha : bankBytes o (s.osc o).pubsel a) :
    t.mem.byte? a = s.mem.byte? a :=
  (within_worker h).bytes a fun hb => absurd (bankBytes_apart ha hb ho ho).2 (by cases (s.osc o).pubsel <;> decide)

/-- No worker changes a byte of a published bank (R113). -/
theorem WorkerEffect.bytes (h : WorkerEffect o s t) {p a : Nat} (hp : p < 16) (ha : bankBytes p (s.osc p).pubsel a) :
    t.mem.byte? a = s.mem.byte? a := by
  by_cases hpo : p = o
  · subst hpo
    exact h.published hp a ha
  · exact (h.quietAt hp hpo).banks _ a ha

end

/-! ## Clean oscillators -/

section
variable {o u : Nat} {j : Job} {s : State} (ho : o < 16)
include ho

theorem osc_observeCancel : (observeCancel o s).osc o = { s.osc o with job := none } := osc_setOsc_self _ _ _ ho

theorem osc_spectrumUnit : (spectrumUnit o j s).osc o = { s.osc o with job := some { j with specDone := true } } := by
  rw [spectrumUnit_eq]
  exact osc_setOsc_self _ _ _ ho

theorem osc_sampleUnit : (sampleUnit o u j s).osc o =
    { s.osc o with job := some { j with unitDone := insertUnit u j.unitDone } } := by
  rw [sampleUnit_eq]
  exact osc_setOsc_self _ _ _ ho

theorem osc_publish : (publish o j s).osc o = { s.osc o with
    pubsel := !(s.osc o).pubsel, valid := true, pubver := j.snapVer, dirty := (s.osc o).cfgver != j.snapVer, job := none } :=
  osc_setOsc_self _ _ _ ho

end

theorem WorkerEffect.freshInv {o : Nat} {s t : State} (h : WorkerEffect o s t) (hs : FreshInv s) : FreshInv t := by
  intro p hp
  by_cases hpo : p = o
  · subst hpo
    cases h with
    | idle => exact hs p hp
    | cancel j hj => rw [osc_observeCancel hp]; exact hs p hp
    | spectrum j hj _ => rw [osc_spectrumUnit hp]; exact hs p hp
    | publish j hj _ _ =>
      rw [osc_publish hp]
      intro hd
      have hver : (s.osc p).cfgver = j.snapVer := by simpa using hd
      exact ⟨rfl, hver.symm⟩
    | sample j u hj _ _ => rw [osc_sampleUnit hp]; exact hs p hp
  · exact freshAt_quiet (h.quietAt hp hpo) (hs p hp)

/-! ## Jobs and banks -/

section
variable {o u : Nat} {j : Job} {s : State} (ho : o < 16)

/-- The published bank stays clean where a worker changes the job only. -/
theorem banksAt_rejob {t : State} {x : Option Job} (h : WorkerEffect o s t) (ho : o < 16)
    (hosc : t.osc o = { s.osc o with job := x }) (hjob : ∀ j, x = some j → JobInv t o j) (hs : BanksAt s o) : BanksAt t o :=
  banksAt_of_published hs (by rw [hosc]) (by rw [hosc]) (h.published ho)
    (fun hd => ⟨by rw [hosc] at hd; exact hd, by rw [hosc], h.tables ho⟩)
    fun j hj => hjob j (by rw [hosc] at hj; exact hj)

/-- Where the snapshot's tables are written, its spectrum is that of the snapshot. -/
theorem jobSpectrum_of_tables (reads : Nat) (h : tablesIn j.snapTable o) :
    (jobSpectrum o j reads).val = spectrumOf j.snapCfg j.snapTable o := by
  have hcell {i : Nat} (hi : i < 256) : cellOf j.snapTable reads (hmagAddr o + 4 * i) =
      (j.snapTable.word? (hmagAddr o + 4 * i)).getD 0 := by
    obtain ⟨w, hw⟩ := Option.isSome_iff_exists.1 (h i hi)
    rw [cellOf, hw]
    rfl
  have h1 : j.column reads (hmagAddr o) = (List.range 128).map fun i => (j.snapTable.word? (hmagAddr o + 4 * i)).getD 0 :=
    List.map_congr_left fun i hi => hcell (Nat.lt_trans (List.mem_range.1 hi) (by decide))
  have h2 : j.column reads (hphaseAddr o) =
      (List.range 128).map fun i => (j.snapTable.word? (hphaseAddr o + 4 * i)).getD 0 :=
    List.map_congr_left fun i hi => by
      have hi' := List.mem_range.1 hi
      rw [show hphaseAddr o + 4 * i = hmagAddr o + 4 * (128 + i) by unfold hphaseAddr hmagAddr; omega]
      exact hcell (by omega)
  unfold jobSpectrum spectrumOf
  rw [h1, h2]

theorem written_of_holds {t : State} {a n : Nat} {ws : List Word} (hl : ws.length = n) (h : t.mem.Holds a ws) :
    t.Written a n := fun i hi => by
  rw [h i (hl ▸ hi), List.getElem?_eq_getElem (hl ▸ hi)]
  rfl

theorem cells_of_holds {t : State} {a n : Nat} {ws : List Word} (hl : ws.length = n) (h : t.mem.Holds a ws) :
    t.cells a n = ws := by
  rw [cells_eq]
  refine List.ext_getElem (by simp [hl]) fun i h1 h2 => ?_
  rw [List.getElem_map, List.getElem_range]
  exact cell_of_word? ((h i h2).trans (List.getElem?_eq_getElem h2))

theorem mem_unitDone (ha : j.allDone = true) {w : Nat} (hw : w < 1024) : w ∈ j.unitDone := by
  have h := List.all_eq_true.1 ha w (List.mem_range.2 hw)
  simpa using h

include ho

/-- The spectrum unit of a job (R206). -/
theorem jobInv_spectrumUnit (h : JobInv s o j) (hj : (s.osc o).job = some j) (hs : j.specDone = false) :
    JobInv (spectrumUnit o j s) o { j with specDone := true } := by
  have hosc := osc_spectrumUnit (j := j) (s := s) ho
  have hlen : (spectrumWords (jobSpectrum o j s.undefReads).val).length = 1024 := by
    rw [length_spectrumWords, length_jobSpectrum]
  have hholds : (spectrumUnit o j s).mem.Holds (specAddr o !(s.osc o).pubsel)
      (spectrumWords (jobSpectrum o j s.undefReads).val) := by
    rw [spectrumUnit_eq]
    exact holds_splice s.mem _ _
  refine ⟨jobInv_keepSnapshot (j := j) h (by rw [hosc]) (by rw [hosc]) ((WorkerEffect.spectrum j hj hs).tables ho), fun _ => ?_,
    fun w hw => ?_⟩
  · rw [hosc]
    exact ⟨written_of_holds hlen hholds, fun ht => jobSpectrum_of_tables s.undefReads ht ▸ hholds⟩
  · have hd := (h.samples w hw).2.1
    rw [hs] at hd
    cases hd

/-- A sample unit of a job (R207). -/
theorem jobInv_sampleUnit (h : JobInv s o j) (hj : (s.osc o).job = some j) (hs : j.specDone = true) (hu : u < 1024) :
    JobInv (sampleUnit o u j s) o { j with unitDone := insertUnit u j.unitDone } := by
  have hosc := osc_sampleUnit (u := u) (j := j) (s := s) ho
  have hmem : (sampleUnit o u j s).mem = s.mem.splice (waveAddr o (!(s.osc o).pubsel) + 4 * u) (bytesOf [unitWord o u s]) := by
    have key (t : State) (a m b : Nat) (ws : List Word) (x : Osc) :
        (((t.touch a m).setCells b ws).setOsc o x).mem = t.mem.splice b (bytesOf ws) := rfl
    rw [sampleUnit_eq, setCell_eq, key]
  obtain ⟨hwritten, hholds⟩ := h.spectrum hs
  have hspec (x : Nat) (hx : wordsAt (specAddr o !(s.osc o).pubsel) 1024 x) :
      (sampleUnit o u j s).mem.byte? x = s.mem.byte? x := by
    rw [hmem, byte?_splice, if_neg]
    have hb := (!(s.osc o).pubsel).toNat_le
    simp only [wordsAt, specAddr, waveAddr, length_bytesOf, List.length_singleton] at *
    omega
  have hcells := cells_of_written hwritten hspec
  refine ⟨jobInv_keepSnapshot (j := j) h (by rw [hosc]) (by rw [hosc]) ((WorkerEffect.sample j u hj hs hu).tables ho), fun _ => ?_,
    fun w hw => ?_⟩
  · rw [hosc]
    exact ⟨written_of_bytes hspec hwritten, fun ht => holds_of_bytes hspec (length_words_spectrumOf _ _ _) (hholds ht)⟩
  · rw [hosc]
    show w < 1024 ∧ j.specDone = true ∧ (sampleUnit o u j s).mem.word? (waveAddr o (!(s.osc o).pubsel) + 4 * w) =
      some (toWord (invTSample (spectrumOfWords ((sampleUnit o u j s).cells (specAddr o !(s.osc o).pubsel) 1024)) w))
    rw [hcells, hmem]
    by_cases hwu : w = u
    · subst hwu
      exact ⟨hu, hs, word?_splice_bytesOf s.mem _ [unitWord o w s] 0 Nat.one_pos⟩
    · obtain ⟨hlt, -, hword⟩ := h.samples w (((mem_insertUnit u j.unitDone w).1 hw).resolve_left hwu)
      refine ⟨hlt, hs, ?_⟩
      rw [word?_splice_of_disjoint _ _ _ _ (by rw [length_bytesOf, List.length_singleton]; omega)]
      exact hword

/-- Publication (R210): the shadow bank holds the whole of PrepareFn of the snapshot. -/
theorem banksAt_publish (h : JobInv s o j) (hs : j.specDone = true) (ha : j.allDone = true) : BanksAt (publish o j s) o := by
  have hosc := osc_publish (j := j) (s := s) ho
  have hmem : (publish o j s).mem = s.mem := rfl
  obtain ⟨hwritten, hholds⟩ := h.spectrum hs
  have hword {w : Nat} (hw : w < 1024) := (h.samples w (mem_unitDone ha hw)).2.2
  refine ⟨fun _ => ?_, fun hd => ⟨by rw [hosc], fun ht => ?_⟩, fun k hk => ?_⟩
  · rw [hosc]
    exact ⟨hwritten, fun i hi => by rw [hmem, hword hi]; rfl⟩
  · rw [hosc] at hd
    have hver : (s.osc o).cfgver = j.snapVer := by simpa using hd
    obtain ⟨hcfg, htab⟩ := h.snapshot hver.symm
    have hspec := hholds ((tablesIn_congr htab).2 ht)
    rw [spectrumOf_congr _ htab, hcfg] at hspec
    rw [hosc, hmem]
    refine ⟨hspec, fun i hi => ?_⟩
    have hi' : i < 1024 := (length_words_invT _) ▸ hi
    rw [hword hi', cells_of_holds (length_words_spectrumOf _ _ _) hspec, spectrumOfWords_spectrumOf]
    simp [invT, hi']
  · rw [hosc] at hk
    cases hk

end

theorem WorkerEffect.banksInv {o : Nat} {s t : State} (h : WorkerEffect o s t) (hs : BanksInv s) : BanksInv t := by
  refine (banksInv_iff t).2 fun p hp => ?_
  have hsp := (banksInv_iff s).1 hs p hp
  by_cases hpo : p = o
  · subst hpo
    cases h with
    | idle => exact hsp
    | cancel j hj => exact banksAt_rejob (.cancel j hj) hp (osc_observeCancel hp) (fun _ hk => by cases hk) hsp
    | spectrum j hj hd =>
      exact banksAt_rejob (.spectrum j hj hd) hp (osc_spectrumUnit hp)
        (fun _ hk => Option.some.inj hk ▸ jobInv_spectrumUnit hp (hsp.job j hj) hj hd) hsp
    | publish j hj hd ha => exact banksAt_publish hp (hsp.job j hj) hd ha
    | sample j u hj hd hu =>
      exact banksAt_rejob (.sample j u hj hd hu) hp (osc_sampleUnit hp)
        (fun _ hk => Option.some.inj hk ▸ jobInv_sampleUnit hp (hsp.job j hj) hj hd hu) hsp
  · exact banksAt_quiet (h.quietAt hp hpo) hsp

end Sys2Proof.Machine
end

section
/-! PROOFS. HOST's writes to an oscillator's configuration (R53), and the invariants of the banks over every step (R55, R113,
R117): published bytes stay, clean oscillators stay what PrepareFn makes of their configuration; and all of it after reset. -/

namespace Sys2Proof.Machine

/-! ## Configuration writes -/

/-- HOST gives oscillator `o` another configuration, in its registers or its tables: a new version, and DIRTY (R53). -/
structure Reconfigures (o : Nat) (c : OscCfg) (s t : State) : Prop where
  osc : t.osc o = { s.osc o with cfg := c, cfgver := (s.osc o).cfgver + 1, dirty := true }
  others : ∀ p, p < 16 → p ≠ o → QuietAt p s t
  banks : ∀ b a, bankBytes o b a → t.mem.byte? a = s.mem.byte? a

theorem osc_bumpVersion {o : Nat} (ho : o < 16) (s : State) :
    (bumpVersion o s).osc o = { s.osc o with cfgver := (s.osc o).cfgver + 1, dirty := true } := osc_setOsc_self _ _ _ ho

theorem osc_bumpVersion_ne {o p : Nat} (hp : p ≠ o) (s : State) : (bumpVersion o s).osc p = s.osc p :=
  osc_setOsc_ne _ _ _ _ hp.symm

theorem reconfigures_config {o : Nat} (ho : o < 16) (c : OscCfg) (s : State) :
    Reconfigures o c s (bumpVersion o (s.setOsc o { s.osc o with cfg := c })) where
  osc := by rw [osc_bumpVersion ho, osc_setOsc_self _ _ _ ho]
  others p hp hpo := ⟨by rw [osc_bumpVersion_ne hpo, osc_setOsc_ne _ _ _ _ hpo.symm], fun _ _ => rfl, fun _ _ _ => rfl⟩
  banks _ _ _ := rfl

theorem reconfigures_table {o i : Nat} (ho : o < 16) (hi : i < 256) (w : Word) (s : State) :
    Reconfigures o (s.osc o).cfg s (bumpVersion o (s.setCell (hmagAddr o + 4 * i) w)) := by
  have hbyte (a : Nat) (ha : ¬ wordsAt (hmagAddr o) 256 a) :
      (bumpVersion o (s.setCell (hmagAddr o + 4 * i) w)).mem.byte? a = s.mem.byte? a := by
    show (s.mem.splice (hmagAddr o + 4 * i) (bytesOfWord w)).byte? a = _
    rw [byte?_splice, if_neg]
    rw [length_bytesOfWord]
    exact fun hx => ha (by unfold wordsAt; omega)
  refine ⟨osc_bumpVersion ho _, fun p hp hpo => ⟨osc_bumpVersion_ne hpo _, fun a ha => hbyte a fun hx => ?_,
    fun b a ha => hbyte a fun hx => (tables_apart (n := 0) ho hx).2 p b hp ha⟩,
    fun b a ha => hbyte a fun hx => (tables_apart (n := 0) ho hx).2 o b ho ha⟩
  simp only [wordsAt, hmagAddr, oscBase] at hx ha
  omega

/-- An access leaves the oscillators alone, or reconfigures one. -/
theorem hostEffect_oscs {s t : State} (e : HostEffect s t) : Settles s t ∨ ∃ o c, o < 16 ∧ Reconfigures o c s t := by
  cases e with
  | control | ack | note n x h => exact .inl (settles_of_eq rfl rfl)
  | start w => exact .inl (by unfold cmdStart; split_ifs <;> exact settles_of_eq rfl rfl)
  | config o c =>
    by_cases ho : o < 16
    · exact .inr ⟨o, c, ho, reconfigures_config ho c s⟩
    · have hle := Nat.le_of_not_lt ho
      rw [bumpVersion, setOsc_of_le _ _ _ hle, setOsc_of_le _ _ _ hle]
      exact .inl (.refl s)
  | table o i w ho hi => exact .inr ⟨o, _, ho, reconfigures_table ho hi w s⟩
  | store a w h =>
    refine .inl (settles_of_bytes (fun _ => rfl) fun x h1 h2 => ?_)
    rw [setCell_mem, byte?_splice, if_neg]
    rw [length_bytesOfWord]
    unfold aboveOscs at h2
    omega

section
variable {o : Nat} {c : OscCfg} {s t : State}

theorem Reconfigures.freshInv (h : Reconfigures o c s t) (hs : FreshInv s) : FreshInv t := fun p hp => by
  by_cases hpo : p = o
  · subst hpo
    rw [h.osc]
    exact nofun
  · exact freshAt_quiet (h.others p hp hpo) (hs p hp)

/-- A running job's snapshot is out of date after the write, unless the version came round to its own. -/
theorem Reconfigures.banksInv (h : Reconfigures o c s t)
    (hround : ∀ j, (t.osc o).job = some j → (t.osc o).cfgver ≠ (s.osc o).cfgver → (t.osc o).cfgver ≠ j.snapVer)
    (hs : BanksInv s) : BanksInv t := (banksInv_iff t).2 fun p hp => by
  have hsp := (banksInv_iff s).1 hs p hp
  by_cases hpo : p = o
  · subst hpo
    refine banksAt_of_published hsp (by rw [h.osc]) (by rw [h.osc]) (h.banks _) (fun hd => by rw [h.osc] at hd; cases hd)
      fun j hj => ?_
    have hjob : (s.osc p).job = some j := by rw [h.osc] at hj; exact hj
    refine jobInv_of_shadow (hsp.job j hjob) (by rw [h.osc]) (h.banks _) fun hv => ?_
    refine absurd hv.symm (hround j hj ?_)
    rw [h.osc]
    show (s.osc p).cfgver + 1 ≠ (s.osc p).cfgver
    simp
  · exact banksAt_quiet (h.others p hp hpo) hsp

theorem Reconfigures.bytes (h : Reconfigures o c s t) {p a : Nat} (hp : p < 16) (ha : bankBytes p (s.osc p).pubsel a) :
    t.mem.byte? a = s.mem.byte? a := by
  by_cases hpo : p = o
  · subst hpo
    exact h.banks _ a ha
  · exact (h.others p hp hpo).banks _ a ha

end

/-! ## Every step -/

/-- What one step does to the oscillators. -/
inductive OscStep (s : State) : State → Prop where
  /-- They stay, or some are prepared. -/
  | settles {t : State} (h : Settles s t) : OscStep s t
  /-- A job is started or marked. -/
  | job {t : State} (o : Nat) (ho : o < 16) (h : JobEffect o s t) : OscStep s t
  /-- A worker's step. -/
  | worker {t : State} (o : Nat) (h : WorkerEffect o s t) : OscStep s t
  /-- A configuration write. -/
  | host {t : State} (o : Nat) (c : OscCfg) (ho : o < 16) (h : Reconfigures o c s t) : OscStep s t

/-- A fetched command either raises a fault, or has its effect on the oscillators. -/
theorem oscStep_exec {i : Instr} {s t : State} (h : exec i s = .next t) : OscStep s t := by
  rcases exec_cases h with ⟨k, rfl⟩ | ⟨hf, rfl⟩
  · exact .settles (settles_of_eq rfl rfl)
  have hw := wellFormed_of_no_fault hf
  have hdone (u : State) : Settles u u.advance := settles_of_eq rfl rfl
  by_cases hi : i = .halt
  · rw [completed, if_pos hi]
    exact .settles (settles_of_eq rfl rfl)
  rw [completed, if_neg hi]
  cases hj : changesJobs i with
  | false => exact .settles ((settles_command hw hj s).trans (hdone _))
  | true =>
    have hadvance {o : Nat} {u : State} (e : JobEffect o s u) : JobEffect o s u.advance := by
      cases e with
      | none h => exact .none _ (h.trans (hdone _))
      | start h => exact .start _ (h.of_eq rfl rfl)
      | mark j hj h => exact .mark _ j hj (h.of_eq rfl rfl)
    cases i with
    | oscRegen o =>
      have ho := (oscIndexOk_iff o).1 hw
      exact .job o.toNat ho (hadvance (jobEffect_oscRegen ho s))
    | oscCancel o =>
      have ho := (oscIndexOk_iff o).1 hw
      exact .job o.toNat ho (hadvance (jobEffect_oscCancel ho s))
    | _ => cases hj

/-- Every step but reset is one of these; the agenda and the latches are no part of it. -/
theorem oscStep_of_step {s t : State} (h : step s = .next t) :
    (∃ u : State, u.oscs = s.oscs ∧ u.mem = s.mem ∧ OscStep u t) ∨
      ∃ rest, s.turns = .reset :: rest ∧ t.oscs = State.reset.oscs ∧ t.mem = State.reset.mem := by
  cases stepped_of_step h with
  | idle rest => exact .inl ⟨{ s with turns := rest }, rfl, rfl, .settles (.refl _)⟩
  | reset rest hr => exact .inr ⟨rest, hr, rfl, rfl⟩
  | host a rest _ =>
    refine .inl ⟨{ s with turns := rest }, rfl, rfl, ?_⟩
    rcases hostEffect_oscs (hostEffect_hostStep a { s with turns := rest }) with hs | ⟨o, c, ho, hc⟩
    · exact .settles hs
    · exact .host o c ho hc
  | regen o u rest => exact .inl ⟨{ s with turns := rest }, rfl, rfl, .worker o (workerEffect_regenStep o u _)⟩
  | overrun rest _ _ => exact .inl ⟨{ s with turns := rest }, rfl, rfl, .settles (settles_of_eq rfl rfl)⟩
  | illegal rest c _ _ => exact .inl ⟨State.latch { s with turns := rest } c, rfl, rfl, .settles (settles_of_eq rfl rfl)⟩
  | command rest c i _ _ _ he => exact .inl ⟨State.latch { s with turns := rest } c, rfl, rfl, oscStep_exec he⟩

section
variable {s t u : State}

theorem osc_congr (ho : t.oscs = s.oscs) (o : Nat) : t.osc o = s.osc o := by rw [State.osc, State.osc, ho]

/-- Settles O22: preparations and workers write shadow banks only, and everything else writes no bank. -/
theorem publishedBankKept : Obligations.PublishedBankKept := by
  intro s t o ho hreset h a ha
  rcases oscStep_of_step h with ⟨u, hoscs, hmem, hstep⟩ | ⟨rest, hr, -⟩
  · rw [← hmem]
    rw [← osc_congr hoscs] at ha
    cases hstep with
    | settles h => exact (h o ho).elim (fun q => q.banks _ a ha) fun k => k.kept a ha
    | job p hp h => exact h.bytes ho ha
    | worker p h => exact h.bytes ho ha
    | host p c hp h => exact h.bytes ho ha
  · exact absurd hr (hreset rest)

theorem osc_reset (o : Nat) (ho : o < 16) : State.reset.osc o = .reset := by
  simp [State.osc, State.reset, ho]

theorem freshInv_congr (ho : t.oscs = s.oscs) (hs : FreshInv s) : FreshInv t := fun o h => by
  rw [osc_congr ho]
  exact hs o h

theorem banksInv_congr (ho : t.oscs = s.oscs) (hm : t.mem = s.mem) (hs : BanksInv s) : BanksInv t :=
  banksInv_settles (settles_of_eq ho hm) hs

theorem freshInv_reset : FreshInv State.reset := fun o ho => by
  rw [osc_reset o ho]
  exact nofun

theorem banksInv_reset : BanksInv State.reset where
  written o ho h := by rw [osc_reset o ho] at h; cases h
  clean o ho h := by rw [osc_reset o ho] at h; cases h
  jobs o j ho h := by rw [osc_reset o ho] at h; cases h

theorem freshInv_oscStep (h : OscStep s t) (hs : FreshInv s) : FreshInv t := by
  cases h with
  | settles h => exact freshInv_settles h hs
  | job o ho h => exact h.freshInv hs
  | worker o h => exact h.freshInv hs
  | host o c ho h => exact h.freshInv hs

theorem banksInv_oscStep (h : OscStep s t)
    (hround : ∀ o j, o < 16 → (t.osc o).job = some j → (t.osc o).cfgver ≠ (s.osc o).cfgver → (t.osc o).cfgver ≠ j.snapVer)
    (hs : BanksInv s) : BanksInv t := by
  cases h with
  | settles h => exact banksInv_settles h hs
  | job o ho h => exact h.banksInv ho hs
  | worker o h => exact h.banksInv hs
  | host o c ho h => exact h.banksInv (fun j => hround o j ho) hs

end

/-- Settles O19, over the kinds of step. -/
theorem freshKept : Obligations.FreshKept := by
  refine ⟨fun s t hs h => ?_, fun s t hs h hround => ?_⟩
  · rcases oscStep_of_step h with ⟨u, hoscs, -, hstep⟩ | ⟨rest, -, hoscs, -⟩
    · exact freshInv_oscStep hstep (freshInv_congr hoscs hs)
    · exact freshInv_congr hoscs freshInv_reset
  · rcases oscStep_of_step h with ⟨u, hoscs, hmem, hstep⟩ | ⟨rest, -, hoscs, hmem⟩
    · refine banksInv_oscStep hstep (fun o j ho hj => ?_) (banksInv_congr hoscs hmem hs)
      rw [osc_congr hoscs]
      exact hround o j ho hj
    · exact banksInv_congr hoscs hmem banksInv_reset

/-! ## After reset -/

theorem envelopeInv_reset : EnvelopeInv State.reset := fun n k hn hk => by
  have he : State.reset.env n k = .reset := by
    rw [State.env, note_reset n hn]
    simp [Note.env, Note.reset, hk]
  rw [he]
  exact .inl rfl

theorem voiceInv_reset : VoiceInv State.reset := fun n v hn hv hc => by
  have hy : State.reset.voice n v = .reset := by rw [State.voice, note_reset n hn, voice_noteReset v hv]
  rw [hy] at hc
  cases hc

/-- Settles O24. -/
theorem resetInvariants : Obligations.ResetInvariants :=
  ⟨rfl, sequencerInv_reset, budgetInv_reset, legatoInv_reset, freshInv_reset, banksInv_reset, envelopeInv_reset,
    voiceInv_reset⟩

end Sys2Proof.Machine
end

section
/-! PROOFS. OSC.PREPARE (R54, R186, R187), OSC.REGEN (R204) and OSC.CANCEL (R212): what each leaves. -/

namespace Sys2Proof.Machine

/-- A command without a fault has its effect and moves CPTR (R162). -/
theorem exec_of_no_fault {i : Instr} {s : State} (hi : i ≠ .halt) (hf : faultOf i s = none) :
    exec i s = .next (commandEffect i s).advance := by
  rw [exec_eq, hf, Option.elim_none, completed, if_neg hi]

section
variable {o : Byte} (ho : o.toNat < 16) (s : State)
include ho

theorem exec_oscPrepare_effect : exec (.oscPrepare o) s = .next (oscPrepare o.toNat s).advance :=
  exec_of_no_fault (by simp) (if_neg (by simp [Instr.wellFormed, (oscIndexOk_iff o).2 ho]))

theorem exec_oscRegen : exec (.oscRegen o) s = .next (oscRegen o.toNat s).advance :=
  exec_of_no_fault (by simp) (if_neg (by simp [Instr.wellFormed, (oscIndexOk_iff o).2 ho]))

theorem exec_oscCancel : exec (.oscCancel o) s = .next (oscCancel o.toNat s).advance :=
  exec_of_no_fault (by simp) (if_neg (by simp [Instr.wellFormed, (oscIndexOk_iff o).2 ho]))

end

/-! ## OSC.PREPARE -/

section
variable {o : Nat} {s : State}

theorem oscPrepare_clean (h : (s.osc o).dirty = false) : oscPrepare o s = s.setRes0 0 := if_pos (by rw [h]; rfl)

theorem oscPrepare_busy (h : (s.osc o).dirty = true) (hj : (s.osc o).job.isSome = true) : oscPrepare o s = s.setRes0 2 :=
  (if_neg (by rw [h]; decide)).trans (if_pos hj)

theorem oscPrepare_prepares (h : (s.osc o).dirty = true) (hj : ¬ (s.osc o).job.isSome = true) :
    oscPrepare o s = (syncPrepare o s).setRes0 1 := (if_neg (by rw [h]; decide)).trans (if_neg hj)

/-- The bank that a preparation publishes (R187). -/
theorem cells_syncPrepare (ho : o < 16) :
    (syncPrepare o s).cells (specAddr o ((syncPrepare o s).osc o).pubsel) 1024 = spectrumWords (preparedSpectrum s o).val ∧
    (syncPrepare o s).cells (waveAddr o ((syncPrepare o s).osc o).pubsel) 1024 =
      (invT (preparedSpectrum s o).val).map toWord := by
  have hmem (u : State) (x : Osc) : (u.setOsc o x).mem = u.mem := rfl
  have hholds (u : State) := holds_writeBank o (!(s.osc o).pubsel) (preparedSpectrum s o).val u (length_preparedSpectrum o s)
  rw [osc_syncPrepare o s ho]
  refine ⟨cells_of_holds (by rw [length_spectrumWords, length_preparedSpectrum]) ?_, cells_of_holds (length_words_invT _) ?_⟩ <;>
    rw [syncPrepare_eq, hmem]
  · exact (hholds _).1
  · exact (hholds _).2

theorem bin_preparedSpectrum : Spectrum.bin (preparedSpectrum s o).val 0 = (0, 0) := by
  simp only [preparedSpectrum, prepareSpectrum, Sat.bind, Sat.map]
  exact (zeroDC_bins _).2.1

theorem err_syncPrepare_bits : (syncPrepare o s).err = s.err ||| (if (s.osc o).cfg.prepareBad then 0x02 else 0) |||
    (if (preparedSpectrum s o).sat then 0x08 else 0) := by
  have hcfg (b : Bool) : flag b .cfg = if b then 0x02 else 0 := by cases b <;> decide
  have hsat (b : Bool) : flag b .sat = if b then 0x08 else 0 := by cases b <;> decide
  rw [err_syncPrepare, prepFlags, hcfg, hsat, BitVec.or_assoc]

end

/-- Settles O37: the three cases in turn; after the third the oscillator is clean, which is the first case. -/
theorem oscPrepareResult : Obligations.OscPrepareResult := by
  intro o s ho x S
  refine ⟨_, exec_oscPrepare_effect ho s, ?_⟩
  cases hd : x.dirty with
  | false => rw [if_pos rfl, oscPrepare_clean hd]; rfl
  | true =>
    rw [if_neg (by decide)]
    by_cases hj : x.job.isSome = true
    · rw [if_pos hj, oscPrepare_busy hd hj]; rfl
    · rw [if_neg hj, oscPrepare_prepares hd hj]
      have hkeep (u : State) : (∀ p, (u.setRes0 1).advance.osc p = u.osc p) ∧
          (∀ a n, (u.setRes0 1).advance.cells a n = u.cells a n) ∧ (u.setRes0 1).advance.err = u.err ∧
          (u.setRes0 1).advance.res0 = 1 := ⟨fun _ => rfl, fun _ _ => rfl, rfl, rfl⟩
      obtain ⟨hosc, hcells, herr, hres⟩ := hkeep (syncPrepare o.toNat s)
      obtain ⟨hspec, hwave⟩ := cells_syncPrepare (s := s) ho
      have hprepared := osc_syncPrepare o.toNat s ho
      have hclean : (((syncPrepare o.toNat s).setRes0 1).advance.osc o.toNat).dirty = false := by
        rw [hosc, hprepared]; rfl
      rw [exec_oscPrepare_effect ho, oscPrepare_clean hclean, hosc, hcells, hcells, herr, hres]
      exact ⟨hprepared, hspec, bin_preparedSpectrum, hwave, err_syncPrepare_bits, rfl, rfl⟩

/-! ## OSC.REGEN and OSC.CANCEL -/

theorem undefRead_startJob (o : Nat) (s : State) : (startJob o s).undefRead = true ↔
    s.undefRead = true ∨ ∃ i, i < 256 ∧ s.mem.word? (hmagAddr o + 4 * i) = none := by
  show (s.undefRead || !definedIn s.mem (hmagAddr o) 256) = true ↔ _
  rw [Bool.or_eq_true, Bool.not_eq_true', definedIn_eq_false]

theorem oscCancel_none {o : Nat} {s : State} (h : (s.osc o).job = none) : oscCancel o s = s.setRes0 0 := by
  unfold oscCancel; rw [h]

theorem oscCancel_some {o : Nat} {s : State} {j : Job} (h : (s.osc o).job = some j) :
    oscCancel o s = (s.setOsc o { s.osc o with job := some { j with cancel := true } }).setRes0 1 := by
  unfold oscCancel; rw [h]

/-- Settles O43: a running job refuses OSC.REGEN and takes OSC.CANCEL's mark; without one the snapshot is a window of
memory over the tables. -/
theorem oscRegenCancel : Obligations.OscRegenCancel := by
  intro o s ho x base
  refine ⟨⟨_, exec_oscRegen ho s, ?_⟩, ⟨_, exec_oscCancel ho s, ?_⟩⟩
  · unfold oscRegen
    by_cases hj : x.job.isSome = true
    · rw [if_pos hj, if_pos hj]; rfl
    · rw [if_neg hj, if_neg hj]
      exact ⟨s.mem.window (hmagAddr o.toNat) 1024,
        fun a h1 h2 => (byte?_window _ _ _ _).trans (if_pos ⟨h1, h2⟩), rfl, undefRead_startJob o.toNat s⟩
  · cases hj : (s.osc o.toNat).job with
    | none => rw [oscCancel_none hj]; rfl
    | some j => rw [oscCancel_some hj]; rfl

end Sys2Proof.Machine
end

section
/-! PROOFS. The registers of the bus by region: the file of registers of the globals, of an oscillator and of each part of
a note slot, and what a read of each register returns (R40 to R65, R96). -/

namespace Sys2Proof.Machine

/-! ## Register files -/

/-- A register file of a note slot. -/
inductive SlotFile where
  | note | env (k : Nat) | lfo (k : Nat) | flt (f : Nat) | voice (v : Nat)

namespace SlotFile

/-- The file exists (R92). -/
def Valid : SlotFile → Prop
  | note => True
  | env k | lfo k => k < 27
  | flt f => f < 18
  | voice v => v < 8

/-- Where the file begins in the note slot (R92). -/
def base : SlotFile → Nat
  | note => 0
  | env k => 0x1000 + k * 0x200
  | lfo k => 0x5000 + k * 0x40
  | flt f => 0x6000 + f * 0x100
  | voice v => 0x10000 + v * 0x8000

/-- The offsets of the file: those of an envelope leave out its tables, those of a voice its records and buffers. -/
def Spans : SlotFile → Nat → Prop
  | note, off | voice _, off => off < 0x1000
  | env _, off => (0xA0 ≤ off ∧ off < 0x100) ∨ (0x1A0 ≤ off ∧ off < 0x200)
  | lfo _, off => off < 0x40
  | flt _, off => off < 0x100

/-- The registers of the file in the model's register map. -/
def reg (n : Nat) : SlotFile → Nat → Option Reg
  | note => noteReg n
  | env k => envScalar n k
  | lfo k => lfoReg n k
  | flt f => fltReg n f
  | voice v => voiceReg n v

/-- What the file shows, VCREATED included. -/
def shows (x : Note) : SlotFile → List (Nat × Word)
  | note => (0x44, x.vcreated) :: x.shows
  | env k => (x.env k).shows
  | lfo k => (x.lfo k).shows
  | flt f => (x.flt f).shows
  | voice v => (x.voice v).shows

end SlotFile

/-- A register file. -/
inductive RegFile where
  | glb | osc (o : Nat) | slot (n : Nat) (q : SlotFile)

namespace RegFile

/-- The file exists (R92). -/
def Valid : RegFile → Prop
  | glb => True
  | osc o => o < 16
  | slot n q => n < 16 ∧ q.Valid

/-- Where the file begins (R92). -/
def base : RegFile → Nat
  | glb => 0
  | osc o => 0x10000 + o * 0x1000
  | slot n q => 0x1000000 + n * 0x100000 + q.base

/-- The offsets of the file: those of an oscillator leave out its harmonic tables. -/
def Spans : RegFile → Nat → Prop
  | glb, off => off < 0x100
  | osc _, off => 0x400 ≤ off ∧ off < 0x1000
  | slot _ q, off => q.Spans off

/-- The registers of the file in the model's register map. -/
def reg : RegFile → Nat → Option Reg
  | glb => glbReg
  | osc o => oscScalar o
  | slot n q => q.reg n

/-- What the file shows, REGEN_RUN included. -/
def shows (s : State) : RegFile → List (Nat × Word)
  | glb => (0x78, s.regenRun) :: s.glbShows
  | osc o => (s.osc o).shows
  | slot n q => q.shows (s.note n)

end RegFile

/-! ## Fields in words -/

theorem wide_eq_inWord {w : Nat} (x : BitVec w) : wide x = inWord x :=
  BitVec.eq_of_toNat_eq (by simp [wide, inWord])

/-- The listed low bits of a word are its bits under their mask. -/
theorem inWord_low {w : Nat} (hw : w ≤ 32) (v : Word) : inWord (low w v) = v &&& BitVec.ofNat 32 (2 ^ w - 1) := by
  have h1 : v.toNat % 2 ^ w < 2 ^ 32 := lt_of_le_of_lt (Nat.mod_le _ _) v.isLt
  have h2 : 2 ^ w - 1 < 2 ^ 32 := by
    have := Nat.pow_le_pow_right (n := 2) (by decide) hw
    omega
  refine BitVec.eq_of_toNat_eq ?_
  simp only [inWord, low, BitVec.toNat_ofNat, BitVec.extractLsb'_toNat, Nat.shiftRight_zero, BitVec.toNat_and]
  rw [Nat.mod_eq_of_lt h1, Nat.mod_eq_of_lt h2, Nat.and_two_pow_sub_one_eq_mod]

theorem getLsbD_bit (b : Bool) (i j : Nat) (hj : j < 32) : (bit b j).getLsbD i = (decide (i = j) && b) := by
  cases b <;> simp [bit, BitVec.getLsbD_twoPow, hj, eq_comm]

/-- The bits of a word of bits. -/
theorem getLsbD_bitsWord {n : Nat} (hn : n ≤ 32) (f : Nat → Bool) (i : Nat) :
    (bitsWord n f).getLsbD i = (decide (i < n) && f i) := by
  induction n with
  | zero => simp [bitsWord]
  | succ n ih =>
    have hsucc : bitsWord (n + 1) f = bitsWord n f ||| bit (f n) n := by simp [bitsWord, List.range_succ]
    rw [hsucc, BitVec.getLsbD_or, ih (by omega), getLsbD_bit _ _ _ (by omega)]
    rcases Nat.lt_trichotomy i n with h | rfl | h
    · simp [h, Nat.ne_of_lt h, Nat.lt_succ_of_lt h]
    · simp
    · simp [Nat.not_lt_of_gt h, Nat.ne_of_gt h, show ¬ i < n + 1 by omega]

/-! ## What a read of a register returns -/

theorem lookup_cons_ne {i j : Nat} (h : ¬ i = j) (v : Word) (l : List (Nat × Word)) :
    ((j, v) :: l).lookup i = l.lookup i := by
  rw [List.lookup_cons, beq_eq_false_iff_ne.2 h]

section
variable (s : State) (n k off : Nat)

theorem read_glbReg : (glbReg off).map (·.read s) = ((RegFile.glb.shows s).lookup off).map some := by
  unfold glbReg
  split <;> simp_all [RegFile.shows, State.glbShows, lookup_cons_ne, roReg, woReg, w1cReg, rwReg, ctlReg, wide_eq_inWord,
    Status.word]

theorem read_oscScalar : (oscScalar k off).map (·.read s) = (((s.osc k).shows).lookup off).map some := by
  unfold oscScalar
  split <;> simp_all [Osc.shows, lookup_cons_ne, roReg, cfgReg, rwReg, wide_eq_inWord, Osc.ostat]

theorem read_noteReg : (noteReg n off).map (·.read s) = ((SlotFile.note.shows (s.note n)).lookup off).map some := by
  unfold noteReg
  split
  case h_12 => rfl
  all_goals simp_all [SlotFile.shows, Note.shows, lookup_cons_ne, roReg, noteRo, noteRw, rwReg, wide_eq_inWord, NStat.word]

theorem read_envScalar : (envScalar n k off).map (·.read s) = ((s.env n k).shows.lookup off).map some := by
  unfold envScalar
  split <;> simp_all [Env.shows, lookup_cons_ne, roReg, envRo, envRw, rwReg, wide_eq_inWord, Env.estat]

theorem read_lfoReg : (lfoReg n k off).map (·.read s) = ((s.lfo n k).shows.lookup off).map some := by
  unfold lfoReg
  split <;> simp_all [Lfo.shows, lookup_cons_ne, roReg, lfoRo, lfoRw, rwReg, wide_eq_inWord]

theorem topoeff_eq (y : Voice) : y.topoeff = inWord y.topo ||| bit y.modext 3 := by
  rw [← wide_eq_inWord]; rfl

theorem read_voiceReg : (voiceReg n k off).map (·.read s) = ((s.voice n k).shows.lookup off).map some := by
  unfold voiceReg
  split <;> simp_all [Voice.shows, lookup_cons_ne, roReg, voiceRo, voiceRw, rwReg, wide_eq_inWord, Voice.vstat, topoeff_eq]

theorem read_fltReg (ha : off % 4 = 0) (ho : off < 0x100) :
    (fltReg n k off).map (·.read s) = ((s.flt n k).shows.lookup off).map some := by
  obtain ⟨i, rfl⟩ : ∃ i, off = 4 * i := ⟨off / 4, by omega⟩
  have hi : i < 64 := by omega
  unfold fltReg fltScalar
  simp only [wide_eq_inWord]
  interval_cases i <;> rfl

end

/-- A register of a file shows the file's entry at its offset, and the file has no other registers. -/
theorem RegFile.read_reg (s : State) {p : RegFile} {off : Nat} (ha : off % 4 = 0) (hoff : p.Spans off) :
    (p.reg off).map (·.read s) = ((p.shows s).lookup off).map some := by
  match p with
  | .glb => exact read_glbReg s off
  | .osc o => exact read_oscScalar s o off
  | .slot n .note => exact read_noteReg s n off
  | .slot n (.env k) => exact read_envScalar s n k off
  | .slot n (.lfo k) => exact read_lfoReg s n k off
  | .slot n (.flt f) => exact read_fltReg s n f off ha hoff
  | .slot n (.voice v) => exact read_voiceReg s n v off

/-! ## The files in the region table -/

section
variable {q : SlotFile} {n off : Nat}

/-- The files of a note slot lie in the first 0x50000 bytes of the slot. -/
theorem SlotFile.base_lt (hq : q.Valid) (hoff : q.Spans off) : q.base + off < 0x50000 := by
  cases q <;> simp only [SlotFile.Valid, SlotFile.Spans, SlotFile.base] at * <;> omega

theorem noteRegion_reg (a : Nat) (hq : q.Valid) (hoff : q.Spans off) : noteRegion n (q.base + off) a = q.reg n off := by
  cases q with
  | note =>
    have h : off < 0x1000 := hoff
    simp only [SlotFile.base, SlotFile.reg]
    rw [noteRegion, if_pos (by omega), Nat.zero_add]
  | env k =>
    have h : 0xA0 ≤ off ∧ off < 0x100 ∨ 0x1A0 ≤ off ∧ off < 0x200 := hoff
    have hk : k < 27 := hq
    simp only [SlotFile.base, SlotFile.reg]
    rw [noteRegion, if_neg (by omega), if_pos (by omega), show (0x1000 + k * 0x200 + off - 0x1000) / 0x200 = k by omega,
      show (0x1000 + k * 0x200 + off - 0x1000) % 0x200 = off by omega, envReg, if_neg (by omega)]
  | lfo k =>
    have h : off < 0x40 := hoff
    have hk : k < 27 := hq
    simp only [SlotFile.base, SlotFile.reg]
    rw [noteRegion, if_neg (by omega), if_neg (by omega), if_pos (by omega),
      show (0x5000 + k * 0x40 + off - 0x5000) / 0x40 = k by omega,
      show (0x5000 + k * 0x40 + off - 0x5000) % 0x40 = off by omega]
  | flt f =>
    have h : off < 0x100 := hoff
    have hf : f < 18 := hq
    simp only [SlotFile.base, SlotFile.reg]
    rw [noteRegion, if_neg (by omega), if_neg (by omega), if_neg (by omega), if_pos (by omega),
      show (0x6000 + f * 0x100 + off - 0x6000) / 0x100 = f by omega,
      show (0x6000 + f * 0x100 + off - 0x6000) % 0x100 = off by omega]
  | voice v =>
    have h : off < 0x1000 := hoff
    have hv : v < 8 := hq
    simp only [SlotFile.base, SlotFile.reg]
    rw [noteRegion, if_neg (by omega), if_neg (by omega), if_neg (by omega), if_neg (by omega), if_neg (by omega),
      if_pos (by omega), show (0x10000 + v * 0x8000 + off - 0x10000) / 0x8000 = v by omega,
      show (0x10000 + v * 0x8000 + off - 0x10000) % 0x8000 = off by omega, voiceRegion, if_pos (by omega)]

end

/-- A file's register in the region table is the register that the file has at the offset. -/
theorem RegFile.locate_reg {p : RegFile} {off : Nat} (hp : p.Valid) (hoff : p.Spans off) :
    locate (p.base + off) = p.reg off := by
  match p with
  | .glb =>
    have h : off < 0x100 := hoff
    show locate (0 + off) = glbReg off
    rw [Nat.zero_add, locate, if_pos h]
  | .osc o =>
    obtain ⟨h1, h2⟩ : 0x400 ≤ off ∧ off < 0x1000 := hoff
    have h3 : o < 16 := hp
    show locate (0x10000 + o * 0x1000 + off) = oscScalar o off
    rw [locate, if_neg (by omega), if_neg (by omega), if_pos (by omega), oscReg, if_neg (by omega)]
    congr 1 <;> omega
  | .slot n q =>
    obtain ⟨hn, hq⟩ := hp
    have h := SlotFile.base_lt hq hoff
    show locate (0x1000000 + n * 0x100000 + q.base + off) = q.reg n off
    rw [locate, if_neg (by omega), if_neg (by omega), if_neg (by omega), if_neg (by omega), if_neg (by omega),
      if_pos (by omega), show (0x1000000 + n * 0x100000 + q.base + off - 0x1000000) / 0x100000 = n by omega,
      show (0x1000000 + n * 0x100000 + q.base + off) % 0x100000 = q.base + off by omega, noteRegion_reg _ hq hoff]

/-! ## The memory cells of the region table -/

theorem undefAfterReset_iff (a : Nat) : undefAfterReset a = true ↔
    (0x1000 ≤ a ∧ a < 0x2000) ∨ (0x10000 ≤ a ∧ a < 0x20000 ∧ a % 0x1000 < 0x400) ∨ (0x100000 ≤ a ∧ a < 0x120000) ∨
    (0x200000 ≤ a ∧ a < 0x220000) ∨ (0x2000000 ≤ a ∧ a < 0x2000800) ∨ (0x1000000 ≤ a ∧ a < 0x2000000 ∧
      ((0x1000 ≤ a % 0x100000 ∧ a % 0x100000 < 0x5000 ∧
          (a % 0x100000 % 0x200 < 0xA0 ∨ 0x100 ≤ a % 0x100000 % 0x200 ∧ a % 0x100000 % 0x200 < 0x1A0)) ∨
        (0x8000 ≤ a % 0x100000 ∧ a % 0x100000 < 0x8800) ∨
        (0x10000 ≤ a % 0x100000 ∧ a % 0x100000 < 0x50000 ∧ 0x1000 ≤ a % 0x100000 % 0x8000))) := by
  simp [undefAfterReset, or_assoc, and_assoc]

/-- No register is one of the cells that hold no value after reset. -/
theorem RegFile.not_undefAfterReset {p : RegFile} {off : Nat} (hp : p.Valid) (hoff : p.Spans off) :
    ¬ undefAfterReset (p.base + off) = true := by
  rw [undefAfterReset_iff]
  match p with
  | .glb => simp only [RegFile.Spans, RegFile.base] at *; omega
  | .osc o => simp only [RegFile.Valid, RegFile.Spans, RegFile.base] at *; omega
  | .slot n q =>
    obtain ⟨hn, hq⟩ := hp
    have h := SlotFile.base_lt hq hoff
    have hs : q.Spans off := hoff
    rw [show RegFile.base (.slot n q) = 0x1000000 + n * 0x100000 + q.base from rfl]
    have hmod : (0x1000000 + n * 0x100000 + q.base + off) % 0x100000 = q.base + off := by omega
    rw [hmod]
    cases q <;> simp only [SlotFile.Valid, SlotFile.Spans, SlotFile.base] at * <;> omega

theorem listedBits_slot {n off : Nat} (hoff : off < 0x100000) :
    listedBits (0x1000000 + n * 0x100000 + off) = noteBits off := by
  rw [listedBits, if_neg (by omega), if_neg (by omega), if_neg (by omega), if_neg (by omega), if_pos (by omega)]
  congr 1; omega

/-- The mapped words: registers of the files, and memory cells. -/
inductive Mapped : Nat → Reg → Prop where
  | register {p : RegFile} {off : Nat} {g : Reg} (hp : p.Valid) (hoff : p.Spans off) (hg : p.reg off = some g) :
      Mapped (p.base + off) g
  | output {a : Nat} (hu : undefAfterReset a = true) (ha : 0x1000000 ≤ a) : Mapped a (roCell a)
  | cell {a : Nat} (hu : undefAfterReset a = true) (ha : a + 4 ≤ 0x10000 ∨ 0x1000000 ≤ a) : Mapped a (rwCell a (listedBits a))
  | table {o i : Nat} (ho : o < 16) (hi : i < 0x400) : Mapped (oscBase o + i) (tableReg o (oscBase o + i))
  | bank {o a : Nat} {b : Bool} (ho : o < 16) (ha : bankBytes o b a) : Mapped a (bankReg o b a)

theorem SlotFile.mapped {q : SlotFile} {n off a : Nat} {g : Reg} (hn : n < 16) (hq : q.Valid) (hoff : q.Spans off)
    (hg : q.reg n off = some g) (ha : a = 0x1000000 + n * 0x100000 + (q.base + off)) : Mapped a g := by
  have h : a = (RegFile.slot n q).base + off := by rw [ha, ← Nat.add_assoc]; rfl
  exact h ▸ .register ⟨hn, hq⟩ hoff hg

theorem mapped_voiceRegion {n v off a : Nat} {g : Reg} (hn : n < 16) (hv : v < 8) (hoff : off < 0x8000)
    (ha : a = 0x1000000 + n * 0x100000 + (0x10000 + v * 0x8000 + off)) (h : voiceRegion n v off a = some g) : Mapped a g := by
  unfold voiceRegion at h
  split at h
  · next hlt => exact SlotFile.mapped (q := .voice v) hn hv hlt h ha
  · next hge =>
    have hu : undefAfterReset a = true := (undefAfterReset_iff a).2 (by omega)
    have hbits : listedBits a = if (off - 0x1000) % 0x40 = 0x10 then 1 else 0xFFFFFFFF := by
      rw [ha, listedBits_slot (by omega), noteBits, if_neg (by omega), if_neg (by omega), if_neg (by omega),
        if_neg (by omega), if_neg (by omega), show (0x10000 + v * 0x8000 + off - 0x10000) % 0x8000 = off by omega]
      rfl
    split at h
    · unfold uniReg at h
      split at h
      · cases h; rw [if_neg (by omega)] at hbits; exact hbits ▸ .cell hu (by omega)
      · split at h
        · next heq => cases h; rw [if_pos heq] at hbits; exact hbits ▸ .cell hu (by omega)
        · split at h <;> cases h
          exact .output hu (by omega)
    · split at h
      · cases h; exact .output hu (by omega)
      · split at h <;> cases h
        exact .output hu (by omega)

theorem mapped_envReg {n k off a : Nat} {g : Reg} (hn : n < 16) (hk : k < 27) (hoff : off < 0x200)
    (ha : a = 0x1000000 + n * 0x100000 + (0x1000 + k * 0x200 + off)) (h : envReg n k off = some g) : Mapped a g := by
  unfold envReg at h
  split at h
  · cases h
    have hbits : listedBits a = 0xFFFFFFFF := by
      rw [ha, listedBits_slot (by omega), noteBits, if_neg (by omega), if_pos (by omega), if_neg (by omega),
        if_neg (by omega)]
      rfl
    rw [show envBase n k + off = a by unfold envBase noteBase; omega, ← hbits]
    exact .cell ((undefAfterReset_iff a).2 (by omega)) (by omega)
  · exact SlotFile.mapped (q := .env k) hn hk (by simp only [SlotFile.Spans]; omega) h (by simp only [SlotFile.base]; omega)

theorem mapped_lfoReg {n k off a : Nat} {g : Reg} (hn : n < 16) (hk : k < 27) (hoff : off < 0x40)
    (ha : a = 0x1000000 + n * 0x100000 + (0x5000 + k * 0x40 + off)) (h : lfoReg n k off = some g) : Mapped a g :=
  SlotFile.mapped (q := .lfo k) hn hk hoff h ha

theorem mapped_fltReg {n f off a : Nat} {g : Reg} (hn : n < 16) (hf : f < 18) (hoff : off < 0x100)
    (ha : a = 0x1000000 + n * 0x100000 + (0x6000 + f * 0x100 + off)) (h : fltReg n f off = some g) : Mapped a g :=
  SlotFile.mapped (q := .flt f) hn hf hoff h ha

theorem mapped_noteRegion {n off a : Nat} {g : Reg} (hn : n < 16) (hoff : off < 0x100000)
    (ha : a = 0x1000000 + n * 0x100000 + off) (h : noteRegion n off a = some g) : Mapped a g := by
  unfold noteRegion at h
  split at h
  · next hlt => exact SlotFile.mapped (q := .note) hn trivial hlt h (by rw [ha]; simp [SlotFile.base])
  · split at h
    · exact mapped_envReg hn (by omega) (by omega) (by omega) h
    · split at h
      · exact mapped_lfoReg hn (by omega) (by omega) (by omega) h
      · split at h
        · exact mapped_fltReg hn (by omega) (by omega) (by omega) h
        · split at h
          · cases h; exact .output ((undefAfterReset_iff a).2 (by omega)) (by omega)
          · split at h
            · exact mapped_voiceRegion hn (by omega) (by omega) (by omega) h
            · cases h

/-- Every mapped word is a register of a file or one of the kinds of memory cells (R92). -/
theorem mapped_of_locate {a : Nat} {g : Reg} (h4 : a % 4 = 0) (h : locate a = some g) : Mapped a g := by
  unfold locate at h
  split at h
  · next hlt =>
    have := Mapped.register (p := .glb) trivial hlt h
    rwa [show RegFile.glb.base + a = a from Nat.zero_add _] at this
  · split at h
    · cases h
      have hbits : listedBits a = 0xFFFFFFFF := by
        rw [listedBits, if_neg (by omega), if_neg (by omega), if_neg (by omega), if_neg (by omega), if_neg (by omega)]; rfl
      exact hbits ▸ .cell ((undefAfterReset_iff a).2 (by omega)) (by omega)
    · split at h
      · unfold oscReg at h
        split at h
        · cases h
          have := Mapped.table (o := (a - 0x10000) / 0x1000) (i := a % 0x1000) (by omega) (by omega)
          rwa [show oscBase ((a - 0x10000) / 0x1000) + a % 0x1000 = a by unfold oscBase; omega] at this ⊢
        · have := Mapped.register (p := .osc ((a - 0x10000) / 0x1000)) (off := a % 0x1000)
            (by simp only [RegFile.Valid]; omega) (by simp only [RegFile.Spans]; omega) h
          rwa [show RegFile.base (.osc ((a - 0x10000) / 0x1000)) + a % 0x1000 = a by simp only [RegFile.base]; omega] at this
      · have hbit : (decide (a / 0x1000 % 2 = 1)).toNat = a / 0x1000 % 2 := by
          by_cases hb : a / 0x1000 % 2 = 1 <;> simp [hb]; omega
        split at h
        · cases h
          exact .bank (by omega) (.inl (by simp only [wordsAt, specAddr, hbit]; omega))
        · split at h
          · cases h
            exact .bank (by omega) (.inr (by simp only [wordsAt, waveAddr, hbit]; omega))
          · split at h
            · exact mapped_noteRegion (by omega) (by omega) (by omega) h
            · split at h <;> cases h
              exact .output ((undefAfterReset_iff a).2 (by omega)) (by omega)

end Sys2Proof.Machine
end

section
/-! PROOFS. HOST accesses (R92 to R103): refusals, accepted reads, and the access right of every mapped word. -/

namespace Sys2Proof.Machine

/-! ## Refusals (R94 to R100) -/

section
variable {w : Width} {a : Nat} {allowed : Bool} {s : State} {g : Reg}

theorem refusal_eq_busErr (h : (w ≠ .w32 ∨ a % 4 ≠ 0) ∨ ¬ (s.status.busy = true ∧ allowed = false) ∧ locate a = none) :
    refusal w a allowed s = some .busErr := by
  rw [refusal]
  split
  · rfl
  · next hw =>
    split
    · rfl
    · next ha =>
      obtain ⟨hb, hl⟩ := h.resolve_left (by tauto)
      rw [if_neg (by simpa using hb), if_pos (by rw [hl]; rfl)]

theorem refusal_eq_busyAcc (h : ¬ (w ≠ .w32 ∨ a % 4 ≠ 0)) (hb : s.status.busy = true) (ho : allowed = false) :
    refusal w a allowed s = some .busyAcc := by
  rw [not_or] at h
  rw [refusal, if_neg h.1, if_neg h.2, if_pos (by rw [hb, ho]; rfl)]

theorem refusal_eq_none (h : ¬ (w ≠ .w32 ∨ a % 4 ≠ 0)) (hb : s.status.busy = true → allowed = true)
    (hg : locate a = some g) : refusal w a allowed s = none := by
  rw [not_or] at h
  rw [refusal, if_neg h.1, if_neg h.2, if_neg (by simpa using hb), if_neg (by rw [hg]; exact Bool.false_ne_true)]

theorem hostRead_refused {e : ErrBit} (h : refusal w a (busyReadable a) s = some e) :
    hostRead w a s = (s.setErr e).giveUnspecified := by
  rw [hostRead, h]

theorem hostWrite_refused {e : ErrBit} {v : Word} (h : refusal w a (busyWritable a) s = some e) :
    hostWrite w a v s = s.setErr e := by
  rw [hostWrite, h]

/-- An accepted read returns the word's value, and an unspecified one where it has none (R96). -/
theorem hostRead_accepted (h : ¬ (w ≠ .w32 ∨ a % 4 ≠ 0)) (hb : s.status.busy = true → busyReadable a = true)
    (hg : locate a = some g) : hostRead w a s = (g.read s).elim s.giveUnspecified s.give := by
  rw [hostRead, refusal_eq_none h hb hg, hg]
  show (match g.read s with | some v => s.give v | none => s.giveUnspecified) = _
  cases g.read s <;> rfl

/-- An accepted write has the word's effect, unless the word is read-only (R97, R99). -/
theorem hostWrite_accepted (h : ¬ (w ≠ .w32 ∨ a % 4 ≠ 0)) (hb : s.status.busy = true → busyWritable a = true)
    (hg : locate a = some g) (v : Word) :
    hostWrite w a v s = if g.access = .ro then s.setErr .busErr else g.write v s := by
  rw [hostWrite, refusal_eq_none h hb hg, hg]

end

/-! ## Access rights (R103) -/

section
variable (n k off : Nat)

theorem access_glbReg (ha : off % 4 = 0) (ho : off < 0x100) : (glbReg off).map (·.access) = glbAccess off := by
  obtain ⟨i, rfl⟩ : ∃ i, off = 4 * i := ⟨off / 4, by omega⟩
  have hi : i < 64 := by omega
  interval_cases i <;> rfl

theorem access_oscScalar (ha : off % 4 = 0) (ho : 0x400 ≤ off) : (oscScalar k off).map (·.access) = oscAccess off := by
  unfold oscScalar
  split
  case h_24 => simp only [imp_false] at *; rw [oscAccess, if_neg (by omega), if_neg (by omega)]; rfl
  all_goals rfl

theorem access_envScalar (ha : off % 4 = 0) (ho : (0xA0 ≤ off ∧ off < 0x100) ∨ 0x1A0 ≤ off) :
    (envScalar n k off).map (·.access) = envAccess off := by
  unfold envScalar
  split
  case h_13 => simp only [imp_false] at *; rw [envAccess, if_neg (by omega), if_neg (by omega)]; rfl
  all_goals simp [envAccess, envRo, envRw, roReg, rwReg]

theorem access_fltReg (ha : off % 4 = 0) (ho : off < 0x100) : (fltReg n k off).map (·.access) = fltAccess off := by
  obtain ⟨i, rfl⟩ : ∃ i, off = 4 * i := ⟨off / 4, by omega⟩
  have hi : i < 64 := by omega
  interval_cases i <;> rfl

theorem access_noteReg (ha : off % 4 = 0) (ho : off < 0x1000) : (noteReg n off).map (·.access) = slotAccess off := by
  rw [slotAccess, if_pos ho]
  unfold noteReg
  split
  case h_20 => simp only [imp_false] at *; rw [if_neg (by omega), if_neg (by omega)]; rfl
  all_goals simp [noteRo, noteRw, roReg, rwReg]

theorem access_lfoReg (ha : off % 4 = 0) (ho : off < 0x40) : (lfoReg n k off).map (·.access) =
    if off ≤ 0x10 then some .rw else if off ≤ 0x1C then some .ro else none := by
  obtain ⟨i, rfl⟩ : ∃ i, off = 4 * i := ⟨off / 4, by omega⟩
  have hi : i < 16 := by omega
  interval_cases i <;> rfl

theorem access_voiceReg (ha : off % 4 = 0) (ho : off < 0x1000) : (voiceReg n k off).map (·.access) = voiceAccess off := by
  rw [voiceAccess, if_pos ho]
  unfold voiceReg
  split
  case h_21 => simp only [imp_false] at *; rw [if_neg (by omega), if_neg (by omega)]; rfl
  all_goals simp [voiceRo, voiceRw, roReg, rwReg]

theorem access_uniReg (a : Nat) (ha : off % 4 = 0) : (uniReg a off).map (·.access) =
    if off ≤ 0x10 then some .rw else if off ≤ 0x2C then some .ro else none := by
  by_cases h1 : off < 0x10
  · rw [uniReg, if_pos h1, if_pos (by omega)]; rfl
  · rw [uniReg, if_neg h1]
    by_cases h2 : off = 0x10
    · rw [if_pos h2, if_pos (by omega)]; rfl
    · rw [if_neg h2]
      by_cases h3 : off < 0x30
      · rw [if_pos h3, if_neg (by omega), if_pos (by omega)]; rfl
      · rw [if_neg h3, if_neg (by omega), if_neg (by omega)]; rfl

theorem access_voiceRegion (a : Nat) (ha : off % 4 = 0) :
    (voiceRegion n k off a).map (·.access) = voiceAccess off := by
  by_cases hv : off < 0x1000
  · rw [voiceRegion, if_pos hv, access_voiceReg n k off ha hv]
  · rw [voiceRegion, if_neg hv, voiceAccess, if_neg hv]
    by_cases hu : off < 0x1C80
    · rw [if_pos hu, if_pos hu, access_uniReg _ _ (by omega), show (off - 0x1000) % 0x40 = off % 0x40 by omega]
    · rw [if_neg hu, if_neg hu]
      by_cases ho : 0x2000 ≤ off ∧ off < 0x2400
      · rw [if_pos ho, if_pos (.inl ho)]; rfl
      · rw [if_neg ho]
        by_cases hw : 0x3000 ≤ off ∧ off < 0x5000
        · rw [if_pos hw, if_pos (.inr hw)]; rfl
        · rw [if_neg hw, if_neg (not_or.2 ⟨ho, hw⟩)]; rfl

theorem access_envReg (ha : off % 4 = 0) (ho : off < 0x200) : (envReg n k off).map (·.access) = envAccess off := by
  unfold envReg
  split
  · rw [envAccess, if_pos (by omega)]; rfl
  · exact access_envScalar n k off ha (by omega)

theorem access_noteRegion (a : Nat) (ha : off % 4 = 0) :
    (noteRegion n off a).map (·.access) = slotAccess off := by
  by_cases h1 : off < 0x1000
  · rw [noteRegion, if_pos h1, access_noteReg n off ha h1]
  · rw [noteRegion, if_neg h1, slotAccess, if_neg h1]
    by_cases h2 : off < 0x4600
    · rw [if_pos h2, if_pos h2, access_envReg _ _ _ (by omega) (by omega),
        show (off - 0x1000) % 0x200 = off % 0x200 by omega]
    · rw [if_neg h2, if_neg h2]
      by_cases h3 : 0x5000 ≤ off ∧ off < 0x56C0
      · rw [if_pos h3, if_pos h3, access_lfoReg _ _ _ (by omega) (by omega),
          show (off - 0x5000) % 0x40 = off % 0x40 by omega]
      · rw [if_neg h3, if_neg h3]
        by_cases h4 : 0x6000 ≤ off ∧ off < 0x7200
        · rw [if_pos h4, if_pos h4, access_fltReg _ _ _ (by omega) (by omega),
            show (off - 0x6000) % 0x100 = off % 0x100 by omega]
        · rw [if_neg h4, if_neg h4]
          by_cases h5 : 0x8000 ≤ off ∧ off < 0x8800
          · rw [if_pos h5, if_pos h5]; rfl
          · rw [if_neg h5, if_neg h5]
            by_cases h6 : 0x10000 ≤ off ∧ off < 0x50000
            · rw [if_pos h6, if_pos h6, access_voiceRegion _ _ _ _ (by omega),
                show (off - 0x10000) % 0x8000 = off % 0x8000 by omega]
            · rw [if_neg h6, if_neg h6]; rfl

/-- Every mapped word has the access right of its register set (R92, R103). -/
theorem access_locate {a : Nat} (ha : a % 4 = 0) : (locate a).map (·.access) = accessAt a := by
  unfold locate accessAt
  split
  · next h => exact access_glbReg a ha h
  · split
    · rfl
    · split
      · unfold oscReg
        split
        · rw [oscAccess, if_pos (by omega)]; rfl
        · exact access_oscScalar _ _ (by omega) (by omega)
      · split
        · next h => rw [if_pos (.inl h)]; rfl
        · next h1 =>
          split
          · next h => rw [if_pos (.inr h)]; rfl
          · next h2 =>
            rw [if_neg (not_or.2 ⟨h1, h2⟩)]
            split
            · exact access_noteRegion _ _ _ (by omega)
            · split <;> rfl

end

/-! ## What HOST reads -/

namespace RegFile

/-- The entries of a file are at aligned offsets of the file, one entry at each. -/
theorem keys_shows (s : State) (p : RegFile) :
    (∀ k ∈ (p.shows s).map Prod.fst, p.Spans k ∧ k % 4 = 0) ∧ ((p.shows s).map Prod.fst).Nodup := by
  match p with
  | .glb => exact ⟨by simp [Spans, shows, State.glbShows], of_decide_eq_true rfl⟩
  | .osc o => exact ⟨by simp [Spans, shows, Osc.shows], of_decide_eq_true rfl⟩
  | .slot n .note => exact ⟨by simp [Spans, SlotFile.Spans, shows, SlotFile.shows, Note.shows], of_decide_eq_true rfl⟩
  | .slot n (.env k) => exact ⟨by simp [Spans, SlotFile.Spans, shows, SlotFile.shows, Env.shows], of_decide_eq_true rfl⟩
  | .slot n (.lfo k) => exact ⟨by simp [Spans, SlotFile.Spans, shows, SlotFile.shows, Lfo.shows], of_decide_eq_true rfl⟩
  | .slot n (.flt f) => exact ⟨by simp [Spans, SlotFile.Spans, shows, SlotFile.shows, Flt.shows, List.finRange], of_decide_eq_true rfl⟩
  | .slot n (.voice v) => exact ⟨by simp [Spans, SlotFile.Spans, shows, SlotFile.shows, Voice.shows], of_decide_eq_true rfl⟩

theorem base_aligned (p : RegFile) : p.base % 4 = 0 := by
  match p with
  | .glb => rfl
  | .osc o => simp only [base]; omega
  | .slot n q => cases q <;> simp only [base, SlotFile.base] <;> omega

theorem lookup_of_mem {l : List (Nat × Word)} (hl : (l.map Prod.fst).Nodup) {e : Nat × Word} (he : e ∈ l) :
    l.lookup e.1 = some e.2 := by
  induction l with
  | nil => cases he
  | cons d l ih =>
    obtain ⟨hd, hl⟩ := List.nodup_cons.1 hl
    rcases List.mem_cons.1 he with rfl | he
    · exact List.lookup_cons_self
    · have hne : e.1 ≠ d.1 := fun h => hd (h ▸ List.mem_map_of_mem he)
      exact (lookup_cons_ne hne d.2 l).trans (ih hl he)

/-- An entry of a file is what a read of its register returns. -/
theorem locate_of_mem (s : State) {p : RegFile} (hp : p.Valid) {e : Nat × Word} (he : e ∈ p.shows s) :
    (p.base + e.1) % 4 = 0 ∧ ∃ g, locate (p.base + e.1) = some g ∧ g.read s = some e.2 := by
  obtain ⟨hkeys, hnodup⟩ := keys_shows s p
  obtain ⟨hspan, h4⟩ := hkeys e.1 (List.mem_map_of_mem he)
  have hread := read_reg s h4 hspan
  rw [lookup_of_mem hnodup he, Option.map_some, Option.map_eq_some_iff] at hread
  exact ⟨by have := base_aligned p; omega, by rwa [locate_reg hp hspan]⟩

end RegFile

/-- A register that the spec names is an entry of a file (R40 to R65). -/
theorem entry_of_shows {s : State} {a : Nat} {r : Word} (h : s.Shows a r) :
    ∃ p : RegFile, p.Valid ∧ ∃ e ∈ p.shows s, p.base + e.1 = a ∧ e.2 = r := by
  rcases h with h | ⟨o, ho, e, he, heq⟩ | ⟨n, hn, ⟨e, he, heq⟩ | ⟨k, hk, ⟨e, he, heq⟩ | ⟨e, he, heq⟩⟩ | ⟨f, hf, e, he, heq⟩ |
    ⟨v, hv, e, he, heq⟩⟩
  · exact ⟨.glb, trivial, (a, r), List.mem_cons_of_mem _ h, Nat.zero_add a, rfl⟩
  · obtain ⟨ha, hr⟩ := Prod.mk.inj heq
    exact ⟨.osc o, ho, e, he, ha.symm, hr.symm⟩
  · obtain ⟨ha, hr⟩ := Prod.mk.inj heq
    exact ⟨.slot n .note, ⟨hn, trivial⟩, e, List.mem_cons_of_mem _ he, by simp only [RegFile.base, SlotFile.base]; omega, hr.symm⟩
  · obtain ⟨ha, hr⟩ := Prod.mk.inj heq
    exact ⟨.slot n (.env k), ⟨hn, hk⟩, e, he, by simp only [RegFile.base, SlotFile.base]; omega, hr.symm⟩
  · obtain ⟨ha, hr⟩ := Prod.mk.inj heq
    exact ⟨.slot n (.lfo k), ⟨hn, hk⟩, e, he, by simp only [RegFile.base, SlotFile.base]; omega, hr.symm⟩
  · obtain ⟨ha, hr⟩ := Prod.mk.inj heq
    exact ⟨.slot n (.flt f), ⟨hn, hf⟩, e, he, by simp only [RegFile.base, SlotFile.base]; omega, hr.symm⟩
  · obtain ⟨ha, hr⟩ := Prod.mk.inj heq
    exact ⟨.slot n (.voice v), ⟨hn, hv⟩, e, he, by simp only [RegFile.base, SlotFile.base]; omega, hr.symm⟩

/-- A cell belongs to no bank outside the banks' regions. -/
theorem not_shadowCell {s : State} {a : Nat} (ha : a < 0x100000 ∨ 0x1000000 ≤ a) : ¬ s.shadowCell a := by
  rintro ⟨o, ho, hbank⟩
  generalize (!(s.osc o).pubsel) = b at hbank
  simp only [bankBytes, wordsAt, specAddr, waveAddr] at hbank
  cases b <;> simp at hbank <;> omega

/-- A cell of a bank is a shadow cell when the oscillator has published the other bank. -/
theorem shadowCell_bank {s : State} {o a : Nat} {b : Bool} (ho : o < 16) (ha : bankBytes o b a) :
    s.shadowCell a ↔ (s.osc o).pubsel ≠ b := by
  refine ⟨fun ⟨p, hp, hbank⟩ => ?_, fun h => ⟨o, ho, by rwa [Bool.not_eq.2 h]⟩⟩
  obtain ⟨rfl, hb⟩ := bankBytes_apart ha hbank ho hp
  exact Bool.not_eq.1 hb.symm

/-- What a memory cell reads as: its word, and nothing in a shadow bank (R56, R72). -/
theorem read_cell {a : Nat} {g : Reg} (h4 : a % 4 = 0) (hg : locate a = some g) (hu : undefAfterReset a = true) (s : State) :
    (¬ s.shadowCell a → g.read s = s.mem.word? a) ∧ (s.shadowCell a → g.read s = none) := by
  cases mapped_of_locate h4 hg with
  | register hp hoff _ => exact absurd hu (RegFile.not_undefAfterReset hp hoff)
  | output _ ha => exact ⟨fun _ => rfl, fun h => absurd h (not_shadowCell (.inr ha))⟩
  | cell _ ha => exact ⟨fun _ => rfl, fun h => absurd h (not_shadowCell (by omega))⟩
  | table ho hi => exact ⟨fun _ => rfl, fun h => absurd h (not_shadowCell (by unfold oscBase; omega))⟩
  | bank ho ha =>
    rw [shadowCell_bank ho ha]
    exact ⟨fun h => if_pos (not_not.1 h), fun h => if_neg h⟩

/-- Settles O57: refusals by their order, accepted reads by what each mapped word is: an entry of a register file, a word
of bits, or a memory cell. -/
theorem busRefusals : Obligations.BusRefusals := by
  intro w a v s busy wrong
  refine ⟨fun h => ?_, fun h hb ho => ?_, fun h => ?_, fun h hb ho => ?_, fun h hb g hg => ?_, fun h hb g hg hro => ?_,
    fun hb => ?_⟩
  · exact hostWrite_refused (refusal_eq_busErr h)
  · exact hostWrite_refused (refusal_eq_busyAcc h hb ho)
  · exact hostRead_refused (refusal_eq_busErr h)
  · exact hostRead_refused (refusal_eq_busyAcc h hb ho)
  · refine (hostRead_accepted h hb hg).trans ?_
    cases g.read s <;> rfl
  · exact (hostWrite_accepted h hb hg v).trans (if_pos hro)
  · intro reads
    have hread {g : Reg} (h4 : a.toNat % 4 = 0) (hg : locate a.toNat = some g) :
        reads = (g.read s).elim s.giveUnspecified s.give := hostRead_accepted (by simp [h4]) (fun h => absurd h hb) hg
    have hentry {p : RegFile} (hp : p.Valid) {e : Nat × Word} (he : e ∈ p.shows s) (ha : p.base + e.1 = a.toNat) :
        reads = { s with rdata := e.2 } := by
      obtain ⟨h4, g, hg, hgr⟩ := RegFile.locate_of_mem s hp he
      rw [ha] at h4 hg
      rw [hread h4 hg, hgr]; rfl
    refine ⟨fun r hr => ?_, fun ha => ⟨s.regenRun, ?_, ?_⟩, fun n hn ha => ⟨(s.note n).vcreated, ?_, ?_⟩, fun h4 hmap hu => ?_⟩
    · obtain ⟨p, hp, e, he, ha, rfl⟩ := entry_of_shows hr
      exact hentry hp he ha
    · exact hentry (p := .glb) trivial (List.mem_cons_self ..) ha.symm
    · exact fun o _ => getLsbD_bitsWord (by decide) _ o
    · exact hentry (p := .slot n .note) ⟨hn, trivial⟩ (List.mem_cons_self ..)
        (by rw [ha]; simp only [RegFile.base, SlotFile.base]; omega)
    · exact fun i _ => getLsbD_bitsWord (by decide) _ i
    · rw [← access_locate h4, Option.isSome_map, Option.isSome_iff_exists] at hmap
      obtain ⟨g, hg⟩ := hmap
      obtain ⟨hcell, hshadow⟩ := read_cell h4 hg hu s
      rw [hread h4 hg]
      refine ⟨fun r hs hr => by rw [hcell hs, hr]; rfl, fun h => ?_⟩
      have hnone : g.read s = none := by
        by_cases hs : s.shadowCell a.toNat
        · exact hshadow hs
        · rw [hcell hs, h.resolve_left hs]
      rw [hnone]; rfl

end Sys2Proof.Machine
end

section
/-! PROOFS. What an accepted HOST write stores and leaves (R53, R97, R433). -/

namespace Sys2Proof.Machine

/-! ## One entry of a file replaced -/

/-- A list of entries with the one at `off` replaced. -/
def replaced (off : Nat) (w : Word) (l : List (Nat × Word)) : List (Nat × Word) :=
  l.map fun e => if e.1 = off then (e.1, w) else e

theorem lookup_replaced (off k : Nat) (w : Word) (l : List (Nat × Word)) :
    (replaced off w l).lookup k = if k = off then (l.lookup k).map fun _ => w else l.lookup k := by
  induction l with
  | nil => simp [replaced]
  | cons e l ih =>
    obtain ⟨j, v⟩ := e
    have hcons : replaced off w ((j, v) :: l) = (j, if j = off then w else v) :: replaced off w l := by
      by_cases hj : j = off <;> simp [replaced, hj]
    rw [hcons]
    by_cases hk : k = j
    · subst hk
      rw [List.lookup_cons_self, List.lookup_cons_self]
      split <;> rfl
    · rw [lookup_cons_ne hk, lookup_cons_ne hk, ih]

theorem and_allBits (v : Word) : v &&& allBits = v := BitVec.and_allOnes

/-! ## Parts of a note slot -/

/-- The listed bits of the read-write registers of a part of a note slot (R57, R61 to R65). -/
def SlotFile.bits : SlotFile → Nat → Word
  | .note, off => if off = 0x24 ∨ off = 0x48 then 0x01 else allBits
  | .env _, off => if off = 0x1A0 ∨ off = 0x1A4 then 0xFF else if off = 0x1A8 then 0x0F else allBits
  | .lfo _, off =>
    if off = 0x00 ∨ off = 0x04 then 0x00FFFFFF else if off = 0x08 then 0x07 else if off = 0x10 then 0xFFFF else allBits
  | .flt _, off => if off = 0x00 then 0x01 else if off = 0x04 then 0xFF else 0x07
  | .voice _, off =>
    if off = 0x00 then 0x7F7 else if off = 0x04 then 0x10F0F else if off = 0x20 then 0xFFFF else if off = 0x24 then 0x3F
      else allBits

theorem SlotFile.noteBits_eq {q : SlotFile} {off a : Nat} (hq : q.Valid) (hoff : q.Spans off) (ha : a = q.base + off) :
    noteBits a = q.bits off := by
  cases q with
  | note =>
    have h : off < 0x1000 := hoff
    rw [show a = off from ha.trans (Nat.zero_add off)]
    exact if_pos h
  | env k =>
    have h : 0xA0 ≤ off ∧ off < 0x100 ∨ 0x1A0 ≤ off ∧ off < 0x200 := hoff
    have hk : k < 27 := hq
    simp only [SlotFile.base] at ha
    simp only [noteBits, SlotFile.bits]
    rw [if_neg (by omega), if_pos (by omega), show (a - 0x1000) % 0x200 = off by omega]
  | lfo k =>
    have h : off < 0x40 := hoff
    have hk : k < 27 := hq
    simp only [SlotFile.base] at ha
    simp only [noteBits, SlotFile.bits]
    rw [if_neg (by omega), if_neg (by omega), if_pos (by omega), show (a - 0x5000) % 0x40 = off by omega]
  | flt f =>
    have h : off < 0x100 := hoff
    have hf : f < 18 := hq
    simp only [SlotFile.base] at ha
    simp only [noteBits, SlotFile.bits]
    rw [if_neg (by omega), if_neg (by omega), if_neg (by omega), if_pos (by omega), show (a - 0x6000) % 0x100 = off by omega]
  | voice v =>
    have h : off < 0x1000 := hoff
    have hv : v < 8 := hq
    simp only [SlotFile.base] at ha
    simp only [noteBits, SlotFile.bits]
    rw [if_neg (by omega), if_neg (by omega), if_neg (by omega), if_neg (by omega),
      show (a - 0x10000) % 0x8000 = off by omega, if_pos h]

/-- Note `y` is note `x` with the entry at `off` of the part `q` replaced by `w`. -/
structure SlotFile.Stores (q : SlotFile) (off : Nat) (w : Word) (x y : Note) : Prop where
  entry : q.shows y = replaced off w (q.shows x)
  others : ∀ r : SlotFile, r ≠ q → r.shows y = r.shows x

/-- A write to the register, if it is read-write, stores the listed bits in the entry at `off` of a part of note slot `n`. -/
def SlotFile.Writes (q : SlotFile) (n off : Nat) (g : Reg) : Prop :=
  g.access = .rw → ∀ (v : Word) (s : State),
    ∃ y, g.write v s = s.setNote n y ∧ q.Stores off (v &&& q.bits off) (s.note n) y

section
variable {q : SlotFile} {n k off : Nat} {x : Note}

theorem stores_env {w : Word} {e : Env} (hk : k < 27) (he : e.shows = replaced off w (x.env k).shows) :
    SlotFile.Stores (.env k) off w x { x with envs := x.envs.setIfInBounds k e } where
  entry := by simp [SlotFile.shows, Note.env_set, hk, he]
  others r hr := by
    cases r with
    | env j => simp only [SlotFile.shows, Note.env_set, if_neg fun h : k = j ∧ k < 27 => hr (h.1 ▸ rfl)]
    | _ => rfl

theorem stores_lfo {w : Word} {l : Lfo} (hk : k < 27) (hl : l.shows = replaced off w (x.lfo k).shows) :
    SlotFile.Stores (.lfo k) off w x { x with lfos := x.lfos.setIfInBounds k l } where
  entry := by simp [SlotFile.shows, Note.lfo_set, hk, hl]
  others r hr := by
    cases r with
    | lfo j => simp only [SlotFile.shows, Note.lfo_set, if_neg fun h : k = j ∧ k < 27 => hr (h.1 ▸ rfl)]
    | _ => rfl

theorem stores_flt {w : Word} {f : Flt} (hk : k < 18) (hf : f.shows = replaced off w (x.flt k).shows) :
    SlotFile.Stores (.flt k) off w x { x with flts := x.flts.setIfInBounds k f } where
  entry := by simp [SlotFile.shows, Note.flt_set, hk, hf]
  others r hr := by
    cases r with
    | flt j => simp only [SlotFile.shows, Note.flt_set, if_neg fun h : k = j ∧ k < 18 => hr (h.1 ▸ rfl)]
    | _ => rfl

/-- VCREATED mirrors the voices, so a voice's write keeps it when it keeps CREATED. -/
theorem stores_voice {w : Word} {y : Voice} (hk : k < 8) (hy : y.shows = replaced off w (x.voice k).shows)
    (hc : y.created = (x.voice k).created) :
    SlotFile.Stores (.voice k) off w x { x with voices := x.voices.setIfInBounds k y } where
  entry := by simp [SlotFile.shows, Note.voice_set, hk, hy]
  others r hr := by
    cases r with
    | voice j => simp only [SlotFile.shows, Note.voice_set, if_neg fun h : k = j ∧ k < 8 => hr (h.1 ▸ rfl)]
    | note =>
      have hcreated (v : Nat) : (Note.voice { x with voices := x.voices.setIfInBounds k y } v).created =
          (x.voice v).created := by
        rw [Note.voice_set]
        split
        · next h => rw [hc, h.1]
        · rfl
      have hvcreated : Note.vcreated { x with voices := x.voices.setIfInBounds k y } = x.vcreated := by
        simp only [Note.vcreated, hcreated]
      simp only [SlotFile.shows, hvcreated]; rfl
    | _ => rfl

theorem stores_note {w : Word} {y : Note} (hs : y.shows = replaced off w x.shows) (h44 : off ≠ 0x44)
    (hy : y.envs = x.envs ∧ y.lfos = x.lfos ∧ y.flts = x.flts ∧ y.voices = x.voices) : SlotFile.Stores .note off w x y := by
  obtain ⟨he, hl, hf, hv⟩ := hy
  have hvoice (v : Nat) : y.voice v = x.voice v := by rw [Note.voice, Note.voice, hv]
  refine ⟨?_, fun r hr => ?_⟩
  · simp only [SlotFile.shows, Note.vcreated, hvoice, hs, replaced, List.map_cons, if_neg h44.symm]
  · cases r with
    | note => exact absurd rfl hr
    | env j => simp only [SlotFile.shows, Note.env, he]
    | lfo j => simp only [SlotFile.shows, Note.lfo, hl]
    | flt j => simp only [SlotFile.shows, Note.flt, hf]
    | voice j => simp only [SlotFile.shows, hvoice]

theorem writes_roReg (get : State → Word) : q.Writes n off (roReg get) := nofun

theorem writes_noteRo (get : Note → Word) : q.Writes n off (noteRo n get) := writes_roReg _

theorem writes_noteRw {get : Note → Word} {set : Word → Note → Note} (h44 : off ≠ 0x44)
    (h : ∀ v x, (set v x).shows = replaced off (v &&& SlotFile.note.bits off) x.shows ∧
      (set v x).envs = x.envs ∧ (set v x).lfos = x.lfos ∧ (set v x).flts = x.flts ∧ (set v x).voices = x.voices) :
    SlotFile.note.Writes n off (noteRw n get set) := fun _ v _ => ⟨_, rfl, stores_note (h v _).1 h44 (h v _).2⟩

theorem writes_noteReg {g : Reg} (h : noteReg n off = some g) : SlotFile.note.Writes n off g := by
  unfold noteReg at h
  split at h <;> cases h <;>
    simp [writes_noteRo, writes_noteRw, Note.shows, replaced, SlotFile.bits, inWord_low, and_allBits]

theorem writes_envRw {get : Env → Word} {set : Word → Env → Env} (hk : k < 27)
    (h : ∀ v e, (set v e).shows = replaced off (v &&& (SlotFile.env k).bits off) e.shows) :
    (SlotFile.env k).Writes n off (envRw n k get set) := fun _ v s => ⟨_, rfl, stores_env hk (h v (s.env n k))⟩

theorem writes_envScalar {g : Reg} (hk : k < 27) (h : envScalar n k off = some g) : (SlotFile.env k).Writes n off g := by
  unfold envScalar at h
  split at h <;> cases h <;>
    simp [envRo, writes_roReg, writes_envRw hk, Env.shows, replaced, SlotFile.bits, inWord_low]

theorem writes_lfoRw {get : Lfo → Word} {set : Word → Lfo → Lfo} (hk : k < 27)
    (h : ∀ v l, (set v l).shows = replaced off (v &&& (SlotFile.lfo k).bits off) l.shows) :
    (SlotFile.lfo k).Writes n off (lfoRw n k get set) := fun _ v s => ⟨_, rfl, stores_lfo hk (h v (s.lfo n k))⟩

theorem writes_lfoReg {g : Reg} (hk : k < 27) (h : lfoReg n k off = some g) : (SlotFile.lfo k).Writes n off g := by
  unfold lfoReg at h
  split at h
  case h_4 =>
    cases h
    exact writes_lfoRw hk fun v l => by simp [Lfo.shows, replaced, SlotFile.bits, and_allBits]
  all_goals
    cases h <;> simp [lfoRo, writes_roReg, writes_lfoRw hk, Lfo.shows, replaced, SlotFile.bits, inWord_low]

theorem writes_fltRw {get : Flt → Word} {set : Word → Flt → Flt} (hk : k < 18)
    (h : ∀ v f, (set v f).shows = replaced off (v &&& (SlotFile.flt k).bits off) f.shows) :
    (SlotFile.flt k).Writes n off (fltRw n k get set) := fun _ v s => ⟨_, rfl, stores_flt hk (h v (s.flt n k))⟩

theorem writes_fltReg {g : Reg} (hk : k < 18) (h : fltReg n k off = some g) : (SlotFile.flt k).Writes n off g := by
  unfold fltReg at h
  split at h
  · unfold fltScalar at h
    split at h <;> cases h <;>
      simp [fltRo, writes_roReg, writes_fltRw hk, Flt.shows, List.finRange, replaced, SlotFile.bits, inWord_low]
  · split at h
    · cases h; exact writes_roReg _
    · split at h
      · cases h
      · split at h <;> cases h
        exact writes_roReg _

theorem writes_voiceRw {get : Voice → Word} {set : Word → Voice → Voice} (hk : k < 8)
    (h : ∀ v y, (set v y).shows = replaced off (v &&& (SlotFile.voice k).bits off) y.shows ∧ (set v y).created = y.created) :
    (SlotFile.voice k).Writes n off (voiceRw n k get set) := fun _ v s =>
  ⟨_, rfl, stores_voice hk (h v (s.voice n k)).1 (h v (s.voice n k)).2⟩

theorem writes_voiceReg {g : Reg} (hk : k < 8) (h : voiceReg n k off = some g) : (SlotFile.voice k).Writes n off g := by
  unfold voiceReg at h
  split at h <;> cases h <;>
    simp [voiceRo, writes_roReg, writes_voiceRw hk, Voice.shows, replaced, SlotFile.bits, inWord_low, and_allBits]

/-- Every register of a part of a note slot is read-only or stores its listed bits. -/
theorem SlotFile.writes_reg {g : Reg} (hq : q.Valid) (h : q.reg n off = some g) : q.Writes n off g := by
  cases q with
  | note => exact writes_noteReg h
  | env k => exact writes_envScalar hq h
  | lfo k => exact writes_lfoReg hq h
  | flt f => exact writes_fltReg hq h
  | voice v => exact writes_voiceReg hq h

end

/-! ## The listed bits of a register file -/

/-- The listed bits of the read-write registers of a file (R48 to R65). -/
def RegFile.bits : RegFile → Nat → Word
  | .glb, off => if off = 0x60 then 0x1F else if off = 0x70 then 0xFF else if off = 0x8C then 0x01 else allBits
  | .osc _, off => oscBits off
  | .slot _ q, off => q.bits off

theorem RegFile.listedBits_eq {p : RegFile} {off : Nat} (hp : p.Valid) (hoff : p.Spans off) :
    listedBits (p.base + off) = p.bits off := by
  match p with
  | .glb =>
    have h : off < 0x100 := hoff
    simp only [RegFile.base, RegFile.bits, listedBits, Nat.zero_add]
    rw [if_neg (c := 0x10000 ≤ off ∧ off < 0x20000) (by omega), if_neg (c := 0x1000000 ≤ off) (by omega)]
  | .osc o =>
    obtain ⟨h1, h2⟩ : 0x400 ≤ off ∧ off < 0x1000 := hoff
    have ho : o < 16 := hp
    show listedBits (0x10000 + o * 0x1000 + off) = oscBits off
    rw [listedBits, if_neg (by omega), if_neg (by omega), if_neg (by omega), if_pos (by omega),
      show (0x10000 + o * 0x1000 + off) % 0x1000 = off by omega]
  | .slot n q =>
    have hlt := SlotFile.base_lt hp.2 hoff
    have hbase : (RegFile.slot n q).base + off = 0x1000000 + n * 0x100000 + (q.base + off) := by
      rw [← Nat.add_assoc]; rfl
    rw [hbase, listedBits_slot (by omega), SlotFile.noteBits_eq hp.2 hoff rfl]; rfl

/-! ## What a write leaves of what HOST reads -/

/-- The status words that a configuration write at address `a` changes: OSTAT and CFGVER of its oscillator (R53). -/
def BumpedBy (a : Nat) (p : RegFile) (k : Nat) : Prop := ∃ o, p = .osc o ∧ a / 0x1000 = 16 + o ∧ (k = 0x480 ∨ k = 0x484)

/-- Of what HOST reads, only the word at `a` and the status words that a write there bumps differ. -/
structure Wrote (a : Nat) (s t : State) : Prop where
  entries : ∀ (p : RegFile) (k : Nat), p.base + k ≠ a → ¬ BumpedBy a p k → (p.shows t).lookup k = (p.shows s).lookup k
  cells : ∀ b, b % 4 = 0 → b ≠ a → t.mem.word? b = s.mem.word? b
  pubsel : ∀ o, (t.osc o).pubsel = (s.osc o).pubsel
  err : t.err = s.err
  irqPend : t.irqPend = s.irqPend

theorem RegFile.read_register (s : State) {p : RegFile} {off : Nat} {g : Reg} (ha : (p.base + off) % 4 = 0)
    (hoff : p.Spans off) (hg : p.reg off = some g) : g.read s = (p.shows s).lookup off := by
  have h := read_reg s (p := p) (off := off) (by have := base_aligned p; omega) hoff
  rw [hg] at h
  cases hl : (p.shows s).lookup off with
  | none => rw [hl] at h; cases h
  | some w => rw [hl] at h; exact Option.some.inj h

/-- Any other word reads as before. -/
theorem Wrote.read {a b : Nat} {g : Reg} {s t : State} (h : Wrote a s t) (h4 : b % 4 = 0) (hb : b ≠ a)
    (hg : locate b = some g)
    (hbump : ¬ (0x10000 ≤ a ∧ a < 0x20000 ∧ b / 0x1000 = a / 0x1000 ∧ (b % 0x1000 = 0x480 ∨ b % 0x1000 = 0x484))) :
    g.read t = g.read s := by
  cases mapped_of_locate h4 hg with
  | register hp hoff hreg =>
    rw [RegFile.read_register t h4 hoff hreg, RegFile.read_register s h4 hoff hreg]
    refine h.entries _ _ hb ?_
    rintro ⟨o, rfl, ho, hk⟩
    have ho16 : o < 16 := hp
    refine hbump ?_
    simp only [RegFile.base]
    omega
  | output _ _ | cell _ _ => exact h.cells b h4 hb
  | table _ _ => exact h.cells _ h4 hb
  | bank _ _ =>
    simp only [bankReg, h.pubsel, h.cells b h4 hb]

theorem regenRun_congr {s t : State} (h : ∀ o, (t.osc o).job = (s.osc o).job) : t.regenRun = s.regenRun := by
  simp only [State.regenRun, h]

theorem glbShows_setOsc (s : State) (o : Nat) (x : Osc) : (s.setOsc o x).glbShows = s.glbShows := rfl

section
variable {n off : Nat} {w : Word} {s : State}

/-- A write to a register of a note slot. -/
theorem wrote_setNote {q : SlotFile} {y : Note} (hn : n < 16) (h : q.Stores off w (s.note n) y) :
    Wrote ((RegFile.slot n q).base + off) s (s.setNote n y) where
  entries p k hk _ := by
    match p with
    | .glb => rfl
    | .osc o => rfl
    | .slot m r =>
      simp only [RegFile.shows]
      by_cases hm : m = n
      · subst hm
        rw [note_setNote_self _ _ _ hn]
        by_cases hr : r = q
        · subst hr
          rw [h.entry, lookup_replaced, if_neg (by omega)]
        · rw [h.others r hr]
      · rw [note_setNote_ne _ _ _ _ (Ne.symm hm)]
  cells _ _ _ := rfl
  pubsel _ := rfl
  err := rfl
  irqPend := rfl

/-- A write to a global register. -/
theorem wrote_glb {t : State} (h : RegFile.glb.shows t = replaced off w (RegFile.glb.shows s)) (hoscs : t.oscs = s.oscs)
    (hnotes : t.notes = s.notes) (hmem : t.mem = s.mem) (herr : t.err = s.err) (hpend : t.irqPend = s.irqPend) :
    Wrote off s t where
  entries p k hk _ := by
    match p with
    | .glb =>
      have hne : ¬ k = off := fun hkoff => hk ((Nat.zero_add k).trans hkoff)
      rw [h, lookup_replaced, if_neg hne]
    | .osc o => simp only [RegFile.shows, State.osc, hoscs]
    | .slot m r => simp only [RegFile.shows, State.note, hnotes]
  cells _ _ _ := by rw [hmem]
  pubsel o := by rw [State.osc, State.osc, hoscs]
  err := herr
  irqPend := hpend

/-- The version bump of a configuration write changes its oscillator's OSTAT and CFGVER. -/
theorem entry_bumpVersion {o k : Nat} (ho : o < 16) (u : State) {p : RegFile} (h : p = .osc o → ¬ (k = 0x480 ∨ k = 0x484)) :
    (p.shows (bumpVersion o u)).lookup k = (p.shows u).lookup k := by
  match p with
  | .glb =>
    have hrun : (bumpVersion o u).regenRun = u.regenRun := regenRun_congr fun q => by
      by_cases hq : q = o
      · subst hq; rw [osc_bumpVersion ho]
      · rw [osc_bumpVersion_ne hq]
    simp only [RegFile.shows, hrun]; rfl
  | .osc q =>
    simp only [RegFile.shows]
    by_cases hq : q = o
    · subst hq
      obtain ⟨h480, h484⟩ := not_or.1 (h rfl)
      have hshows (x : Osc) : ∃ w, Osc.shows { x with cfgver := x.cfgver + 1, dirty := true } =
          replaced 0x484 (x.cfgver + 1) (replaced 0x480 w x.shows) := ⟨_, rfl⟩
      obtain ⟨w, hw⟩ := hshows (u.osc q)
      rw [osc_bumpVersion ho, hw, lookup_replaced, if_neg h484, lookup_replaced, if_neg h480]
    · rw [osc_bumpVersion_ne hq]
  | .slot m r => rfl

theorem Wrote.bump {a o : Nat} {u : State} (h : Wrote a s u) (ho : o < 16) (ha : a / 0x1000 = 16 + o) :
    Wrote a s (bumpVersion o u) where
  entries p k hk hb :=
    (entry_bumpVersion ho u fun hp hor => hb ⟨o, hp, ha, hor⟩).trans (h.entries p k hk hb)
  cells := h.cells
  pubsel p := by
    refine Eq.trans ?_ (h.pubsel p)
    by_cases hp : p = o
    · subst hp; rw [osc_bumpVersion ho]
    · rw [osc_bumpVersion_ne hp]
  err := h.err
  irqPend := h.irqPend

/-- A change of one oscillator's configuration. -/
theorem wrote_config {o : Nat} {c : OscCfg} (ho : o < 16)
    (h : Osc.shows { s.osc o with cfg := c } = replaced off w (s.osc o).shows) :
    Wrote ((RegFile.osc o).base + off) s (s.setOsc o { s.osc o with cfg := c }) where
  entries p k hk _ := by
    match p with
    | .glb =>
      have hrun : (s.setOsc o { s.osc o with cfg := c }).regenRun = s.regenRun := regenRun_congr fun q => by
        by_cases hq : o = q
        · subst hq; rw [osc_setOsc_self _ _ _ ho]
        · rw [osc_setOsc_ne _ _ _ _ hq]
      simp only [RegFile.shows, hrun, glbShows_setOsc]
    | .osc q =>
      simp only [RegFile.shows]
      by_cases hq : o = q
      · subst hq
        rw [osc_setOsc_self _ _ _ ho, h, lookup_replaced, if_neg (by omega)]
      · rw [osc_setOsc_ne _ _ _ _ hq]
    | .slot m r => rfl
  cells _ _ _ := rfl
  pubsel p := by
    by_cases hp : o = p
    · subst hp; rw [osc_setOsc_self _ _ _ ho]
    · rw [osc_setOsc_ne _ _ _ _ hp]
  err := rfl
  irqPend := rfl

/-- A write to a memory cell. -/
theorem wrote_setCell {a : Nat} (ha : a % 4 = 0) : Wrote a s (s.setCell a w) where
  entries p k _ _ := by
    match p with
    | .glb => rfl
    | .osc o => rfl
    | .slot m r => rfl
  cells b hb hne := word?_splice_of_disjoint _ _ _ _ (by rw [length_bytesOfWord]; omega)
  pubsel _ := rfl
  err := rfl
  irqPend := rfl

theorem word?_setCell (a : Nat) : (s.setCell a w).mem.word? a = some w := by
  have h := word?_splice_bytesOf s.mem a [w] 0 Nat.one_pos
  simpa [bytesOf] using h

end

/-! ## Every read-write word stores its listed bits -/

/-- A write to the word at `a`, if it is read-write: a read of the word returns the listed bits, and the rest stays. -/
def WritesBits (a : Nat) (g : Reg) : Prop :=
  g.access = .rw → ∀ (v : Word) (s : State), g.read (g.write v s) = some (v &&& listedBits a) ∧ Wrote a s (g.write v s)

/-- A register reads as `w` when its entry became `w`. -/
theorem RegFile.read_stored {p : RegFile} {off : Nat} {g : Reg} {w : Word} {s t : State} (ha : (p.base + off) % 4 = 0)
    (hoff : p.Spans off) (hg : p.reg off = some g)
    (h : (p.shows t).lookup off = ((p.shows s).lookup off).map fun _ => w) : g.read t = some w := by
  have hs := read_reg s (p := p) (off := off) (by have := base_aligned p; omega) hoff
  rw [read_register t ha hoff hg, h]
  cases hl : (p.shows s).lookup off with
  | none => rw [hl, hg] at hs; cases hs
  | some _ => rfl

/-- A write to the register, if it is read-write, stores the listed bits in the globals' entry at `off`. -/
def GlbWrites (off : Nat) (g : Reg) : Prop :=
  g.access = .rw → ∀ (v : Word) (s : State), RegFile.glb.shows (g.write v s) =
      replaced off (v &&& RegFile.glb.bits off) (RegFile.glb.shows s) ∧
    (g.write v s).oscs = s.oscs ∧ (g.write v s).notes = s.notes ∧ (g.write v s).mem = s.mem ∧
    (g.write v s).err = s.err ∧ (g.write v s).irqPend = s.irqPend

theorem writes_glbReg {off : Nat} {g : Reg} (h : glbReg off = some g) : GlbWrites off g := by
  unfold glbReg at h
  split at h <;> cases h <;>
    simp [GlbWrites, roReg, woReg, w1cReg, rwReg, ctlReg, RegFile.shows, State.glbShows, State.regenRun, State.osc, replaced,
      RegFile.bits, wide_eq_inWord, inWord_low, and_allBits]

/-- A write to the register, if it is read-write, stores the listed bits in the entry at `off` of the configuration of
oscillator `o` and bumps its version. -/
def OscWrites (o off : Nat) (g : Reg) : Prop :=
  g.access = .rw → ∀ (v : Word) (s : State), ∃ c : OscCfg,
    g.write v s = bumpVersion o (s.setOsc o { s.osc o with cfg := c }) ∧
      Osc.shows { s.osc o with cfg := c } = replaced off (v &&& oscBits off) (s.osc o).shows

theorem writes_cfgReg {o off : Nat} {get : OscCfg → Word} {set : Word → OscCfg → OscCfg}
    (h : ∀ v (x : Osc), Osc.shows { x with cfg := set v x.cfg } = replaced off (v &&& oscBits off) x.shows) :
    OscWrites o off (cfgReg o get set) := fun _ v s => ⟨_, rfl, h v (s.osc o)⟩

theorem writes_oscScalar {o off : Nat} {g : Reg} (h : oscScalar o off = some g) : OscWrites o off g := by
  unfold oscScalar at h
  split at h <;> cases h
  case h_21 | h_22 | h_23 => nofun
  all_goals simp [writes_cfgReg, Osc.shows, replaced, oscBits, inWord_low]

/-- Every read-write register of a file. -/
theorem RegFile.writesBits_reg {p : RegFile} {off : Nat} {g : Reg} (ha : (p.base + off) % 4 = 0) (hp : p.Valid)
    (hoff : p.Spans off) (hg : p.reg off = some g) : WritesBits (p.base + off) g := by
  intro hrw v s
  rw [listedBits_eq hp hoff]
  match p with
  | .glb =>
    obtain ⟨hshows, hoscs, hnotes, hmem, herr, hpend⟩ := writes_glbReg hg hrw v s
    refine ⟨read_stored (s := s) ha hoff hg (by rw [hshows, lookup_replaced, if_pos rfl]), ?_⟩
    rw [show RegFile.glb.base + off = off from Nat.zero_add off]
    exact wrote_glb hshows hoscs hnotes hmem herr hpend
  | .osc o =>
    have hspan : 0x400 ≤ off ∧ off < 0x1000 := hoff
    have ho : o < 16 := hp
    have hdiv : ((RegFile.osc o).base + off) / 0x1000 = 16 + o := by simp only [RegFile.base]; omega
    have hconfig : ¬ (off = 0x480 ∨ off = 0x484) := by
      rintro (rfl | rfl) <;> cases hg <;> cases hrw
    obtain ⟨c, hwrite, hshows⟩ := writes_oscScalar hg hrw v s
    rw [hwrite]
    refine ⟨read_stored (s := s) ha hoff hg ?_, (wrote_config ho hshows).bump ho hdiv⟩
    rw [entry_bumpVersion ho _ fun _ => hconfig]
    simp only [RegFile.shows]
    rw [osc_setOsc_self _ _ _ ho, hshows, lookup_replaced, if_pos rfl]; rfl
  | .slot n q =>
    obtain ⟨y, hwrite, hstores⟩ := SlotFile.writes_reg hp.2 hg hrw v s
    rw [hwrite]
    refine ⟨read_stored (s := s) ha hoff hg ?_, wrote_setNote hp.1 hstores⟩
    simp only [RegFile.shows]
    rw [note_setNote_self _ _ _ hp.1, hstores.entry, lookup_replaced, if_pos rfl]; rfl

/-- Every read-write word: a register, a harmonic table cell, or a cell that a command only reads. -/
theorem writesBits_of_mapped {a : Nat} {g : Reg} (h4 : a % 4 = 0) (h : Mapped a g) : WritesBits a g := by
  cases h with
  | register hp hoff hg => exact RegFile.writesBits_reg h4 hp hoff hg
  | output _ _ => nofun
  | bank _ _ => nofun
  | cell _ _ => exact fun _ v s => ⟨word?_setCell a, wrote_setCell h4⟩
  | @table o i ho hi =>
    intro _ v s
    have hbits : listedBits (oscBase o + i) = 0x7F := by
      rw [listedBits, if_neg (by unfold oscBase; omega), if_neg (by unfold oscBase; omega),
        if_neg (by unfold oscBase; omega), if_pos (by unfold oscBase; omega),
        show (oscBase o + i) % 0x1000 = i by unfold oscBase; omega, oscBits, if_pos hi]
    rw [hbits]
    exact ⟨word?_setCell (s := s) _, (wrote_setCell h4).bump ho (by unfold oscBase; omega)⟩

/-! ## Configuration writes and write 1 to clear -/

/-- An accepted configuration write stores a configuration, in the registers or the tables of its oscillator, and bumps
the version (R53). -/
theorem bumpVersion_of_configWrite {o off : Nat} {g : Reg} (ho : o < 16) (hoff : off ≤ 0x44C)
    (hg : locate (0x10000 + o * 0x1000 + off) = some g) (hrw : g.access = .rw) (v : Word) (s : State) :
    ∃ c u, g.write v s = bumpVersion o u ∧ u.osc o = { s.osc o with cfg := c } ∧ (∀ p, p ≠ o → u.osc p = s.osc p) ∧
      u.err = s.err := by
  rw [locate, if_neg (by omega), if_neg (by omega), if_pos (by omega), oscReg,
    show (0x10000 + o * 0x1000 + off - 0x10000) / 0x1000 = o by omega,
    show (0x10000 + o * 0x1000 + off) % 0x1000 = off by omega] at hg
  split at hg
  · cases hg
    exact ⟨_, _, rfl, rfl, fun _ _ => rfl, rfl⟩
  · obtain ⟨c, hc, -⟩ := writes_oscScalar hg hrw v s
    exact ⟨c, _, hc, osc_setOsc_self _ _ _ ho, fun p hp => osc_setOsc_ne _ _ _ _ hp.symm, rfl⟩

theorem locate_config {o off : Nat} (ho : o < 16) (hoff : off ≤ 0x44C) (h4 : off % 4 = 0) :
    ∃ g, locate (0x10000 + o * 0x1000 + off) = some g ∧ g.access = .rw := by
  have h := access_locate (a := 0x10000 + o * 0x1000 + off) (by omega)
  rw [accessAt, if_neg (by omega), if_neg (by omega), if_pos (by omega),
    show (0x10000 + o * 0x1000 + off) % 0x1000 = off by omega, oscAccess, if_pos hoff] at h
  exact Option.map_eq_some_iff.1 h

theorem hostStep_write {a : Word} {g : Reg} {s : State} (h4 : a.toNat % 4 = 0)
    (hb : s.status.busy = true → busyWritable a.toNat = true) (hg : locate a.toNat = some g) (hro : g.access ≠ .ro) (v : Word) :
    hostStep (.write .w32 a v) s = g.write v s :=
  (hostWrite_accepted (by simp [h4]) hb hg v).trans (if_neg hro)

/-- Settles O58: the access map; what a write to a read-write word stores and leaves; the version bump; write 1 to clear. -/
theorem hostWrites : Obligations.HostWrites := by
  refine ⟨fun a ha => access_locate ha, fun a v g s h4 hg hrw hb => ?_, fun o off v s ho hoff h4 hb => ?_, fun v s => ?_⟩
  · intro t
    have ht : t = g.write v s := hostStep_write h4 hb hg (by rw [hrw]; decide) v
    obtain ⟨hread, hwrote⟩ := writesBits_of_mapped h4 (mapped_of_locate h4 hg) hrw v s
    rw [ht]
    exact ⟨hread, hwrote.err, hwrote.irqPend, fun b h hb4 hne hh hex => hwrote.read hb4 hne hh hex⟩
  · intro t
    have haddr : (BitVec.ofNat 32 (0x10000 + o * 0x1000 + off)).toNat = 0x10000 + o * 0x1000 + off := by
      rw [BitVec.toNat_ofNat]; omega
    obtain ⟨g, hg, hrw⟩ := locate_config ho hoff h4
    obtain ⟨c, u, hwrite, huo, hup, huerr⟩ := bumpVersion_of_configWrite ho hoff hg hrw v s
    have ht : t = bumpVersion o u := by
      rw [← hwrite]
      exact hostStep_write (by rw [haddr]; omega) (fun h => absurd h (by rw [hb]; decide)) (haddr.symm ▸ hg)
        (by rw [hrw]; decide) v
    rw [ht, osc_bumpVersion ho, huo]
    exact ⟨rfl, rfl, fun p hp => (osc_bumpVersion_ne hp u).trans (hup p hp), rfl, rfl, rfl, rfl, huerr⟩
  · have hclear {a : Word} {get : State → Word} {set : Word → State → State} (hg : locate a.toNat = some (w1cReg get set))
        (h4 : a.toNat % 4 = 0) (hb : busyWritable a.toNat = true) : hostStep (.write .w32 a v) s = set v s :=
      hostStep_write h4 (fun _ => hb) hg nofun v
    exact ⟨hclear (a := 0x4C) rfl rfl rfl, hclear (a := 0x64) rfl rfl rfl, hclear (a := 0x7C) rfl rfl rfl,
      hclear (a := 0xA0) rfl rfl rfl⟩

end Sys2Proof.Machine
end

section
/-! PROOFS. Every step keeps the canonical form of memory (R90, R93): no step writes memory but by storing consecutive bytes
or by forgetting them. -/

namespace Sys2Proof.Machine

/-- The widest frame: every note, oscillator and byte may have changed, and every flag may have risen. It still says that
memory keeps its canonical form. -/
abbrev WideFrame (s t : State) : Prop := Frame (.allOnes 8) (fun _ => True) (fun _ => True) (fun _ => True) s t

section
variable (s : State)

theorem wideFrame_setErrIf (b : Bool) (e : ErrBit) : WideFrame s (s.setErrIf b e) :=
  frame_setErrIf b e (by cases e <;> rfl) s

theorem wideFrame_setCells (a : Nat) (ws : List Word) : WideFrame s (s.setCells a ws) :=
  frame_setCells a ws (fun _ _ => trivial) s

theorem wideFrame_setSignedCells (a : Nat) (xs : List Int) : WideFrame s (s.setSignedCells a xs) := wideFrame_setCells s a _

theorem wideFrame_setCell (a : Nat) (w : Word) : WideFrame s (s.setCell a w) := frame_setCell a w (fun _ _ => trivial) s

theorem wideFrame_setUni (n v : Nat) (f : UniField) (ws : List Word) : WideFrame s (s.setUni n v f ws) :=
  Frame.foldl _ (fun t _ => wideFrame_setCell t _ _) _ s

theorem wideFrame_setPhases (n v : Nat) (hi lo : UniField) (ps : List Nat) : WideFrame s (s.setPhases n v hi lo ps) :=
  Frame.foldl _ (fun t _ => (wideFrame_setCell t _ _).trans (wideFrame_setCell _ _ _)) _ s

end

/-! ## Oscillators -/

section
variable (o : Nat) (s : State)

theorem wideFrame_syncPrepare : WideFrame s (syncPrepare o s) := by
  rw [syncPrepare_eq]
  exact ((((frame_touch _ _ s).trans (wideFrame_setErrIf _ _ _)).trans (wideFrame_setErrIf _ _ _)).trans
    ((wideFrame_setCells _ _ _).trans (wideFrame_setSignedCells _ _ _))).trans (frame_setOsc _ _ trivial _)

theorem wideFrame_oscPrepare : WideFrame s (oscPrepare o s) := by
  unfold oscPrepare
  split
  · exact frame_setRes0 _ s
  · split
    · exact frame_setRes0 _ s
    · exact (wideFrame_syncPrepare o s).trans (frame_setRes0 _ _)

theorem wideFrame_tableSelect : WideFrame s (tableSelect o s) := by
  unfold tableSelect
  split
  · exact wideFrame_syncPrepare o s
  · exact .refl s

theorem wideFrame_oscRegen : WideFrame s (oscRegen o s) := by
  unfold oscRegen
  split
  · exact (wideFrame_setErrIf s true .regenRej).trans (frame_setRes0 _ _)
  · exact ((frame_touch _ _ s).trans (frame_setOsc _ _ trivial _)).trans (frame_setRes0 _ _)

theorem wideFrame_oscCancel : WideFrame s (oscCancel o s) := by
  unfold oscCancel
  split
  · exact frame_setRes0 _ s
  · exact (frame_setOsc _ _ trivial s).trans (frame_setRes0 _ _)

variable (n v : Nat) (sel useres : Bool)

theorem wideFrame_getCopy : WideFrame s (getCopy o n v sel s) := (frame_touch _ _ s).trans (wideFrame_setCells _ _ _)

theorem wideFrame_getAntiAliased (f : Nat) : WideFrame s (getAntiAliased o n v sel useres f s) := by
  unfold getAntiAliased
  dsimp only
  generalize getSpectrum _ _ _ _ _ _ = S
  exact (((frame_touch _ _ s).trans (wideFrame_setErrIf _ S.sat .sat)).trans (wideFrame_setSignedCells _ _ _)).trans
    (frame_setRng _ _ trivial _)

theorem wideFrame_getFromTable (freq : Nat) : WideFrame s (getFromTable o n v sel useres freq s).st := by
  have hflags := (wideFrame_setErrIf s (s.osc o).cfg.getBad .cfg).trans
    (wideFrame_setErrIf _ (freq < Config.FREQ_MIN) .clamp)
  have hdeliver (c : OscCfg) (t : State) : WideFrame t
      (if c.aa = 0 then getCopy o n v sel t else getAntiAliased o n v sel useres (max freq Config.FREQ_MIN) t) := by
    split
    · exact wideFrame_getCopy o t n v sel
    · exact wideFrame_getAntiAliased o t n v sel useres _
  have hdraw (c : OscCfg) (t : State) : WideFrame t (if c.randmodeEff = 1 then t.setRng n (rngNext (t.note n).rng) else t) := by
    split
    · exact frame_setRng _ _ trivial t
    · exact .refl t
  exact (hflags.trans (hdeliver _ _)).trans (hdraw _ _)

theorem wideFrame_oscGet (freq : Nat) : WideFrame s (oscGet o n v sel useres freq s).st := by
  unfold oscGet
  dsimp only
  split
  · exact (wideFrame_tableSelect o s).trans (wideFrame_getFromTable o _ n v sel useres freq)
  · exact ((wideFrame_tableSelect o s).trans (wideFrame_setSignedCells _ _ _)).trans (wideFrame_setErrIf _ true .noTable)

end

/-! ## NOTE.INIT -/

section
variable (n v : Nat) (s : State)

theorem wideFrame_resetSlots (base : Nat) : WideFrame s (resetSlots n base s) :=
  Frame.foldl _ (fun t k => (frame_envReset n (base + k) trivial (by decide) (by decide) t).trans
    (frame_lfoReset n (base + k) trivial (by decide) _)) _ s

theorem wideFrame_cleanup (f : Nat) : WideFrame s (cleanup n f s) := frame_cleanup n f trivial (by decide) s

theorem wideFrame_noteConstruct : WideFrame s (noteConstruct n s) :=
  (((frame_modNote n _ trivial s).trans (wideFrame_resetSlots n _ 0)).trans (wideFrame_cleanup n _ 0)).trans
    (wideFrame_cleanup n _ 1)

theorem wideFrame_takeVoice : WideFrame s (takeVoice n v s) :=
  (frame_nvoices _ s).trans (frame_modVoice n v _ trivial _)

theorem wideFrame_latchVoice : WideFrame s (latchVoice n v s) :=
  (wideFrame_setErrIf s _ .cfg).trans (frame_setVoice n v _ trivial _)

theorem wideFrame_initCarrier : WideFrame s (initCarrier n v s) :=
  ((((wideFrame_setErrIf s _ .sat).trans (wideFrame_oscGet _ _ n v false _ _)).trans (frame_setRng _ _ trivial _)).trans
    (wideFrame_setPhases _ n v _ _ _)).trans (wideFrame_setPhases _ n v _ _ _)

theorem wideFrame_initModulator : WideFrame s (initModulator n v s) := by
  unfold initModulator
  dsimp only
  split
  · exact .refl s
  · exact ((wideFrame_setErrIf s _ .sat).trans (wideFrame_oscGet _ _ n v true false _)).trans
      (wideFrame_setPhases _ n v _ _ _)

theorem wideFrame_initRatios : WideFrame s (initRatios n v s) := by
  unfold initRatios
  dsimp only
  split
  · exact wideFrame_setUni s n v _ _
  · exact (frame_touchUni n v _ _ s).trans (wideFrame_setUni _ n v _ _)

theorem wideFrame_constructVoice : WideFrame s (constructVoice n v s) :=
  (((wideFrame_takeVoice n v s).trans (wideFrame_latchVoice n v _)).trans
    (((wideFrame_resetSlots n _ _).trans (wideFrame_cleanup n _ _)).trans (wideFrame_cleanup n _ _))).trans
      ((((wideFrame_initCarrier n v _).trans (wideFrame_initModulator n v _)).trans
        (frame_modVoice n v Voice.startAmps trivial _)).trans (wideFrame_initRatios n v _))

theorem wideFrame_initVoice (acc : InitAcc) : WideFrame acc.st (initVoice n acc v).st := by
  have hvacate : WideFrame acc.st (acc.st.modVoice n v Voice.vacate) := frame_modVoice n v _ trivial acc.st
  unfold initVoice
  dsimp only
  split
  · exact hvacate
  · split
    · exact hvacate.trans (wideFrame_setErrIf _ true .alloc)
    · exact hvacate.trans (wideFrame_constructVoice n v _)

theorem wideFrame_before (m : Nat) : WideFrame s (before n s m) := by
  induction m with
  | zero => exact wideFrame_noteConstruct n s
  | succ m ih =>
    rw [before_succ]
    exact ih.trans (wideFrame_initVoice n m (initBefore n s m))

theorem wideFrame_noteInit : WideFrame s (noteInit n s) := (wideFrame_before n s 8).trans (frame_setRes _ _ _)

end

/-! ## Commands -/

theorem wideFrame_fltOut (n f a : Nat) (s : State) : WideFrame s (fltOut n f a s) := by
  unfold fltOut
  split
  · exact .refl s
  · exact ((frame_touch a 256 s).trans (frame_filterBlock n f _ trivial (by decide) _)).trans
      (wideFrame_setSignedCells _ _ _)

theorem wideFrame_setCoef (n f freq : Nat) (q : Int) (s : State) : WideFrame s (setCoef n f freq q s) :=
  frame_setCoef n f freq q trivial (by decide) (by decide) s

theorem wideFrame_mixStore (l r : List Int) (s : State) :
    WideFrame s ((s.setSignedCells mixlAddr l).setSignedCells mixrAddr r) :=
  (wideFrame_setSignedCells s _ _).trans (wideFrame_setSignedCells _ _ _)

theorem wideFrame_mixAll (mask : BitVec 16) (s : State) : WideFrame s (mixAll mask s) := by
  have htouch : WideFrame s (touchNotes (selectedNotes mask) s) :=
    Frame.foldl _ (fun t m => (frame_touch (outlAddr m) 256 t).trans (frame_touch (outrAddr m) 256 _)) _ s
  exact (htouch.trans (wideFrame_setErrIf _ _ .sat)).trans (wideFrame_mixStore _ _ _)

theorem wideFrame_noteLegato (n : Nat) (pitch velocity : Word) (s : State) : WideFrame s (noteLegato n pitch velocity s) :=
  (wideFrame_setErrIf s _ .clamp).trans (frame_modNote n _ trivial _)

theorem wideFrame_noteSetvel (n : Nat) (value : Word) (s : State) : WideFrame s (noteSetvel n value s) :=
  (wideFrame_setErrIf s _ .clamp).trans (frame_modNote n _ trivial _)

/-- No command but HALT writes a control register, and none breaks the canonical form. -/
theorem wideFrame_command {i : Instr} (hi : i ≠ .halt) (s : State) : WideFrame s (commandEffect i s) := by
  cases i with
  | nop => exact .refl s
  | halt => exact absurd rfl hi
  | oscPrepare o => exact wideFrame_oscPrepare _ s
  | oscGet o n v sel useres freq => exact (wideFrame_oscGet _ s _ _ sel useres _).trans (frame_setRes _ _ _)
  | oscRegen o => exact wideFrame_oscRegen _ s
  | oscCancel o => exact wideFrame_oscCancel _ s
  | envReset n k => exact frame_envReset _ _ trivial (by decide) (by decide) s
  | envOut n k => exact (frame_runEnvStep n.toNat k.toNat trivial (by decide) s).trans (frame_setRes _ _ _)
  | envOutdb n k => exact (frame_runEnvOutDb n.toNat k.toNat trivial (by decide) s).trans (frame_setRes _ _ _)
  | envRelease n k => exact frame_setEnv _ _ _ trivial s
  | envFinish n k => exact frame_setEnv _ _ _ trivial s
  | lfoReset n k => exact frame_lfoReset _ _ trivial (by decide) s
  | lfoOut n k => exact (frame_runLfoStep n.toNat k.toNat trivial (by decide) s).trans (frame_setRes0 _ _)
  | fltSetfreq n f freq => exact wideFrame_setCoef _ _ _ _ s
  | fltSetfq n f freq q => exact wideFrame_setCoef _ _ _ _ s
  | fltOut n f buf => exact wideFrame_fltOut _ _ _ s
  | fltCleanup n f => exact wideFrame_cleanup _ s _
  | noteInit n => exact wideFrame_noteInit _ s
  | noteOut n => exact frame_noteOut n.toNat trivial (by decide) (by decide) (by decide) (fun _ _ => trivial) s
  | noteRelease n => exact frame_modNote _ _ trivial s
  | noteKill n => exact frame_modNote _ _ trivial s
  | noteLegato n pitch velocity => exact wideFrame_noteLegato _ pitch velocity s
  | noteSetvel n value => exact wideFrame_noteSetvel _ value s
  | noteSetpitch n value => exact frame_modNote n.toNat (fun x => { x with log2freq := value }) trivial s
  | noteSetcut n value => exact frame_modNote n.toNat (fun x => { x with cutoff := value }) trivial s
  | noteFin n => exact frame_setRes _ _ s
  | mixAll mask => exact wideFrame_mixAll mask s
  | mixClear => exact wideFrame_mixStore _ _ s

/-! ## Steps -/

section
variable {s t : State}

theorem wf_exec {i : Instr} (h : exec i s = .next t) (hw : s.mem.wf = true) : t.mem.wf = true := by
  rcases exec_cases h with ⟨k, rfl⟩ | ⟨-, rfl⟩
  · exact hw
  · rw [completed]
    split
    · exact hw
    · next hi => exact (wideFrame_command hi s).wf hw

theorem mem_cmdStart (w : Word) (s : State) : (cmdStart w s).mem = s.mem := by
  unfold cmdStart
  split
  · rfl
  · split <;> rfl

theorem HostEffect.wf (h : HostEffect s t) (hw : s.mem.wf = true) : t.mem.wf = true := by
  cases h with
  | start w => rwa [mem_cmdStart]
  | table o i w ho hi => exact (wideFrame_setCell s (hmagAddr o + 4 * i) w).wf hw
  | store a w h => exact (wideFrame_setCell s a w).wf hw
  | control | ack | config | note => exact hw

theorem mem_observeCancel (o : Nat) (s : State) : (observeCancel o s).mem =
    (s.mem.erase (specAddr o !(s.osc o).pubsel) (4 * 1024)).erase (waveAddr o !(s.osc o).pubsel) (4 * 1024) := rfl

/-- Storing bytes is all that a worker does to memory, but for a cancelled one, which forgets its shadow bank (R208). -/
theorem WorkerEffect.wf {o : Nat} (h : WorkerEffect o s t) (hw : s.mem.wf = true) : t.mem.wf = true := by
  cases h with
  | idle | publish => exact hw
  | cancel j hj =>
    rw [mem_observeCancel]
    exact wf_erase _ _ _ (wf_erase _ _ _ hw)
  | spectrum j hj hs =>
    rw [spectrumUnit_eq, setOsc_mem, setCells_mem]
    exact wf_splice _ _ _ hw
  | sample j u hj hs hu =>
    rw [sampleUnit_eq, setOsc_mem, setCell_mem, touch_mem]
    exact wf_splice _ _ _ hw

end

/-- Settles O15: each kind of step stores bytes, forgets some, or leaves memory alone; after reset none is written. -/
theorem memoryStaysCanonical : Obligations.MemoryStaysCanonical := by
  intro s t hw h
  cases stepped_of_step h with
  | reset rest hr => rfl
  | host a rest _ => exact (hostEffect_hostStep a { s with turns := rest }).wf hw
  | regen o u rest => exact (workerEffect_regenStep o u { s with turns := rest }).wf hw
  | command rest c i _ _ _ he => exact wf_exec he hw
  | idle | overrun | illegal => exact hw

end Sys2Proof.Machine
end

section
/-! PROOFS. FLT.OUT (R105, R286): the buffer, the stage states and the flag that one filtered block leaves. -/

namespace Sys2Proof.Machine

/-! ## Flags as bits of ERR (R46) -/

theorem flag_cfg_eq (b : Bool) : flag b .cfg = if b then 0x02 else 0 := by cases b <;> decide

theorem flag_sat_eq (b : Bool) : flag b .sat = if b then 0x08 else 0 := by cases b <;> decide

/-! ## FLT.OUT -/

theorem Flt.active_eq_zero (x : Flt) : x.active = 0 ↔ x.fnst = 0 := by
  rw [Flt.active, ← BitVec.toNat_inj]
  show _ ↔ x.fnst.toNat = 0
  omega

/-- The address of a buffer (R105). -/
theorem bufferAddr_eq (n : Nat) (buf : Byte) : bufferAddr n buf =
    if buf.toNat = 0 then noteBase n + 0x8000 else if buf.toNat = 1 then noteBase n + 0x8400
      else noteBase n + 0x10000 + (buf.toNat - 16) * 0x8000 + 0x2000 := rfl

theorem bufferIdOk_iff (buf : Byte) :
    bufferIdOk buf = true ↔ buf.toNat = 0 ∨ buf.toNat = 1 ∨ 16 ≤ buf.toNat ∧ buf.toNat ≤ 23 := by
  simp [bufferIdOk, or_assoc]

theorem exec_fltOut {n f buf : Byte} (hn : n.toNat < 16) (hf : f.toNat < 18) (hb : bufferIdOk buf = true) (s : State) :
    exec (.fltOut n f buf) s = .next (fltOut n.toNat f.toNat (bufferAddr n.toNat buf) s).advance :=
  exec_of_no_fault (by simp) (if_neg (by simp [Instr.wellFormed, noteIndexOk, filterIndexOk, hn, hf, hb]))

section
variable (n f a : Nat) (s : State)

/-- The samples and stage states of the buffer at `a`, filtered by filter `f` (R286). -/
def blockFiltered : Sat (List Int × List FltStage) :=
  filterSamples (s.flt n f) ((s.flt n f).fst.toList.take (s.flt n f).active) (s.signedCells a 256)

theorem length_blockFiltered : (blockFiltered n f a s).val.1.length = 256 :=
  (length_filterSamples _ _ _).trans (length_signedCells s a 256)

theorem length_stages_blockFiltered : (blockFiltered n f a s).val.2.length = (s.flt n f).active := by
  have h : (s.flt n f).active ≤ 5 := Nat.min_le_right _ _
  rw [blockFiltered, length_stages_filterSamples, List.length_take, Vector.length_toList, Nat.min_eq_left h]

theorem fltOut_unconfigured (h : (s.flt n f).active = 0) : fltOut n f a s = s := if_pos h

theorem fltOut_configured (h : ¬ (s.flt n f).active = 0) : fltOut n f a s =
    (((s.touch a 256).noteSat (blockFiltered n f a s).sat).setFlt n f
      ((s.flt n f).withStages (blockFiltered n f a s).val.2)).setSignedCells a (blockFiltered n f a s).val.1 := by
  have hx : (s.touch a 256).flt n f = s.flt n f := rfl
  rw [fltOut, if_neg h, filterBlock, hx, if_neg h]
  rfl

variable {n f} (h : ¬ (s.flt n f).active = 0)
include h

theorem cells_fltOut : (fltOut n f a s).cells a 256 = (blockFiltered n f a s).val.1.map toWord := by
  have hlen : ((blockFiltered n f a s).val.1.map toWord).length = 256 := by rw [List.length_map, length_blockFiltered]
  rw [fltOut_configured n f a s h, State.setSignedCells, ← hlen, cells_setCells]

theorem err_fltOut : (fltOut n f a s).err = s.err ||| flag (blockFiltered n f a s).sat .sat := by
  have herr (t : State) (xs : List Int) : (t.setSignedCells a xs).err = t.err := rfl
  rw [fltOut_configured n f a s h, herr, err_setFlt, err_noteSat, touch_err]

theorem note_fltOut (hn : n < 16) : (fltOut n f a s).note n = { s.note n with
    flts := (s.note n).flts.setIfInBounds f ((s.flt n f).withStages (blockFiltered n f a s).val.2) } := by
  have hnote (t : State) (xs : List Int) : (t.setSignedCells a xs).note n = t.note n := rfl
  rw [fltOut_configured n f a s h, hnote, State.setFlt, note_modNote_self _ _ _ hn]
  rfl

theorem flt_fltOut (hn : n < 16) (hf : f < 18) :
    (fltOut n f a s).flt n f = (s.flt n f).withStages (blockFiltered n f a s).val.2 := by
  rw [State.flt, note_fltOut a s h hn, Note.flt_set, if_pos ⟨rfl, hf⟩]

theorem fst_fltOut (hn : n < 16) (hf : f < 18) : ((fltOut n f a s).flt n f).fst.toList =
    (blockFiltered n f a s).val.2 ++ (s.flt n f).fst.toList.drop (s.flt n f).active := by
  have hlen := length_stages_blockFiltered n f a s
  have hle : (s.flt n f).active ≤ 5 := Nat.min_le_right _ _
  rw [flt_fltOut a s h hn hf, fst_withStages _ _ (hlen ▸ hle), hlen]

end

/-- Settles O34: without stages nothing but CPTR moves; else the block is filtered as `blockFiltered` says. -/
theorem fltOutResult : Obligations.FltOutResult := by
  intro n f buf s hn hf hb x a m r
  have ha : bufferAddr n.toNat buf = a := bufferAddr_eq n.toNat buf
  refine ⟨_, exec_fltOut hn hf ((bufferIdOk_iff buf).2 hb) s, ?_⟩
  rw [ha]
  by_cases h0 : x.fnst = 0
  · rw [if_pos h0, fltOut_unconfigured _ _ a s (x.active_eq_zero.2 h0)]
    rfl
  · have h : ¬ (s.flt n.toNat f.toNat).active = 0 := fun h => h0 (x.active_eq_zero.1 h)
    rw [if_neg h0]
    have hkeep (u : State) : u.advance.cells a 256 = u.cells a 256 ∧ u.advance.note n.toNat = u.note n.toNat ∧
        u.advance.flt n.toNat f.toNat = u.flt n.toNat f.toNat ∧ u.advance.err = u.err := ⟨rfl, rfl, rfl, rfl⟩
    obtain ⟨hcells, hnote, hflt, herr⟩ := hkeep (fltOut n.toNat f.toNat a s)
    have hr : r = blockFiltered n.toNat f.toNat a s := rfl
    rw [hcells, hnote, hflt, herr, hr, cells_fltOut a s h, err_fltOut a s h, flag_sat_eq, fst_fltOut a s h hn hf,
      note_fltOut a s h hn, flt_fltOut a s h hn hf]
    exact ⟨rfl, length_blockFiltered _ _ a s, rfl, rfl, rfl⟩

end Sys2Proof.Machine
end

section
/-! PROOFS. One step of a worker (R205 to R208, R210): which of the four kinds it is, and what each leaves, the bytes of the
shadow bank apart. -/

namespace Sys2Proof.Machine

/-! ## Which kind -/

section
variable {o u : Nat} {j : Job} {s : State} (hj : (s.osc o).job = some j)

theorem step_regen {rest : List Turn} (h : s.turns = .regen o u :: rest) :
    step s = .next (regenStep o u { s with turns := rest }) := step_cons h

theorem Job.allDone_iff (j : Job) : j.allDone = true ↔ ∀ w, w < 1024 → w ∈ j.unitDone := by
  simp [Job.allDone]

include hj

theorem regenStep_cancel (hc : j.cancel = true) : regenStep o u s = observeCancel o s := by
  rw [regenStep, hj]
  exact if_pos hc

theorem regenStep_spectrum (hc : j.cancel = false) (hs : j.specDone = false) : regenStep o u s = spectrumUnit o j s := by
  rw [regenStep, hj]
  exact (if_neg (by rw [hc]; decide)).trans (if_pos (by rw [hs]; rfl))

theorem regenStep_publish (hc : j.cancel = false) (hs : j.specDone = true) (ha : j.allDone = true) :
    regenStep o u s = publish o j s := by
  rw [regenStep, hj]
  exact (if_neg (by rw [hc]; decide)).trans ((if_neg (by rw [hs]; decide)).trans (if_pos ha))

theorem regenStep_sample (hc : j.cancel = false) (hs : j.specDone = true) (hu : u < 1024) (hopen : u ∉ j.unitDone) :
    regenStep o u s = sampleUnit o u j s := by
  have ha : ¬ j.allDone = true := fun ha => hopen (j.allDone_iff.1 ha u hu)
  rw [regenStep, hj]
  exact (if_neg (by rw [hc]; decide)).trans ((if_neg (by rw [hs]; decide)).trans
    ((if_neg ha).trans (if_pos (by simp [hu, hopen]))))

end

/-! ## What each kind leaves -/

section
variable (o u : Nat) (j : Job) (s : State)

theorem observeCancel_eq : observeCancel o s = { s.setOsc o { s.osc o with job := none } with
    mem := (observeCancel o s).mem, regenCanc := s.regenCanc ||| BitVec.twoPow 16 o, irqPend := s.irqPend ||| 0x10 } := rfl

theorem shadow_observeCancel (a : Nat) (ha : bankBytes o (!(s.osc o).pubsel) a) :
    (observeCancel o s).mem.byte? a = none := by
  rw [mem_observeCancel, byte?_erase, byte?_erase]
  split
  · rfl
  · next hw => exact if_pos (ha.resolve_right hw)

theorem bytes_observeCancel (a : Nat) (ha : ¬ bankBytes o (!(s.osc o).pubsel) a) :
    (observeCancel o s).mem.byte? a = s.mem.byte? a := by
  rw [mem_observeCancel, byte?_erase, byte?_erase]
  exact (if_neg fun hw => ha (.inr hw)).trans (if_neg fun hw => ha (.inl hw))

theorem mem_spectrumUnit : (spectrumUnit o j s).mem = s.mem.splice (specAddr o !(s.osc o).pubsel)
    (bytesOf (spectrumWords (jobSpectrum o j s.undefReads).val)) := rfl

theorem length_words_jobSpectrum (reads : Nat) : (spectrumWords (jobSpectrum o j reads).val).length = 1024 := by
  rw [length_spectrumWords, length_jobSpectrum]

theorem cells_spectrumUnit : (spectrumUnit o j s).cells (specAddr o !(s.osc o).pubsel) 1024 =
    spectrumWords (jobSpectrum o j s.undefReads).val :=
  cells_of_holds (length_words_jobSpectrum o j _) (mem_spectrumUnit o j s ▸ holds_splice _ _ _)

theorem bytes_spectrumUnit (a : Nat) (ha : ¬ wordsAt (specAddr o !(s.osc o).pubsel) 1024 a) :
    (spectrumUnit o j s).mem.byte? a = s.mem.byte? a := by
  rw [mem_spectrumUnit, byte?_splice, length_bytesOf, length_words_jobSpectrum]
  exact if_neg ha

theorem undefRead_spectrumUnit : (spectrumUnit o j s).undefRead = true ↔
    s.undefRead = true ∨ ∃ i, i < 256 ∧ j.snapTable.word? (hmagAddr o + 4 * i) = none := by
  show (s.undefRead || !definedIn j.snapTable (hmagAddr o) 256) = true ↔ _
  rw [Bool.or_eq_true, Bool.not_eq_true', definedIn_eq_false]

theorem err_spectrumUnit : (spectrumUnit o j s).err = s.err ||| (if j.snapCfg.prepareBad then 0x02 else 0) |||
    (if (jobSpectrum o j s.undefReads).sat then 0x08 else 0) := by
  have herr (t : State) (a : Nat) (ws : List Word) (x : Osc) : ((t.setCells a ws).setOsc o x).err = t.err := rfl
  rw [spectrumUnit_eq, herr, err_noteSat, err_setErrIf, flag_cfg_eq, flag_sat_eq]

/-- ERR becomes pending exactly when a flag rises (R431). -/
theorem irqPend_spectrumUnit : (spectrumUnit o j s).irqPend =
    if (spectrumUnit o j s).err = s.err then s.irqPend else s.irqPend ||| 0x04 := by
  have hflags (t : State) (b c : Bool) (a : Nat) (ws : List Word) (x : Osc) :
      ((((t.setErrIf b .cfg).noteSat c).setCells a ws).setOsc o x).irqPend =
        if ((((t.setErrIf b .cfg).noteSat c).setCells a ws).setOsc o x).err = t.err then t.irqPend
          else t.irqPend ||| 0x04 :=
    ((wideFrame_setErrIf t b .cfg).trans (wideFrame_setErrIf _ c .sat)).flags.pend
  rw [spectrumUnit_eq]
  exact hflags _ _ _ _ _ _

theorem spectrumUnit_frame : spectrumUnit o j s = { s.setOsc o { s.osc o with job := some { j with specDone := true } } with
    mem := (spectrumUnit o j s).mem, undefRead := (spectrumUnit o j s).undefRead
    undefReads := (spectrumUnit o j s).undefReads, err := (spectrumUnit o j s).err
    irqPend := (spectrumUnit o j s).irqPend } := by
  have hframe (r b c : Bool) (k a : Nat) (ws : List Word) (x : Osc) (t : State)
      (ht : t = ((({ s with undefRead := r, undefReads := k }.setErrIf b .cfg).noteSat c).setCells a ws).setOsc o x) :
      t = { s.setOsc o x with
        mem := t.mem, undefRead := t.undefRead, undefReads := t.undefReads, err := t.err, irqPend := t.irqPend } := by
    subst ht
    rfl
  exact hframe _ _ _ _ _ _ _ _ (spectrumUnit_eq o j s)

theorem mem_sampleUnit : (sampleUnit o u j s).mem =
    s.mem.splice (waveAddr o (!(s.osc o).pubsel) + 4 * u) (bytesOf [unitWord o u s]) := by
  have hmem (t : State) (a m b : Nat) (ws : List Word) (x : Osc) :
      (((t.touch a m).setCells b ws).setOsc o x).mem = t.mem.splice b (bytesOf ws) := rfl
  rw [sampleUnit_eq, setCell_eq, hmem]

theorem word?_sampleUnit : (sampleUnit o u j s).mem.word? (waveAddr o (!(s.osc o).pubsel) + 4 * u) = some (unitWord o u s) := by
  rw [mem_sampleUnit]
  exact word?_splice_bytesOf s.mem _ [unitWord o u s] 0 Nat.one_pos

theorem bytes_sampleUnit (a : Nat) (ha : ¬ wordsAt (waveAddr o (!(s.osc o).pubsel) + 4 * u) 1 a) :
    (sampleUnit o u j s).mem.byte? a = s.mem.byte? a := by
  rw [mem_sampleUnit, byte?_splice, length_bytesOf, List.length_singleton]
  exact if_neg ha

theorem undefRead_sampleUnit : (sampleUnit o u j s).undefRead = true ↔
    s.undefRead = true ∨ ∃ i, i < 1024 ∧ s.mem.word? (specAddr o (!(s.osc o).pubsel) + 4 * i) = none := by
  show (s.undefRead || !definedIn s.mem (specAddr o !(s.osc o).pubsel) 1024) = true ↔ _
  rw [Bool.or_eq_true, Bool.not_eq_true', definedIn_eq_false]

theorem sampleUnit_frame : sampleUnit o u j s =
    { s.setOsc o { s.osc o with job := some { j with unitDone := insertUnit u j.unitDone } } with
      mem := (sampleUnit o u j s).mem, undefRead := (sampleUnit o u j s).undefRead
      undefReads := (sampleUnit o u j s).undefReads } := by
  have hframe (a m b : Nat) (w : Word) (x : Osc) (t : State) (ht : t = ((s.touch a m).setCell b w).setOsc o x) :
      t = { s.setOsc o x with mem := t.mem, undefRead := t.undefRead, undefReads := t.undefReads } := by
    subst ht
    rfl
  exact hframe _ _ _ _ _ _ (sampleUnit_eq o u j s)

theorem publish_eq : publish o j s = { s.setOsc o { s.osc o with
      pubsel := !(s.osc o).pubsel, valid := true, pubver := j.snapVer
      dirty := decide ((s.osc o).cfgver ≠ j.snapVer), job := none } with
    regenDone := s.regenDone ||| BitVec.twoPow 16 o, irqPend := s.irqPend ||| 0x08 } := by
  rw [decide_not]
  rfl

end

/-- Settles O44: the job decides the kind of step (`regenStep_cancel` and its like), and each kind leaves what is said
above. -/
theorem regenEnds : Obligations.RegenEnds := by
  intro o u rest j s ho hturns hj x spec sample S
  let s' : State := { s with turns := rest }
  have hj' : (s'.osc o).job = some j := hj
  rw [step_regen hturns]
  refine ⟨fun hc => ?_, fun hc hs => ?_, fun hc hs hu hopen => ?_, fun hc hs ha => ?_⟩
  · rw [regenStep_cancel hj' hc]
    exact ⟨_, rfl, observeCancel_eq o s', shadow_observeCancel o s', bytes_observeCancel o s'⟩
  · rw [regenStep_spectrum hj' hc hs]
    refine ⟨_, rfl, (spectrumUnit_frame o j s').trans ?_, cells_spectrumUnit o j s', bytes_spectrumUnit o j s',
      undefRead_spectrumUnit o j s'⟩
    rw [irqPend_spectrumUnit, err_spectrumUnit]
    rfl
  · rw [regenStep_sample hj' hc hs hu hopen]
    exact ⟨_, insertUnit u j.unitDone, rfl, mem_insertUnit u j.unitDone, sampleUnit_frame o u j s',
      word?_sampleUnit o u j s', bytes_sampleUnit o u j s', undefRead_sampleUnit o u j s'⟩
  · rw [regenStep_publish hj' hc hs (j.allDone_iff.2 ha)]
    exact ⟨_, rfl, publish_eq o j s'⟩

end Sys2Proof.Machine
end

section
/-! PROOFS. Encoding and decoding of commands (R130 to R138): the fields of W0, the formats as masks and as the words that
they leave, the decoder as the inverse of the encoder, and what the sequencer makes of four words. -/

namespace Sys2Proof

open Machine

/-! ## The fields of a first word (R131) -/

section
variable (op a b c : Byte) (w1 w2 w3 : Word)

@[simp] theorem op_mkW0 : (Words.mk (mkW0 op a b c) w1 w2 w3).op = op := BitVec.extractLsb'_append_eq_right

@[simp] theorem a_mkW0 : (Words.mk (mkW0 op a b c) w1 w2 w3).a = a :=
  (BitVec.extractLsb'_append_eq_of_le le_rfl).trans BitVec.extractLsb'_append_eq_right

@[simp] theorem b_mkW0 : (Words.mk (mkW0 op a b c) w1 w2 w3).b = b :=
  (BitVec.extractLsb'_append_eq_of_le (by decide)).trans
    ((BitVec.extractLsb'_append_eq_of_le le_rfl).trans BitVec.extractLsb'_append_eq_right)

@[simp] theorem c_mkW0 : (Words.mk (mkW0 op a b c) w1 w2 w3).c = c :=
  (BitVec.extractLsb'_append_eq_of_le (by decide)).trans
    ((BitVec.extractLsb'_append_eq_of_le (by decide)).trans BitVec.extractLsb'_append_eq_left)

end

theorem mkW0_inj {op a b c op' a' b' c' : Byte} :
    mkW0 op a b c = mkW0 op' a' b' c' ↔ op = op' ∧ a = a' ∧ b = b' ∧ c = c' := by
  refine ⟨fun h => ?_, fun ⟨h0, h1, h2, h3⟩ => by rw [h0, h1, h2, h3]⟩
  have hw : Words.mk (mkW0 op a b c) 0 0 0 = ⟨mkW0 op' a' b' c', 0, 0, 0⟩ := by rw [h]
  exact ⟨by simpa using congrArg Words.op hw, by simpa using congrArg Words.a hw, by simpa using congrArg Words.b hw,
    by simpa using congrArg Words.c hw⟩

/-- A first word is made of its four fields. -/
theorem mkW0_fields (c : Words) : mkW0 c.op c.a c.b c.c = c.w0 := wordOfBytes_bytes c.w0

theorem mkW0_and (op a b c op' a' b' c' : Byte) :
    mkW0 op a b c &&& mkW0 op' a' b' c' = mkW0 (op &&& op') (a &&& a') (b &&& b') (c &&& c') :=
  BitVec.and_append.trans (congrArg (· ++ _) (BitVec.and_append.trans (congrArg (· ++ _) BitVec.and_append)))

/-- A first word is clear under a mask when each of its fields is. -/
theorem w0_and_eq_zero (w : Words) (op a b c : Byte) :
    w.w0 &&& mkW0 op a b c = 0#32 ↔ w.op &&& op = 0#8 ∧ w.a &&& a = 0#8 ∧ w.b &&& b = 0#8 ∧ w.c &&& c = 0#8 := by
  rw [← mkW0_fields w, mkW0_and]
  exact mkW0_inj (op' := 0) (a' := 0) (b' := 0) (c' := 0)

theorem toNat_op (c : Words) : c.op.toNat = c.w0.toNat % 256 := by simp [Words.op]

/-! ## The fields that are no whole byte or word (R132) -/

/-- The C byte of format G is voice, SEL and USERES when bits [7:5] are zero. -/
theorem eq_mkGetC_fields_iff : ∀ x : Byte,
    x = mkGetC (x.extractLsb' 0 3) (x.getLsbD 3) (x.getLsbD 4) ↔ x.extractLsb' 5 3 = 0#3 := by decide

theorem and_get_eq_zero_iff : ∀ x : Byte, x &&& 0xE0#8 = 0#8 ↔ x.extractLsb' 5 3 = 0#3 := by decide

theorem fields_mkGetC : ∀ (v : BitVec 3) (sel useres : Bool), (mkGetC v sel useres).extractLsb' 0 3 = v ∧
    (mkGetC v sel useres).getLsbD 3 = sel ∧ (mkGetC v sel useres).getLsbD 4 = useres := by decide

/-- A word is its two halves. -/
theorem halves_append (w : Word) : (w.extractLsb' 16 16 ++ w.extractLsb' 0 16 : Word) = w :=
  BitVec.extractLsb'_append_extractLsb'

theorem eq_zero_append_extractLsb'_iff (w : Word) : w = 0#16 ++ w.extractLsb' 0 16 ↔ w.extractLsb' 16 16 = 0#16 :=
  calc w = 0#16 ++ w.extractLsb' 0 16
    _ ↔ w.extractLsb' 16 16 ++ w.extractLsb' 0 16 = 0#16 ++ w.extractLsb' 0 16 := by rw [halves_append]
    _ ↔ w.extractLsb' 16 16 = 0#16 := BitVec.append_left_inj _

theorem and_high_eq_zero_iff (w : Word) : w &&& 0xFFFF0000#32 = 0#32 ↔ w.extractLsb' 16 16 = 0#16 := by
  have hmask : 0xFFFF0000#32 = BitVec.allOnes 16 ++ 0#16 := by decide
  have hzero : 0#32 = 0#16 ++ 0#16 := by decide
  have hand : w &&& 0xFFFF0000#32 = w.extractLsb' 16 16 ++ 0#16 :=
    calc w &&& 0xFFFF0000#32
      _ = (w.extractLsb' 16 16 ++ w.extractLsb' 0 16) &&& (BitVec.allOnes 16 ++ 0#16) := by rw [halves_append, hmask]
      _ = w.extractLsb' 16 16 ++ 0#16 := BitVec.and_append.trans (by rw [BitVec.and_allOnes, BitVec.and_zero])
  rw [hand, hzero]
  exact BitVec.append_left_inj (0#16)

/-! ## The formats (R132) -/

/-- The bits that a format marks 0. -/
def Format.mask : Format → Words
  | .Z => ⟨mkW0 0 0xFF 0xFF 0xFF, allBits, allBits, allBits⟩
  | .O | .N => ⟨mkW0 0 0 0xFF 0xFF, allBits, allBits, allBits⟩
  | .G => ⟨mkW0 0 0 0 0xE0, 0, allBits, allBits⟩
  | .NS | .NF0 => ⟨mkW0 0 0 0 0xFF, allBits, allBits, allBits⟩
  | .NF1 => ⟨mkW0 0 0 0 0xFF, 0, allBits, allBits⟩
  | .NF2 => ⟨mkW0 0 0 0 0xFF, 0, 0, allBits⟩
  | .NFB => ⟨mkW0 0 0 0 0, allBits, allBits, allBits⟩
  | .NP => ⟨mkW0 0 0 0xFF 0xFF, 0, allBits, allBits⟩
  | .NPP => ⟨mkW0 0 0 0xFF 0xFF, 0, 0, allBits⟩
  | .M => ⟨mkW0 0 0xFF 0xFF 0xFF, 0xFFFF0000, allBits, allBits⟩

/-- Four words with every field that a format marks 0 cleared: opcode and operands alone are left. -/
def Format.operands (f : Format) (c : Words) : Words :=
  match f with
  | .Z => ⟨mkW0 c.op 0 0 0, 0, 0, 0⟩
  | .O | .N => ⟨mkW0 c.op c.a 0 0, 0, 0, 0⟩
  | .G => ⟨mkW0 c.op c.a c.b (mkGetC (c.c.extractLsb' 0 3) (c.c.getLsbD 3) (c.c.getLsbD 4)), c.w1, 0, 0⟩
  | .NS | .NF0 => ⟨mkW0 c.op c.a c.b 0, 0, 0, 0⟩
  | .NF1 => ⟨mkW0 c.op c.a c.b 0, c.w1, 0, 0⟩
  | .NF2 => ⟨mkW0 c.op c.a c.b 0, c.w1, c.w2, 0⟩
  | .NFB => ⟨mkW0 c.op c.a c.b c.c, 0, 0, 0⟩
  | .NP => ⟨mkW0 c.op c.a 0 0, c.w1, 0, 0⟩
  | .NPP => ⟨mkW0 c.op c.a 0 0, c.w1, c.w2, 0⟩
  | .M => ⟨mkW0 c.op 0 0 0, 0#16 ++ c.w1.extractLsb' 0 16, 0, 0⟩

theorem eq_words_iff (c : Words) (op a b d : Byte) (w1 w2 w3 : Word) : c = ⟨mkW0 op a b d, w1, w2, w3⟩ ↔
    (c.op = op ∧ c.a = a ∧ c.b = b ∧ c.c = d) ∧ c.w1 = w1 ∧ c.w2 = w2 ∧ c.w3 = w3 := by
  rw [← mkW0_inj, mkW0_fields]
  exact Words.mk.injEq .. ▸ Iff.rfl

/-- The must-be-zero fields are zero when the words are the opcode and the operands alone. -/
theorem Format.mbzOk_iff_operands (f : Format) (c : Words) : f.mbzOk c = true ↔ c = f.operands c := by
  cases f <;>
    simp [Format.mbzOk, Format.operands, eq_words_iff, eq_mkGetC_fields_iff, eq_zero_append_extractLsb'_iff, and_assoc,
      -BitVec.getLsbD_eq_getElem]

theorem and_allBits (w : Word) : w &&& allBits = w := BitVec.and_allOnes

theorem and_byte (x : Byte) : x &&& 0xFF#8 = x := BitVec.and_allOnes

/-- The must-be-zero fields are zero when the words are clear under the mask. -/
theorem Format.mbzOk_iff_mask (f : Format) (c : Words) : f.mbzOk c = true ↔
    c.w0 &&& f.mask.w0 = 0 ∧ c.w1 &&& f.mask.w1 = 0 ∧ c.w2 &&& f.mask.w2 = 0 ∧ c.w3 &&& f.mask.w3 = 0 := by
  have hw0 := w0_and_eq_zero c
  cases f <;>
    simp [Format.mbzOk, Format.mask, hw0, and_allBits, and_byte, and_get_eq_zero_iff, and_high_eq_zero_iff, and_assoc]

/-! ## The opcode map (R134) -/

theorem op_eq_of_toNat {c : Words} {n : Nat} (h : c.op.toNat = n) : c.op = BitVec.ofNat 8 n := by
  rw [← h, BitVec.ofNat_toNat, BitVec.setWidth_eq]

/-- A command of the opcode map is encoded by the opcode and the operands that it was read from. -/
theorem encode_of_opcodeMap {c : Words} {f : Format} {i : Instr} (h : opcodeMap c.op.toNat c = some (f, i)) :
    encode i = f.operands c := by
  unfold opcodeMap at h
  split at h <;> cases h
  all_goals
    next hop =>
    simp only [encode, Format.operands, op_eq_of_toNat hop]
    rfl

/-- `mustBeZero` marks for each opcode what its format does, and knows no opcode outside the map. -/
theorem mustBeZero_eq (op : Nat) (c : Words) : mustBeZero op = (opcodeMap op c).map (·.1.mask) := by
  unfold opcodeMap
  split
  case h_29 => simp [mustBeZero, *]
  all_goals rfl

theorem mustBeZero_eq_some_iff {c m : Words} :
    mustBeZero (c.w0.toNat % 256) = some m ↔ ∃ f i, opcodeMap c.op.toNat c = some (f, i) ∧ f.mask = m := by
  rw [← toNat_op, mustBeZero_eq _ c]
  simp

/-- The opcode map reads the operands back; only formats G and M pack theirs into part of a field. -/
theorem opcodeMap_encode (i : Instr) : ∃ f, opcodeMap (encode i).op.toNat (encode i) = some (f, i) := by
  cases i with
  | oscGet o n v sel useres freq =>
    obtain ⟨hv, hs, hu⟩ := fields_mkGetC v sel useres
    simp [encode, opcodeMap, hv, hs, hu, -BitVec.getLsbD_eq_getElem]
  | mixAll mask =>
    have hmask : (0#16 ++ mask : Word).extractLsb' 0 16 = mask := BitVec.extractLsb'_append_eq_right
    simp [encode, opcodeMap, hmask]
  | _ => simp [encode, opcodeMap]

/-! ## The decoder (R138) -/

theorem decode_eq_ok_iff_opcodeMap {c : Words} {i : Instr} :
    decode c = .ok i ↔ ∃ f, opcodeMap c.op.toNat c = some (f, i) ∧ f.mbzOk c = true := by
  unfold decode
  split
  · next h => simp [h]
  · next f j h => cases hz : f.mbzOk c <;> simp [h, hz]

theorem encode_of_decode {c : Words} {i : Instr} (h : decode c = .ok i) : encode i = c := by
  obtain ⟨f, hmap, hzero⟩ := decode_eq_ok_iff_opcodeMap.1 h
  exact (encode_of_opcodeMap hmap).trans ((f.mbzOk_iff_operands c).1 hzero).symm

theorem decode_encode (i : Instr) : decode (encode i) = .ok i := by
  obtain ⟨f, hmap⟩ := opcodeMap_encode i
  exact decode_eq_ok_iff_opcodeMap.2 ⟨f, hmap, (f.mbzOk_iff_operands _).2 (encode_of_opcodeMap hmap)⟩

/-- Four words decode to the command they encode, and to no other. -/
theorem decode_eq_ok_iff {c : Words} {i : Instr} : decode c = .ok i ↔ encode i = c :=
  ⟨encode_of_decode, fun h => h ▸ decode_encode i⟩

/-- The first 16 bytes are the words, whatever follows (R93, R130). -/
theorem decodeBytes_bytesOfWords {c : Words} {i : Instr} (h : decode c = .ok i) (rest : List Byte) :
    decodeBytes (bytesOfWords c ++ rest) = .ok (i, rest) := by
  simp only [bytesOfWords, bytesOfWord, List.cons_append, List.nil_append, decodeBytes, wordOfBytes_bytes, h]

/-- What the decoder accepts is what R135 calls legal. -/
theorem decode_ok_iff_legal (c : Words) : (∃ i, decode c = .ok i) ↔ Legal c := by
  constructor
  · rintro ⟨i, h⟩
    obtain ⟨f, hmap, hzero⟩ := decode_eq_ok_iff_opcodeMap.1 h
    exact ⟨f.mask, mustBeZero_eq_some_iff.2 ⟨f, i, hmap, rfl⟩, (f.mbzOk_iff_mask c).1 hzero⟩
  · rintro ⟨_, hm, hclear⟩
    obtain ⟨f, i, hmap, rfl⟩ := mustBeZero_eq_some_iff.1 hm
    exact ⟨i, decode_eq_ok_iff_opcodeMap.2 ⟨f, hmap, (f.mbzOk_iff_mask c).2 hclear⟩⟩

/-- Settles O2: the opcode map reads the operands back, and an encoded command has nothing else in it. -/
theorem decodeEncode : Obligations.DecodeEncode := fun i =>
  ⟨decode_encode i, decodeBytes_bytesOfWords (decode_encode i)⟩

/-- Settles O3: legal words are their opcode and operands alone, and these are what is encoded. -/
theorem encodeDecode : Obligations.EncodeDecode := fun _ _ => encode_of_decode

/-- Settles O1: each command encodes to the words. -/
theorem decodeWords : Obligations.DecodeWords := by
  simp only [Obligations.DecodeWords, decode_eq_ok_iff]
  decide

end Sys2Proof

namespace Sys2Proof.Machine

/-! ## What the sequencer makes of four words (R131, R161) -/

theorem runWords_of_ok {c : Words} {i : Instr} (h : decode c = .ok i) (s : State) : runWords c s = exec i (s.latch c) := by
  rw [runWords, h]

theorem runWords_of_error {c : Words} {e : DecodeError} (h : decode c = .error e) (s : State) :
    runWords c s = .next ((s.latch c).raise .illegalCommand s.cptr c.w0) := by
  rw [runWords, h]
  rfl

/-- An index out of range comes before every other fault of a command (R138, R423). -/
theorem exec_of_not_wellFormed {i : Instr} (h : i.wellFormed = false) (s : State) :
    exec i s = .next (s.raiseCmd .indexRange) := by
  rw [exec_eq, show faultOf i s = some .indexRange from if_pos h]
  rfl

/-- Settles O4: the masks of R132 say what the decoder checks; the rest is what the sequencer makes of its answer. -/
theorem illegalCommands : Obligations.IllegalCommands := by
  refine ⟨decode_ok_iff_legal, fun c s hc => ?_, fun i s h => exec_of_not_wellFormed h s⟩
  cases hd : decode c with
  | ok i => exact absurd ((decode_ok_iff_legal c).1 ⟨i, hd⟩) hc
  | error e => exact runWords_of_error hd s

theorem step_of_seqNext {s : State} {rest : List Turn} (h : SeqNext s rest) :
    step s = seqStep { s with turns := rest } := by
  obtain ⟨hbusy, hturns | ⟨hturns, rfl⟩⟩ := h
  · exact (step_cons hturns).trans (if_pos hbusy)
  · rw [step_nil hturns, ← hturns]
    exact if_pos hbusy

/-- With CPTR at a command, the fetch reads four words on from it (R161). -/
theorem seqStep_of_words {s : State} {c : Words} (hin : s.cptr.toNat < 0x1000) (halign : s.cptr.toNat % 16 = 0)
    (h0 : s.mem.word? (0x1000 + s.cptr.toNat) = some c.w0) (h1 : s.mem.word? (0x1000 + s.cptr.toNat + 4) = some c.w1)
    (h2 : s.mem.word? (0x1000 + s.cptr.toNat + 8) = some c.w2)
    (h3 : s.mem.word? (0x1000 + s.cptr.toNat + 12) = some c.w3) : seqStep s = runWords c s := by
  have haddr : s.fetchAddr = 0x1000 + s.cptr.toNat := by
    rw [State.fetchAddr, cmdAddr]
    omega
  have hfetch : s.fetch = some c := by
    rw [State.fetch, haddr, h0, h1, h2, h3]
  rw [seqStep, if_neg (by omega), hfetch]

/-- Settles O5: the agenda gives SEQ the turn, and the fetch finds the four words. -/
theorem stepRunsCommand : Obligations.StepRunsCommand := by
  intro s rest c hnext hin halign h0 h1 h2 h3
  have hstep : step s = runWords c { s with turns := rest } :=
    (step_of_seqNext hnext).trans (seqStep_of_words hin halign h0 h1 h2 h3)
  exact ⟨fun i hi => hstep.trans (runWords_of_ok hi _), fun e he => hstep.trans (runWords_of_error he _)⟩

end Sys2Proof.Machine
end
